-- ==== Sys2Proof/Word.lean ====
section
/-! DEFINITION. The machine's word types and their plainest readings. -/

namespace Sys2Proof

/-- A byte; every byte map of the manual is little-endian (R6). -/
abbrev Byte := BitVec 8

/-- A 32-bit scalar pattern (R166). -/
abbrev Word := BitVec 32

/-- A 64-bit special register or counter value (R167, R47). -/
abbrev DWord := BitVec 64

/-- The 512 data bits of a flit (R34). -/
abbrev FlitData := BitVec 512

end Sys2Proof
end

