-- ==== Sys2Proof/Machine/Mem.lean ====
section
/-! DEFINITION. Byte memories in canonical form, and reading and writing them.

Every memory of the machine (pool, operand memory, configuration planes, DRAM) is a list of cells with strictly rising addresses that lists no byte equal to what an unlisted address reads as, which is 0 (R146 for a tile's pool; log 2, DESIGN CHOICE for DRAM). -/

namespace Sys2Proof.Machine

/-- A memory: cells with strictly rising addresses, none of them zero. -/
abbrev Mem := List Host.Cell

/-- Strictly rising addresses, above `lo`. -/
def Mem.risingFrom (lo : Nat) : Mem → Bool
  | [] => true
  | (a, b) :: r => decide (lo ≤ a) && b != 0 && Mem.risingFrom (a + 1) r

/-- The canonical form. -/
def Mem.wf (m : Mem) : Bool := Mem.risingFrom 0 m

/-- What an unlisted address reads as (log 2, DESIGN CHOICE). -/
def Mem.default : Byte := 0

/-- One byte. -/
def Mem.get (m : Mem) (a : Nat) : Byte :=
  match m with
  | [] => Mem.default
  | (k, b) :: r => if k = a then b else Mem.get r a

/-- The cells of a run of bytes from `a`. -/
def cellsOf (a : Nat) : List Byte → Mem
  | [] => []
  | b :: r => if b = Mem.default then cellsOf (a + 1) r else (a, b) :: cellsOf (a + 1) r

/-- Cells below an address. -/
def Mem.below (m : Mem) (a : Nat) : Mem := m.filter fun c => decide (c.1 < a)
/-- Cells at or above an address. -/
def Mem.above (m : Mem) (a : Nat) : Mem := m.filter fun c => decide (a ≤ c.1)

/-- Write a run of bytes from `a`. -/
def Mem.write (m : Mem) (a : Nat) (bs : List Byte) : Mem :=
  m.below a ++ cellsOf a bs ++ m.above (a + bs.length)

/-- Drop the cells before an address, of a rising list. -/
def Mem.from (m : Mem) (a : Nat) : Mem :=
  match m with
  | [] => []
  | (k, b) :: r => if k < a then Mem.from r a else (k, b) :: r

/-- The bytes from `a` of cells that start at or after `a`. -/
def Mem.take : Nat → Nat → Mem → List Byte
  | 0, _, _ => []
  | n + 1, a, m =>
    match m with
    | [] => Mem.default :: Mem.take n (a + 1) []
    | (k, b) :: r => if k = a then b :: Mem.take n (a + 1) r else Mem.default :: Mem.take n (a + 1) ((k, b) :: r)

/-- A run of `n` bytes from `a`. -/
def Mem.bytes (m : Mem) (a n : Nat) : List Byte := Mem.take n a (m.from a)

/-- Little-endian value of bytes (R6). -/
def leNat : List Byte → Nat
  | [] => 0
  | b :: r => b.toNat + 256 * leNat r

/-- The `n` little-endian bytes of a value. -/
def leBytes : Nat → Nat → List Byte
  | 0, _ => []
  | n + 1, v => BitVec.ofNat 8 v :: leBytes n (v / 256)

/-- A little-endian number of `n` bytes. -/
def Mem.nat (m : Mem) (a n : Nat) : Nat := leNat (m.bytes a n)
/-- Write a number as `n` little-endian bytes. -/
def Mem.put (m : Mem) (a n v : Nat) : Mem := m.write a (leBytes n v)

/-- Bytes `[a, a + n)` read as zero afterwards. -/
def Mem.clear (m : Mem) (a n : Nat) : Mem := m.below a ++ m.above (a + n)

/-- The field of `len` bits from bit `lo`. -/
def bitsAt (v lo len : Nat) : Nat := v / 2 ^ lo % 2 ^ len
/-- Bit `i` of a number. -/
def bitAt (v i : Nat) : Bool := v / 2 ^ i % 2 == 1
/-- Two's complement reading of `w` bits. -/
def sext (w v : Nat) : Int := if v % 2 ^ w < 2 ^ (w - 1) then (v % 2 ^ w : Nat) else ((v % 2 ^ w : Nat) : Int) - (2 ^ w : Nat)
/-- Two's complement pattern of `w` bits. -/
def wrapN (w : Nat) (i : Int) : Nat := (i % ((2 ^ w : Nat) : Int)).toNat
/-- The bytes of a byte list between two offsets. -/
def slice (l : List Byte) (a n : Nat) : List Byte := (l.drop a).take n
/-- A little-endian field of a byte list. -/
def leAt (l : List Byte) (a n : Nat) : Nat := leNat (slice l a n)

end Sys2Proof.Machine
end

