-- ==== Sys2Proof/Syntax.lean ====
section
/-! DEFINITION. The syntax of the machine: one constructor of `Instr` per row of the table of operations and events, and the operand records of the slot formats (R273 to R280).

A tile instruction's operands are the fields of its slot format. An event's or a command's operands are latched beside it (`Arg`). -/

namespace Sys2Proof

/-- The 16-bit issue word without its INDEX field (R160). -/
structure IssueWord where
  guard : BitVec 3
  wait : BitVec 4
  deriving DecidableEq, Repr

/-- Scalar format RR (R273). -/
structure RR where
  d : BitVec 5
  a : BitVec 5
  b : BitVec 5
  c : BitVec 5
  x : BitVec 3
  kb : Bool
  deriving DecidableEq, Repr

/-- Scalar format RI (R273). -/
structure RI where
  d : BitVec 5
  a : BitVec 5
  imm : BitVec 15
  deriving DecidableEq, Repr

/-- Scalar format LI (R273). -/
structure LI where
  d : BitVec 5
  imm : BitVec 20
  deriving DecidableEq, Repr

/-- Scalar format PC: a compare into a predicate (R273). -/
structure PC where
  pd : BitVec 3
  a : BitVec 5
  b : BitVec 5
  kb : Bool
  deriving DecidableEq, Repr

/-- Scalar format PL: predicate logic (R273). -/
structure PL where
  pd : BitVec 3
  pa : BitVec 3
  pb : BitVec 3
  deriving DecidableEq, Repr

/-- One test of a TREE: the predicate, its negation, and the target-table index it selects (R276). -/
structure TreeTest where
  neg : Bool
  pred : BitVec 3
  target : BitVec 6
  deriving DecidableEq, Repr

/-- TREE: count - 1 and the four test positions (R276). -/
structure TreeOp where
  last : BitVec 2
  t0 : TreeTest
  t1 : TreeTest
  t2 : TreeTest
  t3 : TreeTest
  deriving DecidableEq, Repr

/-- The fields every LOOP form shares: level, maximum MMAN * 2^MEXP and END offset (R276, R311). -/
structure LoopOp where
  lvl : BitVec 2
  mexp : BitVec 4
  mman : BitVec 8
  fin : BitVec 12
  deriving DecidableEq, Repr

/-- WAITC (R276, R315). -/
structure WaitOp where
  log : Bool
  b : BitVec 5
  imm : BitVec 38
  deriving DecidableEq, Repr

/-- BARW (R276, R317). -/
structure BarwOp where
  lvl : BitVec 2
  maxw : BitVec 20
  bound : BitVec 20
  deriving DecidableEq, Repr

/-- The single VX layout (R277). -/
structure VxOp where
  vd : BitVec 6
  va : BitVec 6
  vb : BitVec 6
  vc : BitVec 6
  mask : BitVec 3
  beats : BitVec 2
  ty : BitVec 3
  md : BitVec 8
  deriving DecidableEq, Repr

/-- MSQ with its entry named directly (R279, R352). -/
structure MsqOp where
  sa : BitVec 3
  sb : BitVec 3
  fe : BitVec 4
  beats : BitVec 8
  blk : BitVec 7
  acc : Bool
  deriving DecidableEq, Repr

/-- MSQ whose entry a loop counter selects; `form` is 0 MSQ, 1 MSQ.TA, 2 MSQ.TB, 3 MSQ.TAB (R205, R279). -/
structure MsqIxOp where
  form : BitVec 2
  sa : BitVec 3
  sb : BitVec 3
  k : BitVec 2
  base : BitVec 2
  beats : BitVec 8
  blk : BitVec 7
  acc : Bool
  deriving DecidableEq, Repr

/-- MDRAIN (R279, R357). -/
structure DrainOp where
  bn : BitVec 5
  x : BitVec 5
  blk : BitVec 7
  deriving DecidableEq, Repr

/-- MDRAINM (R279, R357). -/
structure DrainMOp where
  bn : BitVec 5
  x : BitVec 5
  mr : BitVec 3
  mc : BitVec 3
  zm : Bool
  blk : BitVec 7
  deriving DecidableEq, Repr

/-- MSCL: bank, scalar value, index 16 * lane + kb (R279, R361). -/
structure SclOp where
  bank : Bool
  v : BitVec 5
  idx : BitVec 9
  deriving DecidableEq, Repr

/-- MSTAT (R279, R362). -/
structure StatOp where
  d : BitVec 5
  clr : Bool
  deriving DecidableEq, Repr

/-- VLD, VST, VLDB (R280, R368). -/
structure VMemOp where
  v : BitVec 6
  bn : BitVec 5
  x : BitVec 5
  imm : BitVec 13
  cls : BitVec 4
  msk : BitVec 3
  nb : BitVec 2
  deriving DecidableEq, Repr

/-- VLDX, VSTX (R280, R368). -/
structure VMemXOp where
  v : BitVec 6
  bn : BitVec 5
  x : BitVec 5
  vi : BitVec 6
  cls : BitVec 4
  msk : BitVec 3
  nb : BitVec 2
  deriving DecidableEq, Repr

/-- The atomics (R280, R371). -/
structure AtomOp where
  s : BitVec 5
  bn : BitVec 5
  x : BitVec 5
  v : BitVec 5
  imm : BitVec 8
  cls : BitVec 4
  deriving DecidableEq, Repr

/-- SEND (R280, R373). -/
structure SendOp where
  v : BitVec 6
  cls : BitVec 4
  port : BitVec 3
  nb : BitVec 2
  deriving DecidableEq, Repr

/-- SENDS (R280, R373). -/
structure SendsOp where
  s : BitVec 5
  cls : BitVec 4
  port : BitVec 3
  deriving DecidableEq, Repr

/-- SENDM (R280, R373). -/
structure SendmOp where
  bn : BitVec 5
  x : BitVec 5
  imm : BitVec 13
  cls : BitVec 4
  port : BitVec 3
  nb : BitVec 2
  deriving DecidableEq, Repr

/-- RECV (R280, R373). -/
structure RecvOp where
  v : BitVec 6
  cls : BitVec 4
  nb : BitVec 2
  deriving DecidableEq, Repr

/-- RECVS (R280, R373). -/
structure RecvsOp where
  s : BitVec 5
  word : BitVec 4
  cls : BitVec 4
  deriving DecidableEq, Repr

/-- RECVM (R280, R373). -/
structure RecvmOp where
  bn : BitVec 5
  x : BitVec 5
  imm : BitVec 13
  cls : BitVec 4
  nb : BitVec 2
  deriving DecidableEq, Repr

/-- The copies (R280, R378). -/
structure CpyOp where
  ch : BitVec 2
  q : BitVec 4
  s0 : BitVec 5
  d0 : BitVec 5
  g0 : BitVec 5
  cls : BitVec 4
  st : BitVec 8
  deriving DecidableEq, Repr

/-- FENCE (R280, R381). -/
structure FenceOp where
  mask : BitVec 16
  f : BitVec 13
  deriving DecidableEq, Repr

/-- PMODE (R280, R382). -/
structure PmodeOp where
  sub : BitVec 4
  rule : BitVec 2
  ety : Bool
  deriving DecidableEq, Repr

/-- SVSAVE, SVLOAD (R280, R384). -/
structure SvOp where
  s : BitVec 5
  cls : BitVec 4
  deriving DecidableEq, Repr

/-- SVMSG (R280, R384). -/
structure SvmsgOp where
  v : BitVec 6
  cls : BitVec 4
  nb : BitVec 2
  deriving DecidableEq, Repr

/-- The operands of an event, latched beside it (log 3, DESIGN CHOICE): numbers in the order the event's docstring gives, and bytes. -/
structure Arg where
  n : List Nat
  bytes : List Byte
  deriving DecidableEq, Repr

/-- Operand `k` of an event, 0 where it has none. -/
def Arg.nat (a : Arg) (k : Nat) : Nat := a.n.getD k 0

/-- One constructor per row of the table of operations and events. An event's operands are latched in the state beside it (`Arg`), in the order its docstring gives. -/
inductive Instr where
  /-- NOP (R160). -/
  | nop (o : IssueWord)
  /-- LIT (R161). -/
  | lit (o : IssueWord) (lit : BitVec 32)
  /-- ADD (R292). -/
  | add (o : RR)
  /-- SUB (R292). -/
  | sub (o : RR)
  /-- AND (R292). -/
  | andS (o : RR)
  /-- OR (R292). -/
  | orS (o : RR)
  /-- XOR (R292). -/
  | xor (o : RR)
  /-- ANDN (R292). -/
  | andn (o : RR)
  /-- SHL (R292). -/
  | shl (o : RR)
  /-- SHR (R292). -/
  | shr (o : RR)
  /-- SRA (R292). -/
  | sra (o : RR)
  /-- ROL (R292). -/
  | rol (o : RR)
  /-- MIN (R292). -/
  | minS (o : RR)
  /-- MAX (R292). -/
  | maxS (o : RR)
  /-- MINU (R292). -/
  | minu (o : RR)
  /-- MAXU (R292). -/
  | maxu (o : RR)
  /-- SLT (R292). -/
  | slt (o : RR)
  /-- SLTU (R292). -/
  | sltu (o : RR)
  /-- SEQ (R292). -/
  | seq (o : RR)
  /-- ADDS (R292). -/
  | adds (o : RR)
  /-- SUBS (R292). -/
  | subs (o : RR)
  /-- ABS (R292). -/
  | absS (o : RR)
  /-- CLZ (R292). -/
  | clz (o : RR)
  /-- POPC (R292). -/
  | popc (o : RR)
  /-- BREV (R292). -/
  | brev (o : RR)
  /-- MUL (R292). -/
  | mul (o : RR)
  /-- MULH (R292). -/
  | mulh (o : RR)
  /-- MULHU (R292). -/
  | mulhu (o : RR)
  /-- DIV (R293). -/
  | div (o : RR)
  /-- DIVU (R293). -/
  | divu (o : RR)
  /-- REM (R293). -/
  | rem (o : RR)
  /-- REMU (R293). -/
  | remu (o : RR)
  /-- SELP (R292). -/
  | selp (o : RR)
  /-- ADDI (R294). -/
  | addi (o : RI)
  /-- ANDI (R294). -/
  | andi (o : RI)
  /-- ORI (R294). -/
  | ori (o : RI)
  /-- XORI (R294). -/
  | xori (o : RI)
  /-- SHLI (R294). -/
  | shli (o : RI)
  /-- SHRI (R294). -/
  | shri (o : RI)
  /-- SRAI (R294). -/
  | srai (o : RI)
  /-- SLTI (R294). -/
  | slti (o : RI)
  /-- SLTIU (R294). -/
  | sltiu (o : RI)
  /-- MOVI (R294). -/
  | movi (o : LI)
  /-- SETH (R294). -/
  | seth (o : LI)
  /-- MOVK (R294). -/
  | movk (o : LI)
  /-- FADD (R296). -/
  | fadd (o : RR)
  /-- FSUB (R296). -/
  | fsub (o : RR)
  /-- FMUL (R296). -/
  | fmul (o : RR)
  /-- FFMA (R296). -/
  | ffma (o : RR)
  /-- FMIN (R298). -/
  | fmin (o : RR)
  /-- FMAX (R298). -/
  | fmax (o : RR)
  /-- FABS (R296). -/
  | fabs (o : RR)
  /-- FNEG (R296). -/
  | fneg (o : RR)
  /-- FCVTI (R296). -/
  | fcvti (o : RR)
  /-- ICVTF (R296). -/
  | icvtf (o : RR)
  /-- FRCP (R297). -/
  | frcp (o : RR)
  /-- FRSQ (R297). -/
  | frsq (o : RR)
  /-- FRCPS (R299). -/
  | frcps (o : RR)
  /-- FRSQS (R299). -/
  | frsqs (o : RR)
  /-- PEQ (R300). -/
  | peq (o : PC)
  /-- PNE (R300). -/
  | pne (o : PC)
  /-- PLT (R300). -/
  | plt (o : PC)
  /-- PLTU (R300). -/
  | pltu (o : PC)
  /-- PGE (R300). -/
  | pge (o : PC)
  /-- PGEU (R300). -/
  | pgeu (o : PC)
  /-- PFLT (R300). -/
  | pflt (o : PC)
  /-- PFLE (R300). -/
  | pfle (o : PC)
  /-- PFUN (R300). -/
  | pfun (o : PC)
  /-- PAND (R301). -/
  | pand (o : PL)
  /-- POR (R301). -/
  | por (o : PL)
  /-- PXOR (R301). -/
  | pxor (o : PL)
  /-- PNOT (R301). -/
  | pnot (o : PL)
  /-- PSET (R301). -/
  | pset (o : PL)
  /-- PTOS (R301). -/
  | ptos (o : RR)
  /-- RDSP (R302). -/
  | rdsp (o : RI)
  /-- WRSP (R303). -/
  | wrsp (o : RI)
  /-- RDCYC (R304). -/
  | rdcyc (o : RI)
  /-- RDWP (R304). -/
  | rdwp (o : RI)
  /-- LDW (R305). -/
  | ldw (o : RI)
  /-- LDH (R305). -/
  | ldh (o : RI)
  /-- LDHU (R305). -/
  | ldhu (o : RI)
  /-- LDB (R305). -/
  | ldb (o : RI)
  /-- LDBU (R305). -/
  | ldbu (o : RI)
  /-- STW (R305). -/
  | stw (o : RI)
  /-- STH (R305). -/
  | sth (o : RI)
  /-- STB (R305). -/
  | stb (o : RI)
  /-- TREE (R309). -/
  | tree (o : TreeOp)
  /-- JMP (R310). -/
  | jmp (t : BitVec 6)
  /-- JMP_INDIRECT (R310). -/
  | jmpIndirect (r : BitVec 5)
  /-- CALL (R310). -/
  | call (t : BitVec 6)
  /-- CALL_INDIRECT (R310). -/
  | callIndirect (r : BitVec 5)
  /-- LOOP_COUNTED (R313). -/
  | loopCounted (o : LoopOp) (cnt : BitVec 13)
  /-- LOOP_REGISTER_COUNT (R313). -/
  | loopRegisterCount (o : LoopOp) (r : BitVec 5)
  /-- LOOP_UNTIL (R313). -/
  | loopUntil (o : LoopOp) (pk : BitVec 3)
  /-- WAITC (R315). -/
  | waitc (o : WaitOp)
  /-- BARA (R316). -/
  | bara (lvl : BitVec 2)
  /-- BARW (R317). -/
  | barw (o : BarwOp)
  /-- STEP (R318). -/
  | step (lvl : BitVec 2)
  /-- TRAP (R319). -/
  | trap (imm : BitVec 16)
  /-- ALIGN (R321). -/
  | align (d : BitVec 5)
  /-- RBMARK (R322). -/
  | rbmark (b : BitVec 5) (imm : BitVec 39)
  /-- VADD (R330). -/
  | vadd (o : VxOp)
  /-- VSUB (R330). -/
  | vsub (o : VxOp)
  /-- VADDS (R330). -/
  | vadds (o : VxOp)
  /-- VADDSU (R330). -/
  | vaddsu (o : VxOp)
  /-- VSUBS (R330). -/
  | vsubs (o : VxOp)
  /-- VSUBSU (R330). -/
  | vsubsu (o : VxOp)
  /-- VMUL (R330). -/
  | vmul (o : VxOp)
  /-- VMULH (R330). -/
  | vmulh (o : VxOp)
  /-- VMULHU (R330). -/
  | vmulhu (o : VxOp)
  /-- VMULW (R331). -/
  | vmulw (o : VxOp)
  /-- VMULWU (R331). -/
  | vmulwu (o : VxOp)
  /-- VMACW (R331). -/
  | vmacw (o : VxOp)
  /-- VMACWU (R331). -/
  | vmacwu (o : VxOp)
  /-- VAND (R330). -/
  | vand (o : VxOp)
  /-- VOR (R330). -/
  | vor (o : VxOp)
  /-- VXOR (R330). -/
  | vxor (o : VxOp)
  /-- VANDN (R330). -/
  | vandn (o : VxOp)
  /-- VSHL (R330). -/
  | vshl (o : VxOp)
  /-- VSHR (R330). -/
  | vshr (o : VxOp)
  /-- VSRA (R330). -/
  | vsra (o : VxOp)
  /-- VMIN (R330). -/
  | vmin (o : VxOp)
  /-- VMAX (R330). -/
  | vmax (o : VxOp)
  /-- VMINU (R330). -/
  | vminu (o : VxOp)
  /-- VMAXU (R330). -/
  | vmaxu (o : VxOp)
  /-- VABS (R330). -/
  | vabs (o : VxOp)
  /-- VAVG (R330). -/
  | vavg (o : VxOp)
  /-- VCLZ (R330). -/
  | vclz (o : VxOp)
  /-- VPOPC (R330). -/
  | vpopc (o : VxOp)
  /-- VSHLI (R330). -/
  | vshli (o : VxOp)
  /-- VSHRI (R330). -/
  | vshri (o : VxOp)
  /-- VSRAI (R330). -/
  | vsrai (o : VxOp)
  /-- VFADD (R332). -/
  | vfadd (o : VxOp)
  /-- VFSUB (R332). -/
  | vfsub (o : VxOp)
  /-- VFMUL (R332). -/
  | vfmul (o : VxOp)
  /-- VFFMA (R332). -/
  | vffma (o : VxOp)
  /-- VFMIN (R333). -/
  | vfmin (o : VxOp)
  /-- VFMAX (R333). -/
  | vfmax (o : VxOp)
  /-- VFABS (R332). -/
  | vfabs (o : VxOp)
  /-- VFNEG (R332). -/
  | vfneg (o : VxOp)
  /-- VFRCP (R333). -/
  | vfrcp (o : VxOp)
  /-- VFRSQ (R333). -/
  | vfrsq (o : VxOp)
  /-- VFRCPS (R332). -/
  | vfrcps (o : VxOp)
  /-- VFRSQS (R332). -/
  | vfrsqs (o : VxOp)
  /-- VFEXP2 (R333). -/
  | vfexp2 (o : VxOp)
  /-- VFSCALE (R332). -/
  | vfscale (o : VxOp)
  /-- VCEQ (R334). -/
  | vceq (o : VxOp)
  /-- VCLT (R334). -/
  | vclt (o : VxOp)
  /-- VCLTU (R334). -/
  | vcltu (o : VxOp)
  /-- VFCEQ (R334). -/
  | vfceq (o : VxOp)
  /-- VFCLT (R334). -/
  | vfclt (o : VxOp)
  /-- VFCLE (R334). -/
  | vfcle (o : VxOp)
  /-- VFCUN (R334). -/
  | vfcun (o : VxOp)
  /-- MAND (R335). -/
  | mand (o : VxOp)
  /-- MOR (R335). -/
  | mor (o : VxOp)
  /-- MXOR (R335). -/
  | mxor (o : VxOp)
  /-- MNOT (R335). -/
  | mnot (o : VxOp)
  /-- MPOP (R335). -/
  | mpop (o : VxOp)
  /-- MBIT (R335). -/
  | mbit (o : VxOp)
  /-- MTOV (R335). -/
  | mtov (o : VxOp)
  /-- MFIRST (R335). -/
  | mfirst (o : VxOp)
  /-- VSEL (R336). -/
  | vsel (o : VxOp)
  /-- VMOV (R336). -/
  | vmov (o : VxOp)
  /-- VSPLAT (R336). -/
  | vsplat (o : VxOp)
  /-- VEXT (R336). -/
  | vext (o : VxOp)
  /-- VINS (R336). -/
  | vins (o : VxOp)
  /-- VIOTA (R336). -/
  | viota (o : VxOp)
  /-- VZERO (R336). -/
  | vzero (o : VxOp)
  /-- VCVT (R337). -/
  | vcvt (o : VxOp)
  /-- VWIDEN (R338). -/
  | vwiden (o : VxOp)
  /-- VNARROW (R338). -/
  | vnarrow (o : VxOp)
  /-- VNARROWU (R338). -/
  | vnarrowu (o : VxOp)
  /-- VQMAX (R340). -/
  | vqmax (o : VxOp)
  /-- VQSCALE (R341). -/
  | vqscale (o : VxOp)
  /-- VQCVT (R342). -/
  | vqcvt (o : VxOp)
  /-- VDEQ (R343). -/
  | vdeq (o : VxOp)
  /-- VRSUM (R344). -/
  | vrsum (o : VxOp)
  /-- VRSUMU (R344). -/
  | vrsumu (o : VxOp)
  /-- VRMAX (R344). -/
  | vrmax (o : VxOp)
  /-- VRMIN (R344). -/
  | vrmin (o : VxOp)
  /-- VFRSUM (R344). -/
  | vfrsum (o : VxOp)
  /-- VFRMAX (R344). -/
  | vfrmax (o : VxOp)
  /-- VFRMIN (R344). -/
  | vfrmin (o : VxOp)
  /-- VSHUF (R345). -/
  | vshuf (o : VxOp)
  /-- VROT (R346). -/
  | vrot (o : VxOp)
  /-- VZIP (R346). -/
  | vzip (o : VxOp)
  /-- VUNZIP (R346). -/
  | vunzip (o : VxOp)
  /-- VREV (R346). -/
  | vrev (o : VxOp)
  /-- VSHRINK (R347). -/
  | vshrink (o : VxOp)
  /-- MSQ (R354). -/
  | msq (o : MsqOp)
  /-- MSQ_TA (R354). -/
  | msqTa (o : MsqOp)
  /-- MSQ_TB (R354). -/
  | msqTb (o : MsqOp)
  /-- MSQ_TAB (R354). -/
  | msqTab (o : MsqOp)
  /-- MSQ_INDEXED (R205). -/
  | msqIndexed (o : MsqIxOp)
  /-- MZERO (R356). -/
  | mzero (blk : BitVec 7)
  /-- MDRAIN (R358). -/
  | mdrain (o : DrainOp)
  /-- MDRAINM (R358). -/
  | mdrainm (o : DrainMOp)
  /-- MCLAIM (R360). -/
  | mclaim (slot : BitVec 3)
  /-- MREL (R360). -/
  | mrel (slot : BitVec 3)
  /-- MSCL (R361). -/
  | mscl (o : SclOp)
  /-- MSTAT (R362). -/
  | mstat (o : StatOp)
  /-- VLD (R369). -/
  | vld (o : VMemOp)
  /-- VST (R369). -/
  | vst (o : VMemOp)
  /-- VLDX (R369). -/
  | vldx (o : VMemXOp)
  /-- VSTX (R369). -/
  | vstx (o : VMemXOp)
  /-- VLDB (R369). -/
  | vldb (o : VMemOp)
  /-- AADD (R371). -/
  | aadd (o : AtomOp)
  /-- AMAX (R371). -/
  | amax (o : AtomOp)
  /-- AMIN (R371). -/
  | amin (o : AtomOp)
  /-- AXCH (R371). -/
  | axch (o : AtomOp)
  /-- ACAS (R371). -/
  | acas (o : AtomOp)
  /-- SEND (R374). -/
  | send (o : SendOp)
  /-- SENDS (R374). -/
  | sends (o : SendsOp)
  /-- SENDM (R374). -/
  | sendm (o : SendmOp)
  /-- RECV (R377). -/
  | recv (o : RecvOp)
  /-- RECVS (R377). -/
  | recvs (o : RecvsOp)
  /-- RECVM (R377). -/
  | recvm (o : RecvmOp)
  /-- CPY (R181). -/
  | cpy (o : CpyOp)
  /-- CPYM (R378). -/
  | cpym (o : CpyOp)
  /-- CPYG (R379). -/
  | cpyg (o : CpyOp)
  /-- CPYW (R378). -/
  | cpyw (o : CpyOp)
  /-- FENCE (R232). -/
  | fence (o : FenceOp)
  /-- PMODE (R383). -/
  | pmode (o : PmodeOp)
  /-- SVSAVE (R385). -/
  | svsave (o : SvOp)
  /-- SVLOAD (R385). -/
  | svload (o : SvOp)
  /-- SVMSG (R387). -/
  | svmsg (o : SvmsgOp)
  /-- POWER_ON_RESET (R27). -/
  | powerOnReset
  /-- BUILT_IN_TEST_COMPLETE (R26). Operands: four numbers (field x, field y, column, row) for each failed tile. -/
  | builtInTestComplete
  /-- FIRMWARE_INSTALL (R27). Operands: stage; bytes: its image, and its signature in the last 96. -/
  | firmwareInstall
  /-- MAP_INSTALL (R28). Bytes: the map and its signature. -/
  | mapInstall
  /-- FULL_WAFER_SELF_TEST (R28). -/
  | fullWaferSelfTest
  /-- FULL_WAFER_SELF_TEST_COMPLETE (R28). Operands: whether the routers and links of field column 0 (bit 0) and 11 (bit 1) pass, then four numbers (field x, field y, column, row) for each failed tile; bytes: the 8,712 trims measured. -/
  | fullWaferSelfTestComplete
  /-- ALLOW_LIST_INSTALL (R97). Operands: the addresses. -/
  | allowListInstall
  /-- PORT_ADDRESS_CONFIG (R94). Operands: port, MAC address, IPv4 address, IPv6 address. -/
  | portAddressConfig
  /-- CLOCK_GROUP_CONFIG (R128). Operands: the group, then its members. -/
  | clockGroupConfig
  /-- DEBUG_CONTROL_WRITE (R264). Operands: x, y, kind (0 control word, 1 filter, 2 ring, 3 stop, 4 resume) and value (the word, the filter, the GCY of the resume); bytes: ring contents. -/
  | debugControlWrite
  /-- CLOCK_LOWER (R31). Operands: steps. -/
  | clockLower
  /-- CLOCK_RAISE (R31). Operands: steps. -/
  | clockRaise
  /-- THERMAL_EMERGENCY (R32). -/
  | thermalEmergency
  /-- THERMAL_RECOVERY (R32). -/
  | thermalRecovery
  /-- ARP_REQUEST (R94). Operands: those of OPEN; the destination is the address asked for, the source the asker's. -/
  | arpRequest
  /-- NEIGHBOR_DISCOVERY (R94). Operands: those of OPEN; the destination is the address asked for, the source the asker's. -/
  | neighborDiscovery
  /-- ICMP_ECHO (R94). Operands: those of OPEN; bytes: the payload of the echo. -/
  | icmpEcho
  /-- OPEN (R97). Operands: the fields of the frame (`Frame`): port, size, IP version, protocol, 1 for an IPv4 fragment, source and destination address, source and destination UDP port, UDP checksum, and the 802.1Q tag if it has one; bytes: the payload of UDP, which is the packet. -/
  | openS
  /-- DATA (R98). Operands: those of OPEN; or two, session and sequence number, of a packet that is already held. -/
  | data
  /-- ACK (R98). Operands: those of OPEN. -/
  | ack
  /-- PROBE (R96). Operands: those of OPEN. -/
  | probe
  /-- CLOSE (R97). Operands: those of OPEN. -/
  | close
  /-- ACK_TIMER_EXPIRY (R98). Operands: sid. -/
  | ackTimerExpiry
  /-- RETRANSMIT_TIMER_EXPIRY (R98). Operands: sid, seqNo. -/
  | retransmitTimerExpiry
  /-- SESSION_IDLE_TIMEOUT (R97). Operands: sid. -/
  | sessionIdleTimeout
  /-- OPEN_CONTEXT (R105). Operands: session, context, queue, tag, dependencies ...; bytes: the body. -/
  | openContext
  /-- CLOSE_CONTEXT (R121). Operands: session, context, queue, tag, dependencies ...; bytes: the body. -/
  | closeContext
  /-- LOAD_IMAGE (R123). Operands: session, context, queue, tag, dependencies ...; bytes: the body. -/
  | loadImage
  /-- IMAGE_LOAD_COMPLETE (R123). Operands: ctx, tag. -/
  | imageLoadComplete
  /-- WRITE_DRAM (R122). Operands: session, context, queue, tag, dependencies ...; bytes: the body. -/
  | writeDram
  /-- READ_DRAM (R122). Operands: session, context, queue, tag, dependencies ...; bytes: the body. -/
  | readDram
  /-- HOST_DRAM_ACCESS_COMPLETE (R122). Operands: ctx, tag. -/
  | hostDramAccessComplete
  /-- LAUNCH (R101). Operands: session, context, queue, tag, dependencies ...; bytes: the body. -/
  | launch
  /-- GRAPH_DEFINE (R115). Operands: session, context, queue, tag, dependencies ...; bytes: the body. -/
  | graphDefine
  /-- GRAPH_RUN (R116). Operands: session, context, queue, tag, dependencies ...; bytes: the body. -/
  | graphRun
  /-- GRAPH_PATCH (R117). Operands: session, context, queue, tag, dependencies ...; bytes: the body. -/
  | graphPatch
  /-- CANCEL (R118). Operands: session, context, queue, tag, dependencies ...; bytes: the body. -/
  | cancel
  /-- SET_DETERMINISM (R114). Operands: session, context, queue, tag, dependencies ...; bytes: the body. -/
  | setDeterminism
  /-- PREEMPT (R120). Operands: session, context, queue, tag, dependencies ...; bytes: the body. -/
  | preempt
  /-- QUERY (R124). Operands: session, context, queue, tag, dependencies ...; bytes: the body. -/
  | query
  /-- ATTEST (R125). Operands: session, context, queue, tag, dependencies ...; bytes: the body. Session 0 is the management port (R10). -/
  | attest
  /-- SUBSCRIBE (R126). Operands: session, context, queue, tag, dependencies ...; bytes: the body. -/
  | subscribe
  /-- DISPATCH (R107). -/
  | dispatch
  /-- SCRIPT_LOAD_AND_PIN (R89). Operands: launch, unit. -/
  | scriptLoadAndPin
  /-- CONFIG_LOAD_COMPLETE (R138). Operands: launch. -/
  | configLoadComplete
  /-- TSTART_FIX (R143). Operands: launch. -/
  | tstartFix
  /-- PLANE_SWAP (R140). Operands: x, y. -/
  | planeSwap
  /-- LAUNCH_START (R145). Operands: launch. -/
  | launchStart
  /-- ITERATION_START (R148). Operands: x, y. -/
  | iterationStart
  /-- DRAIN_POINT (R149). Operands: x, y. -/
  | drainPoint
  /-- LAUNCH_RETIRE (R151). Operands: launch. -/
  | launchRetire
  /-- SWITCH_ENTRY_ADVANCE (R38). Operands: x, y. -/
  | switchEntryAdvance
  /-- FLIT_ARRIVAL (R41). Operands: x, y, port (0 to 3 the inputs N, E, S, W; 4 Local; 5 to 8 a staging engine beyond that edge), the 512 data bits, POISON, and for Local the output that the sending form names. -/
  | flitArrival
  /-- LANDING_WINDOW_EXPIRY (R44). Operands: x, y. -/
  | landingWindowExpiry
  /-- ALIGNMENT_POINT (R49). Operands: x, y; none for the exchange of all tiles that read the reference. -/
  | alignmentPoint
  /-- ALIGNMENT_SAMPLE (R49). Operands: x, y, dir, sample. -/
  | alignmentSample
  /-- ALIGNMENT_COMPARE (R50). Operands: x, y; none for the comparison of all tiles that read the reference. -/
  | alignmentCompare
  /-- DISTAFF_UPSTREAM_PAYLOAD (R56). Operands: x, y, and 1 for a payload that reaches Markhor. -/
  | distaffUpstreamPayload
  /-- DISTAFF_DOWNSTREAM_PAYLOAD (R56). Operands: x, y. -/
  | distaffDownstreamPayload
  /-- DISTAFF_BROADCAST_PAYLOAD (R58). Operands: fx, fy. -/
  | distaffBroadcastPayload
  /-- BARRIER_RELEASE (R64). Operands: x, y, lvl. -/
  | barrierRelease
  /-- STEP_SKEW (R66). Operands: x, y, lvl. -/
  | stepSkew
  /-- ROVING_MESSAGE (R69). Operands: fx, fy, stamp, kind, cause, origin x, origin y. -/
  | rovingMessage
  /-- HARDWARE_ERROR (R256). Operands: cause, unit kind (0 tile, 1 engine, 2 field controller, ring or field node, 3 none, 4 group node, 5 root node), its place (x and y, or a number and 0), and for an error of a window buffer the slot and the position. -/
  | hardwareError
  /-- LAUNCH_STOP (R70). Operands: launch. -/
  | launchStop
  /-- CHECKPOINT (R255). Operands: launch. -/
  | checkpoint
  /-- CHECKPOINT_CONFIRM (R255). Operands: launch. -/
  | checkpointConfirm
  /-- SELF_TEST_COMPLETE (R257). Operands: passed (0 or 1). -/
  | selfTestComplete
  /-- RESUME_START (R399). Operands: launch. -/
  | resumeStart
  /-- PREEMPT_SAVE_COMPLETE (R157). Operands: launch. -/
  | preemptSaveComplete
  /-- CONTEXT_KILL (R253). Operands: kind (0 frozen tile: context, x, y; 1 tainted interval: context, engine, entry). -/
  | contextKill
  /-- TRAP_TAKE (R245). Operands: x, y. -/
  | trapTake
  /-- FETCH_START (R85). Operands: launch, engine, entry. -/
  | fetchStart
  /-- FETCH_DATA_ARRIVAL (R85). Operands: launch, engine, entry, flit. -/
  | fetchDataArrival
  /-- STAGING_INJECT (R79). Operands: launch, engine, entry, flit. -/
  | stagingInject
  /-- STAGING_WRITE_LANDING (R82). Operands: launch, engine, entry, flit. -/
  | stagingWriteLanding
  /-- COMMIT_DECISION (R88). Operands: launch, bound. -/
  | commitDecision
  /-- COMMIT_COMPLETE (R88). Operands: launch, bound. -/
  | commitComplete
  /-- BRIDGE_MESSAGE_ARRIVAL (R127). Operands: port, msg; bytes: data. -/
  | bridgeMessageArrival
  /-- BRIDGE_SEND (R131). Operands: launch, port, entry. -/
  | bridgeSend
  /-- BRIDGE_RECEIVE_INJECT (R131). Operands: launch, port, entry, flit. -/
  | bridgeReceiveInject
  /-- PTP_MESSAGE (R128). Operands: offset in ns as sign (1 for negative) and magnitude, steering in ppm likewise. -/
  | ptpMessage
  /-- WAITC_RELEASE (R315). Operands: x, y. -/
  | waitcRelease
  /-- ALIGN_RESUME (R52). Operands: x, y. -/
  | alignResume
  /-- BARW_TIMEOUT (R317). Operands: x, y. -/
  | barwTimeout
  /-- SERVICE_TRANSFER_END (R385). Operands: x, y, res. -/
  | serviceTransferEnd
  /-- CHAINED_COMMAND_ISSUE (R183). Operands: x, y, ch. -/
  | chainedCommandIssue
  /-- DEBUG_STOP (R267). Operands: x, y. -/
  | debugStop
  /-- DEBUG_RESUME (R267). Operands: x, y. -/
  | debugResume
  /-- RET (R310). -/
  | ret
  /-- XRET (R247). -/
  | xret
  /-- END (R320). -/
  | endS
  /-- HALTDBG (R323). -/
  | haltdbg
  /-- TRIG (R323). -/
  | trig
  /-- PREEMPTPT (R323). -/
  | preemptpt
  /-- CHKON (R323). -/
  | chkon
  /-- CHKOFF (R323). -/
  | chkoff
  /-- DISCARDED_PACKET (R95). Operands: those of OPEN. -/
  | discardedPacket
  /-- COUNTER_DRIFT (R50). Operands: x, y, sign (1 for negative) and magnitude of the drift. -/
  | counterDrift
  /-- POOL_SRAM_UPSET (R394). Operands: x, y, addr, flips. -/
  | poolSramUpset
  /-- PREEMPT_SAVE_FAILURE (R157). Operands: launch, perm (0 or 1), va. -/
  | preemptSaveFailure
  /-- CLOCK_GROUP_N_CHANGE (R128). Operands: n. -/
  | clockGroupNChange
  deriving DecidableEq, Repr

end Sys2Proof
end

