-- ==== Sys2Proof/WellFormed.lean ====
section
/-! DEFINITION. Which instructions the loader accepts: the checks that R273 to R283 and R329 make on one slot's own fields.

`Instr.loadCause` answers the load cause (0x02 illegal encoding, 0x03 reserved bits) that rejects the instruction; `WellFormed` says that there is none. Checks that need the plane's tables (targets, records, blocks) are the loader's (Machine/Loader.lean). -/

namespace Sys2Proof

/-- Illegal slot encoding (R240). -/
def illegal : Nat := 0x02
/-- Reserved bits set, or an invalid record (R240). -/
def reserved : Nat := 0x03

/-- The first cause of a list of checks. -/
def firstCause : List (Bool × Nat) → Option Nat
  | [] => none
  | (bad, c) :: r => if bad then some c else firstCause r

/-- The VX element widths by type code (R186). -/
def tyWidth (t : BitVec 3) : Nat :=
  match t.toNat with
  | 0 => 4 | 1 => 8 | 2 => 16 | 3 => 32 | 4 => 16 | 5 => 16 | 6 => 32 | _ => 8

/-- Type codes 0 to 3: the integer types I4, I8, I16, I32 (R186). -/
def tyIsInt (t : BitVec 3) : Bool := t.toNat < 4
/-- F16, BF16, F32 (R186). -/
def tyIsFloat (t : BitVec 3) : Bool := t.toNat == 4 || t.toNat == 5 || t.toNat == 6

/-- Storage width of a format code (R185). -/
def fmtWidth (f : Nat) : Nat :=
  match f with
  | 0 => 1 | 1 => 4 | 2 => 4 | 3 => 8 | 4 => 8 | 5 => 16 | 6 => 4 | 7 => 8 | 8 => 8 | 9 => 8
  | 10 => 8 | 11 => 4 | 12 => 8 | 13 => 8 | 14 => 8 | 15 => 8 | 16 => 8 | 17 => 8 | 18 => 8
  | 19 => 16 | 20 => 16 | 21 => 32 | 22 => 32 | _ => 8

/-- How a VX row uses one of the four register fields (R277, R329). -/
inductive FieldUse where
  | none | v | m | s | q
  deriving DecidableEq, Repr

/-- A field that names no register, or one of a small file, has its upper bits zero (R277). -/
def FieldUse.bad (u : FieldUse) (f : BitVec 6) : Bool :=
  match u with
  | .none => f != 0
  | .v => false
  | .m => decide (f.toNat ≥ 8)
  | .s => decide (f.toNat ≥ 32)
  | .q => decide (f.toNat ≥ 4)

/-- The types a VX row accepts (R329). -/
inductive TySet where
  | none | any | int | narrowInt | wideInt | float | widen | shuf
  deriving DecidableEq, Repr

/-- A type that the row does not list is illegal (R329). -/
def TySet.bad (u : TySet) (t : BitVec 3) : Option Nat :=
  match u with
  | .none => if t != 0 then some illegal else Option.none
  | .any => Option.none
  | .int => if tyIsInt t then Option.none else some illegal
  | .narrowInt => if t.toNat < 3 then Option.none else some illegal
  | .wideInt => if t.toNat == 1 || t.toNat == 2 || t.toNat == 3 then Option.none else some illegal
  | .float => if tyIsFloat t then Option.none else some illegal
  | .widen => if t.toNat < 3 || t.toNat == 4 || t.toNat == 5 then Option.none else some illegal
  | .shuf => if t.toNat == 0 then some illegal else Option.none

/-- The shape of a VX row of R329: its register fields and types. -/
structure VxShape where
  vd : FieldUse
  va : FieldUse
  vb : FieldUse
  vc : FieldUse
  ty : TySet
  deriving DecidableEq, Repr

/-- The shape checks of a row, then its own checks (R277, R329). -/
def VxOp.check (o : VxOp) (sh : VxShape) (own : List (Bool × Nat)) : Option Nat :=
  if sh.vd.bad o.vd || sh.va.bad o.va || sh.vb.bad o.vb || sh.vc.bad o.vc then some reserved
  else match sh.ty.bad o.ty with
    | some c => some c
    | none => firstCause own

/-- A modifier of 0; every other value is illegal (R329). -/
def VxOp.plainMd (o : VxOp) : Bool × Nat := (o.md != 0, illegal)
/-- A row that requires mask field 0 (R325). -/
def VxOp.noMask (o : VxOp) : Bool × Nat := (o.mask != 0, illegal)
/-- A row that fixes b = 1 (R329). Another count is an encoding that the instruction does not accept, cause 0x02 (R282, R325; log 13, DESIGN CHOICE). -/
def VxOp.oneBeat (o : VxOp) : Bool × Nat := (o.beats != 0, illegal)

def VxOp.n (o : VxOp) (hi lo : Nat) : Nat := (o.md.toNat / 2 ^ lo) % 2 ^ (hi + 1 - lo)

/-- Rounding mode in [2:0] of a VX conversion: codes 0 to 5 (R207). -/
def VxOp.badMode (o : VxOp) : Bool × Nat := (decide (o.n 2 0 > 5), illegal)

/-- VCVT's own checks (R337): the destination code, the mode, the expansion factor and the group's alignment. -/
def VxOp.cvtChecks (o : VxOp) : List (Bool × Nat) :=
  let f := o.n 7 3
  let ws := tyWidth o.ty
  let wd := fmtWidth f
  [(!((1 ≤ f && f ≤ 10) || (19 ≤ f && f ≤ 22)), illegal), o.badMode, (wd / ws == 8, illegal),
   (decide (wd / ws ≥ 1 ∧ o.vd.toNat % (wd / ws) ≠ 0), illegal)]

/-- VWIDEN's own checks (R338): bits [7:2] are zero, U serves integers, X4 serves I4 and I8, the group is aligned. -/
def VxOp.widenChecks (o : VxOp) : List (Bool × Nat) :=
  [(o.n 7 2 != 0, illegal), (o.n 0 0 == 1 && !tyIsInt o.ty, illegal),
   (o.n 1 1 == 1 && !(o.ty.toNat < 2), illegal),
   (o.vd.toNat % (if o.n 1 1 == 1 then 4 else 2) != 0, illegal)]

/-- VNARROW and VNARROWU (R329, R338). -/
def VxOp.narrowChecks (o : VxOp) (uns : Bool) : List (Bool × Nat) :=
  [(o.n 7 6 != 0, illegal), (decide (o.n 5 1 ≥ tyWidth o.ty), illegal), (uns && o.n 0 0 == 1, illegal)]

/-- VEXT: the Q form has every other field zero (R325, R329, R336), its beats too, with cause 0x02 as in `oneBeat` (log 13, DESIGN CHOICE). -/
def VxOp.vextCause (o : VxOp) : Option Nat :=
  if o.n 1 1 == 1 then
    o.check ⟨.s, .q, .none, .none, .none⟩
      [(o.n 7 2 != 0, illegal), (o.n 0 0 == 1, illegal), (o.beats != 0, illegal), (o.mask != 0, illegal)]
  else o.check ⟨.s, .v, .s, .none, .any⟩ [(o.n 7 2 != 0, illegal)]

/-- VSPLAT: with KS the va field is zero (R329). -/
def VxOp.vsplatCause (o : VxOp) : Option Nat :=
  o.check ⟨.v, .s, .none, .none, .any⟩ [(o.n 7 1 != 0, illegal), (o.n 0 0 == 1 && o.va != 0, reserved)]

/-- A shift by an immediate: [4:0] n below the width (R329). -/
def VxOp.shiftChecks (o : VxOp) : List (Bool × Nat) :=
  [(o.n 7 5 != 0, illegal), (decide (o.n 4 0 ≥ tyWidth o.ty), illegal)]

/-- A register pair is aligned (R169, R327). -/
def VxOp.evenVd (o : VxOp) : Bool × Nat := (o.vd.toNat % 2 != 0, illegal)

def VxShape.vvv (t : TySet) : VxShape := ⟨.v, .v, .v, .none, t⟩
def VxShape.vv (t : TySet) : VxShape := ⟨.v, .v, .none, .none, t⟩
def VxShape.mvv (t : TySet) : VxShape := ⟨.m, .v, .v, .none, t⟩
def VxShape.sv (t : TySet) : VxShape := ⟨.s, .v, .none, .none, t⟩

/-- RR with a and b (or K) only (R273, R274). -/
def RR.binCause (o : RR) : Option Nat :=
  firstCause [(o.kb && o.b != 0, reserved), (o.c != 0, reserved), (o.x != 0, reserved)]
/-- RR, a only. -/
def RR.unCause (o : RR) : Option Nat :=
  firstCause [(o.kb, reserved), (o.b != 0, reserved), (o.c != 0, reserved), (o.x != 0, reserved)]
/-- RR, a only, x a rounding mode 0 to 4 (R207, R273). -/
def RR.cvtCause (o : RR) : Option Nat :=
  firstCause [(o.kb, reserved), (o.b != 0, reserved), (o.c != 0, reserved), (decide (o.x.toNat > 4), illegal)]
def RR.selpCause (o : RR) : Option Nat :=
  firstCause [(o.kb && o.b != 0, reserved), (o.c != 0, reserved)]
def RR.fmaCause (o : RR) : Option Nat :=
  firstCause [(o.kb && o.b != 0, reserved), (o.x != 0, reserved)]
def RR.ptosCause (o : RR) : Option Nat :=
  firstCause [(o.kb, reserved), (o.a != 0, reserved), (o.b != 0, reserved), (o.c != 0, reserved), (o.x != 0, reserved)]

/-- The special registers of 64 bits (R167). -/
def sp64 (n : Nat) : Bool :=
  n == 0 || n == 1 || n == 5 || n == 10 || n == 12 || n == 16 || n == 20

def RI.shiftCause (o : RI) : Option Nat := firstCause [(decide (o.imm.toNat ≥ 32), reserved)]
/-- RDSP and WRSP: number 0 to 47, HI for a 64-bit register only (R167, R274). Numbers 27 to 31, whose width R167 does not give, count as 32-bit registers (log 13, DESIGN CHOICE). -/
def RI.spCause (o : RI) (wr : Bool) : Option Nat :=
  firstCause [(if wr then o.d != 0 else o.a != 0, reserved), (decide (o.imm.toNat ≥ 128), reserved),
    (decide (o.imm.toNat % 64 ≥ 48), illegal), (decide (o.imm.toNat / 64 % 2 = 1) && !sp64 (o.imm.toNat % 64), illegal)]
def RI.cycCause (o : RI) : Option Nat := firstCause [(o.a != 0, reserved), (decide (o.imm.toNat ≥ 2), reserved)]
def RI.wpCause (o : RI) : Option Nat := firstCause [(o.a != 0, reserved), (decide (o.imm.toNat ≥ 4), reserved)]
def PC.cause (o : PC) : Option Nat := firstCause [(o.kb && o.b != 0, reserved)]

/-- A test or target beyond the count is zero (R276). -/
def TreeTest.unused (t : TreeTest) : Bool := t.neg || t.pred != 0 || t.target != 0
def TreeOp.cause (o : TreeOp) : Option Nat :=
  firstCause [(decide (o.last.toNat < 1) && o.t1.unused, reserved), (decide (o.last.toNat < 2) && o.t2.unused, reserved),
    (decide (o.last.toNat < 3) && o.t3.unused, reserved)]
/-- MMAN and END are nonzero (R276). -/
def LoopOp.cause (o : LoopOp) : Option Nat := firstCause [(o.mman == 0, illegal), (o.fin == 0, illegal)]
def BarwOp.cause (o : BarwOp) : Option Nat :=
  firstCause [(o.lvl == 0, illegal), (o.maxw == 0, illegal), (decide (o.bound.toNat > o.maxw.toNat), illegal)]
def lvlCause (l : BitVec 2) : Option Nat := firstCause [(l == 0, illegal)]
/-- One slot for both operands needs two different ports (R351). -/
def slotCause (a b : BitVec 3) (form : Nat) : Option Nat := firstCause [(a == b && (form == 0 || form == 3), illegal)]
def portCause (p : BitVec 3) : Option Nat := firstCause [(decide (p.toNat > 4), illegal)]
/-- Stage microword: [3] and [2:0] are reserved, GATE belongs to CPYG alone, g0 to CPYG alone (R180, R378). -/
def CpyOp.cause (o : CpyOp) (gate : Bool) : Option Nat :=
  firstCause [(o.st.toNat % 16 != 0, reserved), (o.st.getLsbD 7 != gate, illegal), (!gate && o.g0 != 0, reserved)]
/-- ETYPE 1 with PRI or FAULT (R382). -/
def PmodeOp.cause (o : PmodeOp) : Option Nat :=
  firstCause [(o.ety && (o.rule == 0 || o.rule == 3), illegal)]

/-- The load cause that rejects an instruction by its own fields, none where the loader accepts it (R273 to R283, R329). -/
def Instr.loadCause (i : Instr) : Option Nat :=
  match i with
  | .powerOnReset => none
  | .builtInTestComplete => none
  | .firmwareInstall => none
  | .mapInstall => none
  | .fullWaferSelfTest => none
  | .fullWaferSelfTestComplete => none
  | .allowListInstall => none
  | .portAddressConfig => none
  | .clockGroupConfig => none
  | .debugControlWrite => none
  | .clockLower => none
  | .clockRaise => none
  | .thermalEmergency => none
  | .thermalRecovery => none
  | .arpRequest => none
  | .neighborDiscovery => none
  | .icmpEcho => none
  | .openS => none
  | .data => none
  | .ack => none
  | .probe => none
  | .close => none
  | .ackTimerExpiry => none
  | .retransmitTimerExpiry => none
  | .sessionIdleTimeout => none
  | .openContext => none
  | .closeContext => none
  | .loadImage => none
  | .imageLoadComplete => none
  | .writeDram => none
  | .readDram => none
  | .hostDramAccessComplete => none
  | .launch => none
  | .graphDefine => none
  | .graphRun => none
  | .graphPatch => none
  | .cancel => none
  | .setDeterminism => none
  | .preempt => none
  | .query => none
  | .attest => none
  | .subscribe => none
  | .dispatch => none
  | .scriptLoadAndPin => none
  | .configLoadComplete => none
  | .tstartFix => none
  | .planeSwap => none
  | .launchStart => none
  | .iterationStart => none
  | .drainPoint => none
  | .launchRetire => none
  | .switchEntryAdvance => none
  | .flitArrival => none
  | .landingWindowExpiry => none
  | .alignmentPoint => none
  | .alignmentSample => none
  | .alignmentCompare => none
  | .distaffUpstreamPayload => none
  | .distaffDownstreamPayload => none
  | .distaffBroadcastPayload => none
  | .barrierRelease => none
  | .stepSkew => none
  | .rovingMessage => none
  | .hardwareError => none
  | .launchStop => none
  | .checkpoint => none
  | .checkpointConfirm => none
  | .selfTestComplete => none
  | .resumeStart => none
  | .preemptSaveComplete => none
  | .contextKill => none
  | .trapTake => none
  | .fetchStart => none
  | .fetchDataArrival => none
  | .stagingInject => none
  | .stagingWriteLanding => none
  | .commitDecision => none
  | .commitComplete => none
  | .bridgeMessageArrival => none
  | .bridgeSend => none
  | .bridgeReceiveInject => none
  | .ptpMessage => none
  | .waitcRelease => none
  | .alignResume => none
  | .barwTimeout => none
  | .serviceTransferEnd => none
  | .chainedCommandIssue => none
  | .debugStop => none
  | .debugResume => none
  | .nop _ => none
  | .lit o _ => firstCause [(o.guard != 0, reserved)]
  | .add o => o.binCause
  | .sub o => o.binCause
  | .andS o => o.binCause
  | .orS o => o.binCause
  | .xor o => o.binCause
  | .andn o => o.binCause
  | .shl o => o.binCause
  | .shr o => o.binCause
  | .sra o => o.binCause
  | .rol o => o.binCause
  | .minS o => o.binCause
  | .maxS o => o.binCause
  | .minu o => o.binCause
  | .maxu o => o.binCause
  | .slt o => o.binCause
  | .sltu o => o.binCause
  | .seq o => o.binCause
  | .adds o => o.binCause
  | .subs o => o.binCause
  | .absS o => o.unCause
  | .clz o => o.unCause
  | .popc o => o.unCause
  | .brev o => o.unCause
  | .mul o => o.binCause
  | .mulh o => o.binCause
  | .mulhu o => o.binCause
  | .div o => o.binCause
  | .divu o => o.binCause
  | .rem o => o.binCause
  | .remu o => o.binCause
  | .selp o => o.selpCause
  | .addi _ => none
  | .andi _ => none
  | .ori _ => none
  | .xori _ => none
  | .shli o => o.shiftCause
  | .shri o => o.shiftCause
  | .srai o => o.shiftCause
  | .slti _ => none
  | .sltiu _ => none
  | .movi _ => none
  | .seth o => firstCause [(decide (o.imm.toNat ≥ 65536), reserved)]
  | .movk o => firstCause [(o.imm != 0, reserved)]
  | .fadd o => o.binCause
  | .fsub o => o.binCause
  | .fmul o => o.binCause
  | .ffma o => o.fmaCause
  | .fmin o => o.binCause
  | .fmax o => o.binCause
  | .fabs o => o.unCause
  | .fneg o => o.unCause
  | .fcvti o => o.cvtCause
  | .icvtf o => o.cvtCause
  | .frcp o => o.unCause
  | .frsq o => o.unCause
  | .frcps o => o.binCause
  | .frsqs o => o.binCause
  | .peq o => o.cause
  | .pne o => o.cause
  | .plt o => o.cause
  | .pltu o => o.cause
  | .pge o => o.cause
  | .pgeu o => o.cause
  | .pflt o => o.cause
  | .pfle o => o.cause
  | .pfun o => o.cause
  | .pand _ => none
  | .por _ => none
  | .pxor _ => none
  | .pnot o => firstCause [(o.pb != 0, reserved)]
  | .pset o => firstCause [(o.pa != 0, reserved), (decide (o.pb.toNat ≥ 2), reserved)]
  | .ptos o => o.ptosCause
  | .rdsp o => o.spCause false
  | .wrsp o => o.spCause true
  | .rdcyc o => o.cycCause
  | .rdwp o => o.wpCause
  | .ldw _ => none
  | .ldh _ => none
  | .ldhu _ => none
  | .ldb _ => none
  | .ldbu _ => none
  | .stw _ => none
  | .sth _ => none
  | .stb _ => none
  | .tree o => o.cause
  | .jmp _ => none
  | .jmpIndirect _ => none
  | .call _ => none
  | .callIndirect _ => none
  | .ret => none
  | .loopCounted o _ => o.cause
  | .loopRegisterCount o _ => o.cause
  | .loopUntil o _ => o.cause
  | .waitc _ => none
  | .bara l => lvlCause l
  | .barw o => o.cause
  | .step l => lvlCause l
  | .trap _ => none
  | .xret => none
  | .endS => none
  | .align _ => none
  | .rbmark _ _ => none
  | .haltdbg => none
  | .trig => none
  | .preemptpt => none
  | .chkon => none
  | .chkoff => none
  | .vadd o => o.check (.vvv .int) [o.plainMd]
  | .vsub o => o.check (.vvv .int) [o.plainMd]
  | .vadds o => o.check (.vvv .int) [o.plainMd]
  | .vaddsu o => o.check (.vvv .int) [o.plainMd]
  | .vsubs o => o.check (.vvv .int) [o.plainMd]
  | .vsubsu o => o.check (.vvv .int) [o.plainMd]
  | .vmul o => o.check (.vvv .int) [o.plainMd]
  | .vmulh o => o.check (.vvv .int) [o.plainMd]
  | .vmulhu o => o.check (.vvv .int) [o.plainMd]
  | .vmulw o => o.check (.vvv .narrowInt) [o.plainMd, o.evenVd]
  | .vmulwu o => o.check (.vvv .narrowInt) [o.plainMd, o.evenVd]
  | .vmacw o => o.check (.vvv .narrowInt) [o.plainMd, o.evenVd]
  | .vmacwu o => o.check (.vvv .narrowInt) [o.plainMd, o.evenVd]
  | .vand o => o.check (.vvv .int) [o.plainMd]
  | .vor o => o.check (.vvv .int) [o.plainMd]
  | .vxor o => o.check (.vvv .int) [o.plainMd]
  | .vandn o => o.check (.vvv .int) [o.plainMd]
  | .vshl o => o.check (.vvv .int) [o.plainMd]
  | .vshr o => o.check (.vvv .int) [o.plainMd]
  | .vsra o => o.check (.vvv .int) [o.plainMd]
  | .vmin o => o.check (.vvv .int) [o.plainMd]
  | .vmax o => o.check (.vvv .int) [o.plainMd]
  | .vminu o => o.check (.vvv .int) [o.plainMd]
  | .vmaxu o => o.check (.vvv .int) [o.plainMd]
  | .vabs o => o.check (.vv .int) [o.plainMd]
  | .vavg o => o.check (.vvv .int) [o.plainMd]
  | .vclz o => o.check (.vv .int) [o.plainMd]
  | .vpopc o => o.check (.vv .int) [o.plainMd]
  | .vshli o => o.check (.vv .int) o.shiftChecks
  | .vshri o => o.check (.vv .int) o.shiftChecks
  | .vsrai o => o.check (.vv .int) o.shiftChecks
  | .vfadd o => o.check (.vvv .float) [o.plainMd]
  | .vfsub o => o.check (.vvv .float) [o.plainMd]
  | .vfmul o => o.check (.vvv .float) [o.plainMd]
  | .vffma o => o.check ⟨.v, .v, .v, .v, .float⟩ [o.plainMd]
  | .vfmin o => o.check (.vvv .float) [o.plainMd]
  | .vfmax o => o.check (.vvv .float) [o.plainMd]
  | .vfabs o => o.check (.vv .float) [o.plainMd]
  | .vfneg o => o.check (.vv .float) [o.plainMd]
  | .vfrcp o => o.check (.vv .float) [o.plainMd]
  | .vfrsq o => o.check (.vv .float) [o.plainMd]
  | .vfrcps o => o.check (.vvv .float) [o.plainMd]
  | .vfrsqs o => o.check (.vvv .float) [o.plainMd]
  | .vfexp2 o => o.check (.vv .float) [o.plainMd]
  | .vfscale o => o.check (.vvv .float) [o.plainMd]
  | .vceq o => o.check (.mvv .int) [o.plainMd]
  | .vclt o => o.check (.mvv .int) [o.plainMd]
  | .vcltu o => o.check (.mvv .int) [o.plainMd]
  | .vfceq o => o.check (.mvv .float) [o.plainMd]
  | .vfclt o => o.check (.mvv .float) [o.plainMd]
  | .vfcle o => o.check (.mvv .float) [o.plainMd]
  | .vfcun o => o.check (.mvv .float) [o.plainMd]
  | .mand o => o.check ⟨.m, .m, .m, .none, .none⟩ [o.plainMd, o.oneBeat, o.noMask]
  | .mor o => o.check ⟨.m, .m, .m, .none, .none⟩ [o.plainMd, o.oneBeat, o.noMask]
  | .mxor o => o.check ⟨.m, .m, .m, .none, .none⟩ [o.plainMd, o.oneBeat, o.noMask]
  | .mnot o => o.check ⟨.m, .m, .none, .none, .none⟩ [o.plainMd, o.oneBeat, o.noMask]
  | .mpop o => o.check ⟨.s, .m, .none, .none, .any⟩ [o.plainMd]
  | .mbit o => o.check ⟨.m, .s, .s, .none, .any⟩ [o.plainMd, o.noMask]
  | .mtov o => o.check ⟨.v, .m, .none, .none, .int⟩ [o.plainMd]
  | .mfirst o => o.check ⟨.s, .m, .none, .none, .any⟩ [o.plainMd]
  | .vsel o => o.check ⟨.v, .v, .v, .m, .any⟩ [o.plainMd]
  | .vmov o => o.check (.vv .any) [o.plainMd]
  | .vsplat o => o.vsplatCause
  | .vext o => o.vextCause
  | .vins o => o.check ⟨.v, .s, .s, .none, .any⟩ [o.plainMd, o.noMask]
  | .viota o => o.check ⟨.v, .s, .none, .none, .int⟩ [o.plainMd]
  | .vzero o => o.check ⟨.v, .none, .none, .none, .any⟩ [o.plainMd]
  | .vcvt o => o.check (.vv .any) o.cvtChecks
  | .vwiden o => o.check (.vv .widen) o.widenChecks
  | .vnarrow o => o.check (.vv .wideInt) (o.narrowChecks false)
  | .vnarrowu o => o.check (.vv .wideInt) (o.narrowChecks true)
  | .vqmax o => o.check ⟨.q, .v, .none, .none, .float⟩ [(o.n 7 5 != 0 || o.n 3 0 != 0, illegal)]
  | .vqscale o => o.check ⟨.q, .q, .none, .none, .none⟩ [(o.n 3 0 != 0, illegal), o.oneBeat, o.noMask]
  | .vqcvt o => o.check ⟨.v, .v, .q, .none, .float⟩ [(o.n 3 3 != 0, illegal), o.badMode]
  | .vdeq o => o.check ⟨.v, .v, .q, .none, .float⟩ [(o.n 3 3 != 0, illegal), o.badMode]
  | .vrsum o => o.check (.sv .int) [o.plainMd]
  | .vrsumu o => o.check (.sv .int) [o.plainMd]
  | .vrmax o => o.check (.sv .int) [o.plainMd]
  | .vrmin o => o.check (.sv .int) [o.plainMd]
  | .vfrsum o => o.check (.sv .float) [o.plainMd]
  | .vfrmax o => o.check (.sv .float) [o.plainMd]
  | .vfrmin o => o.check (.sv .float) [o.plainMd]
  | .vshuf o => o.check (.vvv .shuf) [(o.n 7 6 != 0, illegal)]
  | .vrot o => o.check ⟨.v, .v, .s, .none, .any⟩ [o.plainMd]
  | .vzip o => o.check (.vvv .any) [(o.n 7 1 != 0, illegal)]
  | .vunzip o => o.check (.vvv .any) [(o.n 7 1 != 0, illegal)]
  | .vrev o => o.check (.vv .any) [o.plainMd]
  | .vshrink o => o.check ⟨.none, .none, .none, .none, .none⟩ [(o.n 7 5 != 0, illegal), (decide (o.n 4 0 > 16), illegal), o.oneBeat, o.noMask]
  | .msq o => slotCause o.sa o.sb 0
  | .msqTa _ => none
  | .msqTb _ => none
  | .msqTab o => slotCause o.sa o.sb 0
  | .msqIndexed o => slotCause o.sa o.sb o.form.toNat
  | .mzero _ => none
  | .mdrain _ => none
  | .mdrainm _ => none
  | .mclaim _ => none
  | .mrel _ => none
  | .mscl _ => none
  | .mstat _ => none
  | .vld _ => none
  | .vst _ => none
  | .vldx _ => none
  | .vstx _ => none
  | .vldb _ => none
  | .aadd _ => none
  | .amax _ => none
  | .amin _ => none
  | .axch _ => none
  | .acas _ => none
  | .send o => portCause o.port
  | .sends o => portCause o.port
  | .sendm o => portCause o.port
  | .recv _ => none
  | .recvs _ => none
  | .recvm _ => none
  | .cpy o => o.cause false
  | .cpym o => o.cause false
  | .cpyg o => o.cause true
  | .cpyw o => o.cause false
  | .fence _ => none
  | .pmode o => o.cause
  | .svsave _ => none
  | .svload _ => none
  | .svmsg _ => none
  | .discardedPacket => none
  | .counterDrift => none
  | .poolSramUpset => none
  | .preemptSaveFailure => none
  | .clockGroupNChange => none

/-- An instruction that the loader's field checks accept. -/
def WellFormed (i : Instr) : Prop := i.loadCause = none

/-- The check of `WellFormed`, as a Bool. -/
def wellFormed (i : Instr) : Bool := i.loadCause == none

theorem wellFormed_iff (i : Instr) : wellFormed i = true ↔ WellFormed i := by
  simp [wellFormed, WellFormed]

end Sys2Proof
end

