-- ==== Sys2Proof/Machine/Num.lean ====
section
/-! DEFINITION. Exact numbers and the one rounding of the tile: the element formats (R185 to R189), the rounding modes and conversions (R207 to R209), and FP arithmetic on any of the float formats (R295 to R299).

A finite value is kept exactly as a sign, a magnitude and a power of two; every result is rounded once. -/

namespace Sys2Proof.Machine

/-- `Int` exponents applied to a magnitude: shift left for a positive power, right for a negative one. -/
def shiftInt (m : Nat) (e : Int) : Nat :=
  match e with
  | .ofNat n => m * 2 ^ n
  | .negSucc n => m / 2 ^ (n + 1)

/-- The number of bits of a magnitude. -/
def bitLen (m : Nat) : Nat := if m = 0 then 0 else Nat.log2 m + 1

/-- Integer square root, bit by bit from bit `k - 1`. -/
def isqrtFrom : Nat → Nat → Nat → Nat
  | 0, _, r => r
  | k + 1, n, r => isqrtFrom k n (if (r + 2 ^ k) * (r + 2 ^ k) ≤ n then r + 2 ^ k else r)

/-- Integer square root. -/
def isqrt (n : Nat) : Nat := isqrtFrom (bitLen n / 2 + 1) n 0

/-- FPST's flags: NX, UF, OF, DZ, INV in bits 0 to 4 (R167). -/
abbrev Flags := BitVec 5
def fNX : Flags := 1
def fUF : Flags := 2
def fOF : Flags := 4
def fDZ : Flags := 8
def fINV : Flags := 16

/-- A finite value (-1)^neg * m * 2^e. -/
structure ExactNum where
  neg : Bool
  m : Nat
  e : Int
  deriving DecidableEq, Repr

/-- What a pattern denotes: a NaN, signalling or quiet; an infinity; a finite value (R189). -/
inductive FVal where
  | nan (sig : Bool)
  | inf (neg : Bool)
  | num (n : ExactNum)
  deriving DecidableEq, Repr

def FVal.isNaN : FVal → Bool
  | .nan _ => true
  | _ => false
def FVal.isSNaN : FVal → Bool
  | .nan s => s
  | _ => false
def FVal.isInf : FVal → Bool
  | .inf _ => true
  | _ => false
def FVal.isZero : FVal → Bool
  | .num n => n.m == 0
  | _ => false
/-- The sign of a value that has one. -/
def FVal.sign : FVal → Bool
  | .nan _ => false
  | .inf s => s
  | .num n => n.neg
def FVal.negate : FVal → FVal
  | .nan s => .nan s
  | .inf s => .inf !s
  | .num n => .num { n with neg := !n.neg }

/-- A signed integer as an exact number. -/
def numOfInt (i : Int) : ExactNum := ⟨decide (i < 0), i.natAbs, 0⟩
/-- The integer m * 2^k of a number, when its exponent is lowered to `e0 ≤ e`. -/
def ExactNum.at (n : ExactNum) (e0 : Int) : Int :=
  let k : Nat := n.m * 2 ^ (n.e - e0).toNat
  if n.neg then -(k : Int) else k
/-- The exact sum; an exact zero is negative only for two negative operands (R296). -/
def ExactNum.add (a b : ExactNum) : ExactNum :=
  let e0 := min a.e b.e
  let s := a.at e0 + b.at e0
  if s = 0 then ⟨a.neg && b.neg, 0, e0⟩ else ⟨decide (s < 0), s.natAbs, e0⟩
def ExactNum.mul (a b : ExactNum) : ExactNum := ⟨a.neg != b.neg, a.m * b.m, a.e + b.e⟩
/-- -1, 0 or 1 as a is below, equal to or above b; the two zeros are equal. -/
def ExactNum.cmp (a b : ExactNum) : Int :=
  let e0 := min a.e b.e
  let d := a.at e0 - b.at e0
  if d < 0 then -1 else if d = 0 then 0 else 1

/-- A float format: exponent and fraction bits, bias, and what its top codes are (R188). -/
structure Fmt where
  eb : Nat
  fb : Nat
  bias : Nat
  /-- IEEE infinities and NaNs -/
  ieee : Bool
  /-- E4M3: exponent 15, fraction 7 is NaN -/
  topNaN : Bool
  deriving DecidableEq, Repr

def fmtE2M1 : Fmt := ⟨2, 1, 1, false, false⟩
def fmtE2M3 : Fmt := ⟨2, 3, 1, false, false⟩
def fmtE3M2 : Fmt := ⟨3, 2, 3, false, false⟩
def fmtE4M3 : Fmt := ⟨4, 3, 7, false, true⟩
def fmtE5M2 : Fmt := ⟨5, 2, 15, true, false⟩
def fmtFP16 : Fmt := ⟨5, 10, 15, true, false⟩
def fmtBF16 : Fmt := ⟨8, 7, 127, true, false⟩
def fmtFP32 : Fmt := ⟨8, 23, 127, true, false⟩

/-- The float format of a format code, if it is one; MX and SC codes give their element format (R185, R190, R191). -/
def fmtOf (code : Nat) : Option Fmt :=
  match code with
  | 6 | 11 => some fmtE2M1
  | 7 | 12 => some fmtE2M3
  | 8 | 13 => some fmtE3M2
  | 9 | 14 | 17 => some fmtE4M3
  | 10 | 15 => some fmtE5M2
  | 19 => some fmtBF16
  | 20 => some fmtFP16
  | 22 => some fmtFP32
  | _ => none

/-- Width and signedness of an integer format code (R185, R187). -/
def intFmtOf (code : Nat) : Option (Nat × Bool) :=
  match code with
  | 1 => some (4, true) | 2 => some (4, false) | 3 => some (8, true) | 4 => some (8, false)
  | 5 => some (16, true) | 16 | 18 => some (8, true) | 21 => some (32, true)
  | _ => none

/-- Element bits of a format. -/
def Fmt.bits (f : Fmt) : Nat := 1 + f.eb + f.fb
def Fmt.signBit (f : Fmt) : Nat := 2 ^ (f.eb + f.fb)
/-- The largest finite magnitude's pattern (R188). -/
def Fmt.maxPat (f : Fmt) : Nat :=
  let all := 2 ^ (f.eb + f.fb) - 1
  if f.ieee then all - 2 ^ f.fb else if f.topNaN then all - 1 else all
def Fmt.infPat (f : Fmt) : Nat := (2 ^ f.eb - 1) * 2 ^ f.fb
/-- The default NaN (R188); a format without one gives +0 (R208). -/
def Fmt.nanPat (f : Fmt) : Nat :=
  if f.ieee then f.infPat + 2 ^ (f.fb - 1) else if f.topNaN then 2 ^ (f.eb + f.fb) - 1 else 0
/-- Formats that have a NaN (R188). -/
def Fmt.hasNaN (f : Fmt) : Bool := f.ieee || f.topNaN

/-- The value of a pattern (R189). -/
def Fmt.val (f : Fmt) (p : Nat) : FVal :=
  let s := p / f.signBit % 2 == 1
  let e := p / 2 ^ f.fb % 2 ^ f.eb
  let m := p % 2 ^ f.fb
  if f.ieee && e == 2 ^ f.eb - 1 then
    if m = 0 then .inf s else .nan (decide (m < 2 ^ (f.fb - 1)))
  else if f.topNaN && e == 2 ^ f.eb - 1 && m == 2 ^ f.fb - 1 then .nan false
  else if e = 0 then .num ⟨s, m, 1 - (f.bias : Int) - f.fb⟩
  else .num ⟨s, 2 ^ f.fb + m, (e : Int) - f.bias - f.fb⟩

/-- The rounding modes (R207). -/
inductive Mode where
  | rne | rtz | rdn | rup | rna
  /-- Stochastic, with the hash's low 16 bits (R209). -/
  | sr (h : Nat)
  deriving DecidableEq, Repr

/-- Mode of a code other than SR's. -/
def modeOf (code : Nat) : Mode :=
  match code with
  | 0 => .rne | 1 => .rtz | 2 => .rdn | 3 => .rup | _ => .rna

/-- Whether the magnitude k + rem / 2^sh rounds away from zero (R207, R209). -/
def roundsUp (mode : Mode) (neg : Bool) (k rem sh : Nat) : Bool :=
  if rem = 0 then false
  else match mode with
    | .rne => decide (2 * rem > 2 ^ sh) || (2 * rem == 2 ^ sh && k % 2 == 1)
    | .rtz => false
    | .rdn => neg
    | .rup => !neg
    | .rna => decide (2 * rem ≥ 2 ^ sh)
    | .sr h => decide (h < 65536 * rem / 2 ^ sh)

/-- A magnitude m * 2^e in units of 2^q: quotient, remainder and the remainder's width. -/
def splitAt (m : Nat) (e q : Int) : Nat × Nat × Nat :=
  if e ≥ q then (m * 2 ^ (e - q).toNat, 0, 0)
  else
    let sh := (q - e).toNat
    (m / 2 ^ sh, m % 2 ^ sh, sh)

/-- What a result beyond the largest finite value becomes (R208). -/
def Fmt.overflow (f : Fmt) (mode : Mode) (neg : Bool) : Nat :=
  let s := if neg then f.signBit else 0
  if !f.ieee then s + f.maxPat
  else match mode with
    | .rne | .rna => s + f.infPat
    | .rtz | .sr _ => s + f.maxPat
    | .rdn => if neg then s + f.infPat else f.maxPat
    | .rup => if neg then s + f.maxPat else f.infPat

/-- One rounding of an exact finite value to a float format (R207, R208): the pattern and its flags. -/
def Fmt.round (f : Fmt) (mode : Mode) (x : ExactNum) : Nat × Flags :=
  let s := if x.neg then f.signBit else 0
  if x.m = 0 then (s, 0)
  else
    let emin : Int := 1 - (f.bias : Int)
    let top : Int := x.e + bitLen x.m - 1
    let q := max top emin - f.fb
    let r := splitAt x.m x.e q
    let up := roundsUp mode x.neg r.1 r.2.1 r.2.2
    let k := r.1 + (if up then 1 else 0)
    -- a carry out of the fraction moves one binade up
    let k' := if k = 2 ^ (f.fb + 1) then k / 2 else k
    let q' := if k = 2 ^ (f.fb + 1) then q + 1 else q
    let pat : Nat := if k' < 2 ^ f.fb then k' else (q' + f.fb + f.bias).toNat * 2 ^ f.fb + (k' - 2 ^ f.fb)
    let nx := r.2.1 != 0
    if pat > f.maxPat then (f.overflow mode x.neg, fOF ||| fNX)
    else (s + pat, (if nx then fNX else 0) ||| (if nx && k' != 0 && decide (k' < 2 ^ f.fb) then fUF else 0))

/-- A conversion of any value to a float format (R208). -/
def Fmt.convert (f : Fmt) (mode : Mode) (v : FVal) : Nat × Flags :=
  match v with
  | .nan sig => if f.hasNaN then (f.nanPat, if sig then fINV else 0) else (0, fINV)
  | .inf s =>
    let sg := if s then f.signBit else 0
    if f.ieee then (sg + f.infPat, 0) else (sg + f.maxPat, fOF)
  | .num x => f.round mode x

/-- The pattern of an integer in `w` bits. -/
def wrapInt (w : Nat) (i : Int) : Nat := (i % (2 ^ w : Nat)).toNat
/-- Signed reading of a `w`-bit pattern. -/
def sInt (w : Nat) (p : Nat) : Int := if p < 2 ^ (w - 1) then p else (p : Int) - (2 ^ w : Nat)
def intMin (w : Nat) (signed : Bool) : Int := if signed then -(2 ^ (w - 1) : Nat) else 0
def intMax (w : Nat) (signed : Bool) : Int := if signed then (2 ^ (w - 1) : Nat) - 1 else (2 ^ w : Nat) - 1
def clampInt (lo hi x : Int) : Int := if x < lo then lo else if x > hi then hi else x

/-- One rounding of an exact finite value to an integer. -/
def roundInt (mode : Mode) (x : ExactNum) : Int × Bool :=
  let r := splitAt x.m x.e 0
  let k := r.1 + (if roundsUp mode x.neg r.1 r.2.1 r.2.2 then 1 else 0)
  (if x.neg then -(k : Int) else k, r.2.1 != 0)

/-- A conversion of any value to an integer in [lo, hi] (R208). -/
def convertInt (lo hi : Int) (mode : Mode) (v : FVal) : Int × Flags :=
  match v with
  | .nan _ => (0, fINV)
  | .inf s => (if s then lo else hi, fINV)
  | .num x =>
    let r := roundInt mode x
    if r.1 < lo then (lo, fINV) else if r.1 > hi then (hi, fINV)
    else (r.1, if r.2 then fNX else 0)

/-- The pattern that an element of a format is stored as: bits [7:6] of a 6-bit element are zero (R185, R364). -/
def fmtStore (code p : Nat) : Nat := if code = 7 ∨ code = 8 ∨ code = 12 ∨ code = 13 then p % 64 else p

/-- The value of a pattern of any element format; integers are exact (R187, R189). RAW is not a number. -/
def fmtVal (code p : Nat) : FVal :=
  match fmtOf code with
  | some f => f.val (p % 2 ^ f.bits)
  | none => match intFmtOf code with
    | some (w, sg) => .num (numOfInt (if sg then sInt w (p % 2 ^ w) else (p % 2 ^ w : Nat)))
    | none => .num ⟨false, p, 0⟩

/-- A conversion to any element format: the element's pattern, upper storage bits zero (R185, R208). -/
def fmtConvert (code : Nat) (mode : Mode) (v : FVal) : Nat × Flags :=
  match fmtOf code with
  | some f => f.convert mode v
  | none => match intFmtOf code with
    | some (w, sg) =>
      let r := convertInt (intMin w sg) (intMax w sg) mode v
      (wrapInt w r.1, r.2)
    | none => (0, 0)

/-! Arithmetic in one float format, rounded RNE unless the caller says otherwise (R295). -/

def sigFlag (l : List FVal) : Flags := if l.any FVal.isSNaN then fINV else 0

/-- a + b (R296). -/
def Fmt.addV (f : Fmt) (a b : FVal) : Nat × Flags :=
  match a, b with
  | .nan _, _ => (f.nanPat, sigFlag [a, b])
  | _, .nan _ => (f.nanPat, sigFlag [a, b])
  | .inf s, .inf t => if s == t then (f.convert .rne a) else (f.nanPat, fINV)
  | .inf _, .num _ => f.convert .rne a
  | .num _, .inf _ => f.convert .rne b
  | .num x, .num y => f.round .rne (x.add y)

/-- a * b (R296). -/
def Fmt.mulV (f : Fmt) (a b : FVal) : Nat × Flags :=
  match a, b with
  | .nan _, _ => (f.nanPat, sigFlag [a, b])
  | _, .nan _ => (f.nanPat, sigFlag [a, b])
  | .inf s, .inf t => f.convert .rne (.inf (s != t))
  | .inf s, .num y => if y.m = 0 then (f.nanPat, fINV) else f.convert .rne (.inf (s != y.neg))
  | .num x, .inf t => if x.m = 0 then (f.nanPat, fINV) else f.convert .rne (.inf (x.neg != t))
  | .num x, .num y => f.round .rne (x.mul y)

/-- a * b + c, one rounding; INV for 0 * inf even beside a quiet NaN (R296). -/
def Fmt.fmaV (f : Fmt) (a b c : FVal) : Nat × Flags :=
  let bad := (a.isZero && b.isInf) || (a.isInf && b.isZero)
  if a.isNaN || b.isNaN || c.isNaN then
    (f.nanPat, sigFlag [a, b, c] ||| (if bad then fINV else 0))
  else if bad then (f.nanPat, fINV)
  else match a, b, c with
    | .num x, .num y, .num z => f.round .rne ((x.mul y).add z)
    | .num _, .num _, _ => f.convert .rne c
    | _, _, .inf t =>
      if (a.sign != b.sign) == t then f.convert .rne c else (f.nanPat, fINV)
    | _, _, _ => f.convert .rne (.inf (a.sign != b.sign))

/-- Numeric order; a NaN is below nothing. -/
def FVal.lt (a b : FVal) : Bool :=
  match a, b with
  | .nan _, _ => false
  | _, .nan _ => false
  | .inf s, .inf t => s && !t
  | .inf s, .num _ => s
  | .num _, .inf t => !t
  | .num x, .num y => decide (x.cmp y < 0)
/-- Numeric equality; the two zeros are equal. -/
def FVal.eq (a b : FVal) : Bool :=
  match a, b with
  | .nan _, _ => false
  | _, .nan _ => false
  | .inf s, .inf t => s == t
  | .inf _, .num _ => false
  | .num _, .inf _ => false
  | .num x, .num y => decide (x.cmp y = 0)

/-- FMIN and FMAX on patterns (R298). -/
def Fmt.minMax (f : Fmt) (wantMax : Bool) (pa pb : Nat) : Nat × Flags :=
  let a := f.val pa
  let b := f.val pb
  if a.isSNaN || b.isSNaN then (f.nanPat, fINV)
  else if a.isNaN && b.isNaN then (f.nanPat, 0)
  else if a.isNaN then (pb, 0)
  else if b.isNaN then (pa, 0)
  else
    let less := a.lt b || (a.eq b && a.sign && !b.sign)
    (if less == wantMax then pb else pa, 0)

def one : ExactNum := ⟨false, 1, 0⟩

/-- FRCP: q = rne(2^26 / (8193 + 2f)) (R297). The operand is given as the FP32 value of the element. -/
def rcpVal (a : FVal) : FVal × Flags :=
  match a with
  | .nan s => (.nan false, if s then fINV else 0)
  | .inf s => (.num ⟨s, 0, 0⟩, 0)
  | .num x =>
    let top := x.e + bitLen x.m - 1
    if x.m = 0 ∨ top < -126 then (.inf x.neg, fDZ)
    else
      let f := (splitAt x.m x.e (top - 12)).1 - 4096
      let d := 8193 + 2 * f
      let n := 2 ^ 26
      let q := n / d
      let q' := if 2 * (n % d) > d ∨ (2 * (n % d) = d ∧ q % 2 = 1) then q + 1 else q
      -- mag = q' * 2^(-13 - e), below 2^-126 it is zero
      if (-13 - top : Int) + bitLen q' - 1 < -126 then (.num ⟨x.neg, 0, 0⟩, fUF)
      else (.num ⟨x.neg, q', -13 - top⟩, 0)

/-- FRSQ (R297). -/
def rsqVal (a : FVal) : FVal × Flags :=
  match a with
  | .nan s => (.nan false, if s then fINV else 0)
  | .inf s => if s then (.nan false, fINV) else (.num ⟨false, 0, 0⟩, 0)
  | .num x =>
    let top := x.e + bitLen x.m - 1
    if x.m = 0 ∨ top < -126 then (.inf x.neg, fDZ)
    else if x.neg then (.nan false, fINV)
    else
      let f := (splitAt x.m x.e (top - 12)).1 - 4096
      let ev := (top % 2).toNat
      let e2 := (top - ev) / 2
      let n := 4 * 2 ^ 39
      let d := (8193 + 2 * f) * 2 ^ ev
      let q := (isqrt (n / d) + 1) / 2
      (.num ⟨false, q, -13 - e2⟩, 0)

/-- FRCPS and FRSQS (R299): 2 - ab, or (3 - ab) / 2, one rounding. -/
def Fmt.refine (f : Fmt) (rsq : Bool) (a b : FVal) : Nat × Flags :=
  if a.isNaN || b.isNaN then (f.nanPat, sigFlag [a, b])
  else match a, b with
    | .num x, .num y =>
      if x.m = 0 ∨ y.m = 0 then f.round .rne one
      else
        let p := x.mul y
        let r := (⟨false, if rsq then 3 else 2, 0⟩ : ExactNum).add { p with neg := !p.neg }
        f.round .rne (if rsq then { r with e := r.e - 1 } else r)
    | _, _ => f.round .rne one

/-- An exact quotient of magnitudes to 128 bits with a sticky bit: rounds as the exact quotient does. -/
def quotNum (neg : Bool) (a b : ExactNum) : ExactNum :=
  let sh := 128 + bitLen b.m
  let n := a.m * 2 ^ sh
  ⟨neg, 2 * (n / b.m) + (if n % b.m = 0 then 0 else 1), a.e - b.e - sh - 1⟩

/-- The mixing function of the rounding hash, modulo 2^32 (R209). -/
def mix (v : BitVec 32) : BitVec 32 :=
  let v := (v ^^^ (v >>> 16)) * 0x85EBCA6B
  let v := (v ^^^ (v >>> 13)) * 0xC2B2AE35
  v ^^^ (v >>> 16)

/-- The hash of SR for an element (R209). -/
def srHash (seed ctr : BitVec 32) (idx : Nat) : Nat :=
  (mix (seed ^^^ (BitVec.ofNat 32 idx * 0x9E3779B1) ^^^ (ctr * 0x85EBCA77))).toNat % 65536

/-- The mode of a code that may be SR's, with the hash of the element. -/
def modeSr (code : Nat) (seed ctr : BitVec 32) (idx : Nat) : Mode :=
  if code = 5 then .sr (srHash seed ctr idx) else modeOf code

/-- rne32 of an exact value. -/
def rne32 (x : ExactNum) : Nat × Flags := fmtFP32.round .rne x

end Sys2Proof.Machine
end

