-- ==== Sys2Proof/Machine/Sha.lean ====
section
/-! DEFINITION. SHA-384, the digest that the manual names (R24, R25, R123), as FIPS 180-4 defines it (log 9, PRESUMED). Words are numbers below 2^64. -/

namespace Sys2Proof.Machine

/-- The first 64 bits of the fractional parts of the cube roots of the first eighty primes. -/
def shaK : List Nat :=
  [0x428A2F98D728AE22, 0x7137449123EF65CD, 0xB5C0FBCFEC4D3B2F, 0xE9B5DBA58189DBBC, 0x3956C25BF348B538,
   0x59F111F1B605D019, 0x923F82A4AF194F9B, 0xAB1C5ED5DA6D8118, 0xD807AA98A3030242, 0x12835B0145706FBE,
   0x243185BE4EE4B28C, 0x550C7DC3D5FFB4E2, 0x72BE5D74F27B896F, 0x80DEB1FE3B1696B1, 0x9BDC06A725C71235,
   0xC19BF174CF692694, 0xE49B69C19EF14AD2, 0xEFBE4786384F25E3, 0x0FC19DC68B8CD5B5, 0x240CA1CC77AC9C65,
   0x2DE92C6F592B0275, 0x4A7484AA6EA6E483, 0x5CB0A9DCBD41FBD4, 0x76F988DA831153B5, 0x983E5152EE66DFAB,
   0xA831C66D2DB43210, 0xB00327C898FB213F, 0xBF597FC7BEEF0EE4, 0xC6E00BF33DA88FC2, 0xD5A79147930AA725,
   0x06CA6351E003826F, 0x142929670A0E6E70, 0x27B70A8546D22FFC, 0x2E1B21385C26C926, 0x4D2C6DFC5AC42AED,
   0x53380D139D95B3DF, 0x650A73548BAF63DE, 0x766A0ABB3C77B2A8, 0x81C2C92E47EDAEE6, 0x92722C851482353B] ++
  [0xA2BFE8A14CF10364, 0xA81A664BBC423001, 0xC24B8B70D0F89791, 0xC76C51A30654BE30, 0xD192E819D6EF5218,
   0xD69906245565A910, 0xF40E35855771202A, 0x106AA07032BBD1B8, 0x19A4C116B8D2D0C8, 0x1E376C085141AB53,
   0x2748774CDF8EEB99, 0x34B0BCB5E19B48A8, 0x391C0CB3C5C95A63, 0x4ED8AA4AE3418ACB, 0x5B9CCA4F7763E373,
   0x682E6FF3D6B2B8A3, 0x748F82EE5DEFB2FC, 0x78A5636F43172F60, 0x84C87814A1F0AB72, 0x8CC702081A6439EC,
   0x90BEFFFA23631E28, 0xA4506CEBDE82BDE9, 0xBEF9A3F7B2C67915, 0xC67178F2E372532B, 0xCA273ECEEA26619C,
   0xD186B8C721C0C207, 0xEADA7DD6CDE0EB1E, 0xF57D4F7FEE6ED178, 0x06F067AA72176FBA, 0x0A637DC5A2C898A6,
   0x113F9804BEF90DAE, 0x1B710B35131C471B, 0x28DB77F523047D84, 0x32CAAB7B40C72493, 0x3C9EBE0A15C9BEBC,
   0x431D67C49C100D4C, 0x4CC5D4BECB3E42B6, 0x597F299CFC657E2A, 0x5FCB6FAB3AD6FAEC, 0x6C44198C4A475817]

/-- 2^64. -/
def shaM : Nat := 18446744073709551616
/-- A word rotated right by n. -/
def rotr64 (n x : Nat) : Nat := x / 2 ^ n + x % 2 ^ n * 2 ^ (64 - n)

/-- The eight working words. -/
structure ShaV where
  a : Nat
  b : Nat
  c : Nat
  d : Nat
  e : Nat
  f : Nat
  g : Nat
  h : Nat
  deriving DecidableEq, Repr
/-- The initial hash value: the first 64 bits of the fractional parts of the square roots of the ninth to sixteenth primes. -/
def shaInit : ShaV :=
  { a := 0xCBBB9D5DC1059ED8, b := 0x629A292A367CD507, c := 0x9159015A3070DD17, d := 0x152FECD8F70E5939
    e := 0x67332667FFC00B31, f := 0x8EB44A8768581511, g := 0xDB0C2E0D64F98FA7, h := 0x47B5481DBEFA4FA4 }

/-- A number of big-endian bytes, and back. -/
def beNat (l : List Byte) : Nat := l.foldl (fun acc b => acc * 256 + b.toNat) 0
def beBytes (n v : Nat) : List Byte := (leBytes n v).reverse

/-- The message padded to whole 128-byte blocks. -/
def shaPad (m : List Byte) : List Byte := m ++ [0x80] ++ List.replicate ((239 - m.length % 128) % 128) 0 ++ beBytes 16 (8 * m.length)

/-- One round, on the sum of its constant and its schedule word. -/
def shaRound (v : ShaV) (kw : Nat) : ShaV :=
  let t1 := v.h + (rotr64 14 v.e ^^^ rotr64 18 v.e ^^^ rotr64 41 v.e) + (v.g ^^^ (v.e &&& (v.f ^^^ v.g))) + kw
  let t2 := (rotr64 28 v.a ^^^ rotr64 34 v.a ^^^ rotr64 39 v.a) + ((v.a &&& v.b) ^^^ (v.a &&& v.c) ^^^ (v.b &&& v.c))
  { a := (t1 + t2) % shaM, b := v.a, c := v.b, d := v.c, e := (v.d + t1) % shaM, f := v.e, g := v.f, h := v.g }
/-- The rounds of a block, with the next sixteen words of the schedule. -/
def shaRounds : List Nat → List Nat → ShaV → ShaV
  | k :: ks, w0 :: w1 :: w2 :: w3 :: w4 :: w5 :: w6 :: w7 :: w8 :: w9 :: w10 :: w11 :: w12 :: w13 :: w14 :: w15 :: _, v =>
    let s0 := rotr64 1 w1 ^^^ rotr64 8 w1 ^^^ (w1 / 2 ^ 7)
    let s1 := rotr64 19 w14 ^^^ rotr64 61 w14 ^^^ (w14 / 2 ^ 6)
    shaRounds ks [w1, w2, w3, w4, w5, w6, w7, w8, w9, w10, w11, w12, w13, w14, w15, (w0 + s0 + w9 + s1) % shaM] (shaRound v (k + w0))
  | _, _, v => v
/-- The big-endian words of a block. -/
def shaWords : Nat → List Byte → List Nat
  | n + 1, b0 :: b1 :: b2 :: b3 :: b4 :: b5 :: b6 :: b7 :: r => beNat [b0, b1, b2, b3, b4, b5, b6, b7] :: shaWords n r
  | _, _ => []
/-- One block. -/
def shaBlock (h : ShaV) (blk : List Byte) : ShaV :=
  let v := shaRounds shaK (shaWords 16 blk) h
  { a := (h.a + v.a) % shaM, b := (h.b + v.b) % shaM, c := (h.c + v.c) % shaM, d := (h.d + v.d) % shaM
    e := (h.e + v.e) % shaM, f := (h.f + v.f) % shaM, g := (h.g + v.g) % shaM, h := (h.h + v.h) % shaM }
/-- The blocks of a padded message, `n` of them. -/
def shaBlocks : Nat → ShaV → List Byte → ShaV
  | 0, h, _ => h
  | n + 1, h, l => shaBlocks n (shaBlock h (l.take 128)) (l.drop 128)
/-- The digest as a number. -/
def shaNat (m : List Byte) : Nat :=
  let p := shaPad m
  let v := shaBlocks (p.length / 128) shaInit p
  [v.b, v.c, v.d, v.e, v.f].foldl (fun acc w => acc * shaM + w) v.a
/-- The 48 bytes of the digest. -/
def sha384 (m : List Byte) : List Byte := beBytes 48 (shaNat m)

end Sys2Proof.Machine
end

