-- ==== Sys2Proof/Machine/Ecdsa.lean ====
section
/-! DEFINITION. ECDSA over the 384-bit non-twisted Brainpool curve of RFC 5639 with SHA-384, the signature that the manual names (R19, R22, R24, R25, R125; log 9, PRESUMED). -/

namespace Sys2Proof.Machine

/-! The curve brainpoolP384r1: y² = x³ + A x + B modulo P, of prime order N, with base point G (RFC 5639, 3.6; log 9, PRESUMED). -/

def ecP : Nat := 0x8CB91E82A3386D280F5D6F7E50E641DF152F7109ED5456B412B1DA197FB71123ACD3A729901D1A71874700133107EC53
def ecA : Nat := 0x7BC382C63D8C150C3C72080ACE05AFA0C2BEA28E4FB22787139165EFBA91F90F8AA5814A503AD4EB04A8C7DD22CE2826
def ecB : Nat := 0x04A8C7DD22CE28268B39B55416F0447C2FB77DE107DCD2A62E880EA53EEB62D57CB4390295DBC9943AB78696FA504C11
def ecGx : Nat := 0x1D1C64F068CF45FFA2A63A81B7C13F6B8847A3E77EF14FE3DB7FCAFE0CBD10E8E826E03436D646AAEF87B2E247D4AF1E
def ecGy : Nat := 0x8ABE1D7520F9C2A45CB1EB8E95CFD55262B70B29FEEC5864E19C054FF99129280E4646217791811142820341263C5315
def ecN : Nat := 0x8CB91E82A3386D280F5D6F7E50E641DF152F7109ED5456B31F166E6CAC0425A7CF3AB6AF6B7FC3103B883202E9046565

/-- b to the power whose low `k` bits are those of e, modulo m. -/
def powMod (m : Nat) : Nat → Nat → Nat → Nat → Nat
  | 0, _, _, acc => acc
  | k + 1, b, e, acc => powMod m k (b * b % m) (e / 2) (if e % 2 = 1 then acc * b % m else acc)
/-- The inverse modulo a prime of 384 bits. -/
def invMod (m a : Nat) : Nat := powMod m 384 (a % m) (m - 2) 1
/-- Subtraction modulo the field's prime. -/
def subP (a b : Nat) : Nat := (a + ecP - b % ecP) % ecP

/-- A point in Jacobian coordinates: x = X / Z², y = Y / Z³; Z is zero at infinity. -/
structure EcJac where
  x : Nat
  y : Nat
  z : Nat
  deriving DecidableEq, Repr
/-- Twice a point. -/
def EcJac.dbl (p : EcJac) : EcJac :=
  let yy := p.y * p.y % ecP
  let s := 4 * p.x * yy % ecP
  let zz := p.z * p.z % ecP
  let m := (3 * p.x * p.x + ecA * (zz * zz % ecP)) % ecP
  let x := subP (m * m) (2 * s)
  { x := x, y := subP (m * subP s x) (8 * (yy * yy)), z := 2 * p.y * p.z % ecP }
/-- The sum of two points. -/
def EcJac.add (p q : EcJac) : EcJac :=
  if p.z = 0 then q else if q.z = 0 then p
  else
    let pz := p.z * p.z % ecP
    let qz := q.z * q.z % ecP
    let u1 := p.x * qz % ecP
    let u2 := q.x * pz % ecP
    let s1 := p.y * (qz * q.z % ecP) % ecP
    let s2 := q.y * (pz * p.z % ecP) % ecP
    if u1 = u2 then (if s1 = s2 then p.dbl else ⟨1, 1, 0⟩)
    else
      let h := subP u2 u1
      let r := subP s2 s1
      let hh := h * h % ecP
      let hhh := hh * h % ecP
      let v := u1 * hh % ecP
      let x := subP (r * r) (hhh + 2 * v)
      { x := x, y := subP (r * subP v x) (s1 * hhh), z := h * (p.z * q.z % ecP) % ecP }
/-- e times a point, by the low `k` bits of e, least significant first, added to `acc`. -/
def EcJac.mulAdd : Nat → EcJac → Nat → EcJac → EcJac
  | 0, _, _, acc => acc
  | k + 1, p, e, acc => EcJac.mulAdd k p.dbl (e / 2) (if e % 2 = 1 then acc.add p else acc)
/-- e times a point. -/
def EcJac.mul (p : EcJac) (e : Nat) : EcJac := EcJac.mulAdd 384 p e ⟨1, 1, 0⟩
/-- The affine x of a point other than infinity. -/
def EcJac.affX (p : EcJac) : Nat := let i := invMod ecP p.z; p.x * (i * i % ecP) % ecP
/-- The affine y. -/
def EcJac.affY (p : EcJac) : Nat := let i := invMod ecP p.z; p.y * (i * i % ecP * i % ecP) % ecP

/-- A public key: an affine point. -/
structure EcKey where
  x : Nat
  y : Nat
  deriving DecidableEq, Repr
/-- The base point. -/
def EcKey.base : EcKey := ⟨ecGx, ecGy⟩
def EcKey.jac (k : EcKey) : EcJac := ⟨k.x, k.y, 1⟩
/-- A key is a point of the curve. -/
def EcKey.onCurve (k : EcKey) : Bool :=
  decide (k.x < ecP) && decide (k.y < ecP) && k.y * k.y % ecP == (k.x * k.x % ecP * k.x + ecA * k.x + ecB) % ecP
/-- The public key of a private one. -/
def EcKey.ofSecret (d : Nat) : EcKey := let q := EcKey.base.jac.mul d; ⟨q.affX, q.affY⟩

/-- The signature of a digest, as numbers r and s, by a private key with the nonce k. -/
def ecSignNat (d k e : Nat) : Nat × Nat :=
  let r := (EcKey.base.jac.mul k).affX % ecN
  (r, invMod ecN k * ((e + r * d) % ecN) % ecN)
/-- r and s verify for a digest under a public key. -/
def ecVerifyNat (q : EcKey) (e r s : Nat) : Bool :=
  let w := invMod ecN s
  let x := EcJac.mulAdd 384 EcKey.base.jac (e * w % ecN) (q.jac.mul (r * w % ecN))
  q.onCurve && decide (0 < r) && decide (r < ecN) && decide (0 < s) && decide (s < ecN) && x.z != 0 && x.affX % ecN == r

/-- The 96 bytes of a signature of a message: r then s, 48 bytes each, big-endian (R19, R125). -/
def ecSign (d k : Nat) (m : List Byte) : List Byte :=
  let g := ecSignNat d k (shaNat m)
  beBytes 48 g.1 ++ beBytes 48 g.2
/-- A signature of 96 bytes verifies for a message under a public key. -/
def ecVerify (q : EcKey) (m sig : List Byte) : Bool :=
  decide (sig.length = 96) && ecVerifyNat q (shaNat m) (beNat (sig.take 48)) (beNat (sig.drop 48))

end Sys2Proof.Machine
end

