-- ==== Sys2Proof/Machine/Packet.lean ====
section
/-! DEFINITION. The frames of a host port: what it accepts, the UDP checksum, and the header of a Chital packet (R94, R95). -/

namespace Sys2Proof.Machine

/-! The UDP checksum (R94), as RFC 768 defines it (log 34, PRESUMED). -/

/-- The sum of the 16-bit words of a run of bytes, high byte first. -/
def sum16 : List Byte → Nat
  | [] => 0
  | [a] => 256 * a.toNat
  | a :: b :: r => 256 * a.toNat + b.toNat + sum16 r
/-- The sum of the 16-bit words of an address. -/
def addrSum (a : Nat) : Nat := (List.range 8).foldl (fun acc i => acc + a / 2 ^ (16 * i) % 2 ^ 16) 0
/-- The sum that the checksum completes: both addresses, protocol, length, ports, payload. -/
def udpTotal (src dst sport dport : Nat) (b : List Byte) : Nat :=
  addrSum src + addrSum dst + 17 + 2 * (8 + b.length) + sport + dport + sum16 b
/-- The checksum that goes out: never zero. -/
def udpSum (src dst sport dport : Nat) (b : List Byte) : Nat :=
  let r := udpTotal src dst sport dport b % 65535
  if r = 0 then 65535 else 65535 - r

/-! Frames. -/

/-- The port of Chital transport (R94). -/
def chitalPort : Nat := 52107
/-- A frame that has come to a host port, from the operands of its event in this order; `vlan` is an 802.1Q tag, and the bytes are the payload of UDP or of ICMP echo. -/
structure Frame where
  port : Nat
  len : Nat
  ver : Nat
  proto : Nat
  frag : Bool
  src : Nat
  dst : Nat
  sport : Nat
  dport : Nat
  sum : Nat
  vlan : Option Nat
  bytes : List Byte
  deriving DecidableEq, Repr
/-- The frame of an event's operands. -/
def frameOf (a : Arg) : Frame :=
  { port := a.nat 0, len := a.nat 1, ver := a.nat 2, proto := a.nat 3, frag := a.nat 4 = 1, src := a.nat 5, dst := a.nat 6, sport := a.nat 7
    dport := a.nat 8, sum := a.nat 9, vlan := a.n[10]?, bytes := a.bytes }
/-- The checksum is verified when it is nonzero on IPv4, and always on IPv6 (R94). -/
def Frame.sumOk (f : Frame) : Bool :=
  (f.ver == 4 && f.sum == 0) || (f.sum != 0 && (udpTotal f.src f.dst f.sport f.dport f.bytes + f.sum) % 65535 == 0)
/-- The port accepts the frame: its size, and no IPv4 fragment (R94). -/
def Frame.fits (f : Frame) : Bool := decide (f.port < 2) && decide (f.len ≤ 9216) && !(f.ver == 4 && f.frag)
/-- A frame that carries a Chital packet: UDP to port 52,107 (R94). R94 does not say that the destination must be the port's own address, and any is taken: a session then replies from it (log 34, DESIGN CHOICE). -/
def Frame.chital (f : Frame) : Bool := f.fits && f.proto == 17 && f.dport == chitalPort && f.sumOk

/-! The Chital header (R95). -/

/-- One step of CRC-32C, bits reversed: the Castagnoli polynomial of RFC 3720. -/
def crcBit (c : Nat) : Nat := if c % 2 = 1 then (c / 2) ^^^ 0x82F63B78 else c / 2
def crcByte (c : Nat) (b : Byte) : Nat := crcBit (crcBit (crcBit (crcBit (crcBit (crcBit (crcBit (crcBit (c ^^^ b.toNat))))))))
/-- CRC-32C (R95; log 34, PRESUMED for what RFC 3720 defines). -/
def crc32c (b : List Byte) : Nat := b.foldl crcByte 0xFFFFFFFF ^^^ 0xFFFFFFFF

/-- The fields of a Chital header and the payload. -/
structure Packet where
  typ : Nat
  sid : Nat
  seq : Nat
  ack : Nat
  sack : Nat
  first : Bool
  last : Bool
  bytes : List Byte
  deriving DecidableEq, Repr
/-- The header before its CRC. -/
def Packet.front (p : Packet) : List Byte :=
  leBytes 2 0xC4A7 ++ leBytes 1 1 ++ leBytes 1 p.typ ++ leBytes 4 p.sid ++ leBytes 4 p.seq ++ leBytes 4 p.ack ++ leBytes 8 p.sack
    ++ leBytes 2 p.bytes.length ++ leBytes 1 (p.first.toNat + 2 * p.last.toNat) ++ leBytes 1 0
/-- The 32-byte header. -/
def Packet.header (p : Packet) : List Byte := p.front ++ leBytes 4 (crc32c (p.front ++ leBytes 4 0 ++ p.bytes))
/-- A packet as the payload of UDP. -/
def Packet.wire (p : Packet) : List Byte := p.header ++ p.bytes
/-- The packet in a payload of UDP; none when its magic, version, CRC or a reserved field is wrong, or when LEN is no length of it (R95; log 34, DESIGN CHOICE for LEN). -/
def packetAt (b : List Byte) : Option Packet :=
  let n := leAt b 0x18 2
  let p : Packet := { typ := leAt b 3 1, sid := leAt b 4 4, seq := leAt b 8 4, ack := leAt b 0xC 4, sack := leAt b 0x10 8
                      first := leAt b 0x1A 1 % 2 == 1, last := leAt b 0x1A 1 / 2 % 2 == 1, bytes := slice b 32 n }
  let good := leAt b 0 2 == 0xC4A7 && leAt b 2 1 == 1 && decide (leAt b 0x1A 1 < 4) && leAt b 0x1B 1 == 0 && decide (n ≤ 8192) && b.length == 32 + n
    && leAt b 0x1C 4 == crc32c (b.take 28 ++ leBytes 4 0 ++ p.bytes) && (p.typ != 3 || leAt p.bytes 1 3 == 0)
  if good then some p else none

end Sys2Proof.Machine
end

