-- ==== Sys2Proof/Decode.lean ====
section
/-! DEFINITION. The decoder of everything the machine fetches, total on any bits, and after it the encoder.

A fetched item is a slot of a control word in the spec's own layout (R273 to R281), an issue word with its literal (R160, R161), or an event in the model's own numbering (log 3, DESIGN CHOICE). The decoder reads the tables of the spec; a slot it rejects names its load cause (R282). -/

namespace Sys2Proof

/-- What a fetched item is: an event, an issue word, or one of the six slots (R160, R162). -/
inductive SlotCls where
  | ev | word | sa | sb | vx | mx | cp | ct
  deriving DecidableEq, Repr

/-- One item of the fetch queue: its class and its bits. -/
structure FetchItem where
  cls : SlotCls
  bits : Nat
  deriving DecidableEq, Repr

/-- What a slot decodes to. -/
inductive Decoded where
  /-- An empty slot (R270). -/
  | empty
  /-- An instruction. -/
  | instr (i : Instr)
  /-- A rejected encoding, with its load cause (R282). -/
  | bad (cause : Nat)
  deriving DecidableEq, Repr

/-- The instruction of a slot, if it holds one. -/
def Decoded.get? : Decoded → Option Instr
  | .instr i => some i
  | _ => none

/-- The `len` bits of `w` from bit `lo`. -/
def fld (w lo len : Nat) : BitVec len := BitVec.ofNat len (w / 2 ^ lo)
/-- Bit `n` of `w`. -/
def bit (w n : Nat) : Bool := w / 2 ^ n % 2 == 1

/-- The bits that an opcode's row leaves unassigned are zero. -/
def zeros (w : Nat) (l : List (Nat × Nat)) : Bool :=
  l.all fun r => w / 2 ^ r.2 % 2 ^ (r.1 + 1 - r.2) == 0

/-- A listed opcode: nonzero unassigned bits are cause 0x03 (R282), then the instruction's own checks. -/
def check (w : Nat) (z : List (Nat × Nat)) (i : Instr) : Decoded :=
  if !zeros w z then .bad reserved
  else match i.loadCause with
    | some c => .bad c
    | none => .instr i

/-- The fields of RR (R273). -/
def RR.ofBits (w : Nat) : RR :=
  { d := fld w 20 5, a := fld w 15 5, b := fld w 10 5, c := fld w 5 5, x := fld w 2 3, kb := bit w 0 }

/-- The fields of RI (R273). -/
def RI.ofBits (w : Nat) : RI :=
  { d := fld w 20 5, a := fld w 15 5, imm := fld w 0 15 }

/-- The fields of LI (R273). -/
def LI.ofBits (w : Nat) : LI :=
  { d := fld w 20 5, imm := fld w 0 20 }

/-- The fields of PC (R273). -/
def PC.ofBits (w : Nat) : PC :=
  { pd := fld w 20 3, a := fld w 15 5, b := fld w 10 5, kb := bit w 0 }

/-- The fields of PL (R273). -/
def PL.ofBits (w : Nat) : PL :=
  { pd := fld w 20 3, pa := fld w 15 3, pb := fld w 10 3 }

/-- The fields of VxOp (R277). -/
def VxOp.ofBits (w : Nat) : VxOp :=
  { vd := fld w 34 6, va := fld w 28 6, vb := fld w 22 6, vc := fld w 16 6, mask := fld w 13 3, beats := fld w 11 2, ty := fld w 8 3, md := fld w 0 8 }

/-- The fields of MsqOp (R279). -/
def MsqOp.ofBits (w : Nat) : MsqOp :=
  { sa := fld w 24 3, sb := fld w 21 3, fe := fld w 16 4, beats := fld w 8 8, blk := fld w 1 7, acc := bit w 0 }

/-- The fields of MsqIxOp (R279). -/
def MsqIxOp.ofBits (form : BitVec 2) (w : Nat) : MsqIxOp :=
  { form := form, sa := fld w 24 3, sb := fld w 21 3, k := fld w 18 2, base := fld w 16 2, beats := fld w 8 8, blk := fld w 1 7, acc := bit w 0 }

/-- The fields of DrainOp (R279). -/
def DrainOp.ofBits (w : Nat) : DrainOp :=
  { bn := fld w 22 5, x := fld w 17 5, blk := fld w 1 7 }

/-- The fields of DrainMOp (R279). -/
def DrainMOp.ofBits (w : Nat) : DrainMOp :=
  { bn := fld w 22 5, x := fld w 17 5, mr := fld w 14 3, mc := fld w 11 3, zm := bit w 10, blk := fld w 1 7 }

/-- The fields of SclOp (R279). -/
def SclOp.ofBits (w : Nat) : SclOp :=
  { bank := bit w 26, v := fld w 21 5, idx := fld w 12 9 }

/-- The fields of StatOp (R279). -/
def StatOp.ofBits (w : Nat) : StatOp :=
  { d := fld w 22 5, clr := bit w 21 }

/-- The fields of VMemOp (R280). -/
def VMemOp.ofBits (w : Nat) : VMemOp :=
  { v := fld w 35 6, bn := fld w 30 5, x := fld w 25 5, imm := fld w 12 13, cls := fld w 8 4, msk := fld w 2 3, nb := fld w 0 2 }

/-- The fields of VMemXOp (R280). -/
def VMemXOp.ofBits (w : Nat) : VMemXOp :=
  { v := fld w 35 6, bn := fld w 30 5, x := fld w 25 5, vi := fld w 19 6, cls := fld w 8 4, msk := fld w 2 3, nb := fld w 0 2 }

/-- The fields of AtomOp (R280). -/
def AtomOp.ofBits (w : Nat) : AtomOp :=
  { s := fld w 35 5, bn := fld w 30 5, x := fld w 25 5, v := fld w 20 5, imm := fld w 12 8, cls := fld w 8 4 }

/-- The fields of SendOp (R280). -/
def SendOp.ofBits (w : Nat) : SendOp :=
  { v := fld w 35 6, cls := fld w 8 4, port := fld w 5 3, nb := fld w 0 2 }

/-- The fields of SendsOp (R280). -/
def SendsOp.ofBits (w : Nat) : SendsOp :=
  { s := fld w 35 5, cls := fld w 8 4, port := fld w 5 3 }

/-- The fields of SendmOp (R280). -/
def SendmOp.ofBits (w : Nat) : SendmOp :=
  { bn := fld w 30 5, x := fld w 25 5, imm := fld w 12 13, cls := fld w 8 4, port := fld w 5 3, nb := fld w 0 2 }

/-- The fields of RecvOp (R280). -/
def RecvOp.ofBits (w : Nat) : RecvOp :=
  { v := fld w 35 6, cls := fld w 8 4, nb := fld w 0 2 }

/-- The fields of RecvsOp (R280). -/
def RecvsOp.ofBits (w : Nat) : RecvsOp :=
  { s := fld w 35 5, word := fld w 12 4, cls := fld w 8 4 }

/-- The fields of RecvmOp (R280). -/
def RecvmOp.ofBits (w : Nat) : RecvmOp :=
  { bn := fld w 30 5, x := fld w 25 5, imm := fld w 12 13, cls := fld w 8 4, nb := fld w 0 2 }

/-- The fields of CpyOp (R280). -/
def CpyOp.ofBits (w : Nat) : CpyOp :=
  { ch := fld w 39 2, q := fld w 35 4, s0 := fld w 30 5, d0 := fld w 25 5, g0 := fld w 20 5, cls := fld w 8 4, st := fld w 0 8 }

/-- The fields of FenceOp (R280). -/
def FenceOp.ofBits (w : Nat) : FenceOp :=
  { mask := fld w 25 16, f := fld w 12 13 }

/-- The fields of PmodeOp (R280). -/
def PmodeOp.ofBits (w : Nat) : PmodeOp :=
  { sub := fld w 37 4, rule := fld w 35 2, ety := bit w 34 }

/-- The fields of SvOp (R280). -/
def SvOp.ofBits (w : Nat) : SvOp :=
  { s := fld w 35 5, cls := fld w 8 4 }

/-- The fields of SvmsgOp (R280). -/
def SvmsgOp.ofBits (w : Nat) : SvmsgOp :=
  { v := fld w 35 6, cls := fld w 8 4, nb := fld w 0 2 }

/-- The fields of LoopOp (R276). -/
def LoopOp.ofBits (w : Nat) : LoopOp :=
  { lvl := fld w 42 2, mexp := fld w 20 4, mman := fld w 12 8, fin := fld w 0 12 }

/-- The fields of WaitOp (R276). -/
def WaitOp.ofBits (w : Nat) : WaitOp :=
  { log := bit w 43, b := fld w 38 5, imm := fld w 0 38 }

/-- The fields of BarwOp (R276). -/
def BarwOp.ofBits (w : Nat) : BarwOp :=
  { lvl := fld w 42 2, maxw := fld w 20 20, bound := fld w 0 20 }

/-- One test of a TREE: NEG and predicate at bit `p`, target at bit `q` (R276). -/
def TreeTest.ofBits (w p q : Nat) : TreeTest := { neg := bit w (p + 3), pred := fld w p 3, target := fld w q 6 }
/-- The fields of TREE (R276). -/
def TreeOp.ofBits (w : Nat) : TreeOp :=
  { last := fld w 26 2, t0 := .ofBits w 40 20, t1 := .ofBits w 36 14, t2 := .ofBits w 32 8, t3 := .ofBits w 28 2 }

/-- The SA slot, 32 bits, opcode in [31:25] (R273, R275). -/
def decodeSa (w : Nat) : Decoded :=
  match w / 2 ^ 25 with
  | 0 => if w == 0 then .empty else .bad reserved
  | 0x01 => check w [(1, 1)] (.add (.ofBits w))
  | 0x02 => check w [(1, 1)] (.sub (.ofBits w))
  | 0x03 => check w [(1, 1)] (.andS (.ofBits w))
  | 0x04 => check w [(1, 1)] (.orS (.ofBits w))
  | 0x05 => check w [(1, 1)] (.xor (.ofBits w))
  | 0x06 => check w [(1, 1)] (.andn (.ofBits w))
  | 0x07 => check w [(1, 1)] (.shl (.ofBits w))
  | 0x08 => check w [(1, 1)] (.shr (.ofBits w))
  | 0x09 => check w [(1, 1)] (.sra (.ofBits w))
  | 0x0A => check w [(1, 1)] (.rol (.ofBits w))
  | 0x0B => check w [(1, 1)] (.minS (.ofBits w))
  | 0x0C => check w [(1, 1)] (.maxS (.ofBits w))
  | 0x0D => check w [(1, 1)] (.minu (.ofBits w))
  | 0x0E => check w [(1, 1)] (.maxu (.ofBits w))
  | 0x0F => check w [(1, 1)] (.slt (.ofBits w))
  | 0x10 => check w [(1, 1)] (.sltu (.ofBits w))
  | 0x11 => check w [(1, 1)] (.seq (.ofBits w))
  | 0x12 => check w [(1, 1)] (.adds (.ofBits w))
  | 0x13 => check w [(1, 1)] (.subs (.ofBits w))
  | 0x14 => check w [(1, 1)] (.absS (.ofBits w))
  | 0x15 => check w [(1, 1)] (.clz (.ofBits w))
  | 0x16 => check w [(1, 1)] (.popc (.ofBits w))
  | 0x17 => check w [(1, 1)] (.brev (.ofBits w))
  | 0x18 => check w [(1, 1)] (.mul (.ofBits w))
  | 0x19 => check w [(1, 1)] (.mulh (.ofBits w))
  | 0x1A => check w [(1, 1)] (.mulhu (.ofBits w))
  | 0x1B => check w [(1, 1)] (.div (.ofBits w))
  | 0x1C => check w [(1, 1)] (.divu (.ofBits w))
  | 0x1D => check w [(1, 1)] (.rem (.ofBits w))
  | 0x1E => check w [(1, 1)] (.remu (.ofBits w))
  | 0x1F => check w [(1, 1)] (.selp (.ofBits w))
  | 0x20 => check w [] (.addi (.ofBits w))
  | 0x21 => check w [] (.andi (.ofBits w))
  | 0x22 => check w [] (.ori (.ofBits w))
  | 0x23 => check w [] (.xori (.ofBits w))
  | 0x24 => check w [] (.shli (.ofBits w))
  | 0x25 => check w [] (.shri (.ofBits w))
  | 0x26 => check w [] (.srai (.ofBits w))
  | 0x27 => check w [] (.slti (.ofBits w))
  | 0x28 => check w [] (.sltiu (.ofBits w))
  | 0x29 => check w [] (.movi (.ofBits w))
  | 0x2A => check w [] (.seth (.ofBits w))
  | 0x2B => check w [] (.movk (.ofBits w))
  | 0x30 => check w [(1, 1)] (.fadd (.ofBits w))
  | 0x31 => check w [(1, 1)] (.fsub (.ofBits w))
  | 0x32 => check w [(1, 1)] (.fmul (.ofBits w))
  | 0x33 => check w [(1, 1)] (.ffma (.ofBits w))
  | 0x34 => check w [(1, 1)] (.fmin (.ofBits w))
  | 0x35 => check w [(1, 1)] (.fmax (.ofBits w))
  | 0x36 => check w [(1, 1)] (.fabs (.ofBits w))
  | 0x37 => check w [(1, 1)] (.fneg (.ofBits w))
  | 0x38 => check w [(1, 1)] (.fcvti (.ofBits w))
  | 0x39 => check w [(1, 1)] (.icvtf (.ofBits w))
  | 0x3A => check w [(1, 1)] (.frcp (.ofBits w))
  | 0x3B => check w [(1, 1)] (.frsq (.ofBits w))
  | 0x3C => check w [(1, 1)] (.frcps (.ofBits w))
  | 0x3D => check w [(1, 1)] (.frsqs (.ofBits w))
  | 0x40 => check w [(9, 1), (24, 23)] (.peq (.ofBits w))
  | 0x41 => check w [(9, 1), (24, 23)] (.pne (.ofBits w))
  | 0x42 => check w [(9, 1), (24, 23)] (.plt (.ofBits w))
  | 0x43 => check w [(9, 1), (24, 23)] (.pltu (.ofBits w))
  | 0x44 => check w [(9, 1), (24, 23)] (.pge (.ofBits w))
  | 0x45 => check w [(9, 1), (24, 23)] (.pgeu (.ofBits w))
  | 0x46 => check w [(9, 1), (24, 23)] (.pflt (.ofBits w))
  | 0x47 => check w [(9, 1), (24, 23)] (.pfle (.ofBits w))
  | 0x48 => check w [(9, 1), (24, 23)] (.pfun (.ofBits w))
  | 0x49 => check w [(9, 0), (14, 13), (19, 18), (24, 23)] (.pand (.ofBits w))
  | 0x4A => check w [(9, 0), (14, 13), (19, 18), (24, 23)] (.por (.ofBits w))
  | 0x4B => check w [(9, 0), (14, 13), (19, 18), (24, 23)] (.pxor (.ofBits w))
  | 0x4C => check w [(9, 0), (14, 13), (19, 18), (24, 23)] (.pnot (.ofBits w))
  | 0x4D => check w [(9, 0), (14, 13), (19, 18), (24, 23)] (.pset (.ofBits w))
  | 0x4E => check w [(1, 1)] (.ptos (.ofBits w))
  | 0x50 => check w [] (.rdsp (.ofBits w))
  | 0x51 => check w [] (.wrsp (.ofBits w))
  | 0x52 => check w [] (.rdcyc (.ofBits w))
  | 0x53 => check w [] (.rdwp (.ofBits w))
  | 0x60 => check w [] (.ldw (.ofBits w))
  | 0x61 => check w [] (.ldh (.ofBits w))
  | 0x62 => check w [] (.ldhu (.ofBits w))
  | 0x63 => check w [] (.ldb (.ofBits w))
  | 0x64 => check w [] (.ldbu (.ofBits w))
  | 0x65 => check w [] (.stw (.ofBits w))
  | 0x66 => check w [] (.sth (.ofBits w))
  | 0x67 => check w [] (.stb (.ofBits w))
  | _ => .bad illegal

/-- The opcodes that SB refuses (R275). -/
def saOnly (op : Nat) : Bool :=
  op == 0x1B || op == 0x1C || op == 0x1D || op == 0x1E || op == 0x50 || op == 0x51 || op == 0x52 || op == 0x60 || op == 0x61 || op == 0x62 || op == 0x63 || op == 0x64 || op == 0x65 || op == 0x66 || op == 0x67

/-- The SB slot: SA's formats less its SA-only opcodes (R275). -/
def decodeSb (w : Nat) : Decoded :=
  if saOnly (w / 2 ^ 25) then .bad illegal else decodeSa w

/-- The VX slot, 48 bits, opcode in [47:40] (R277, R278). -/
def decodeVx (w : Nat) : Decoded :=
  match w / 2 ^ 40 with
  | 0 => if w == 0 then .empty else .bad reserved
  | 0x01 => check w [] (.vadd (.ofBits w))
  | 0x02 => check w [] (.vsub (.ofBits w))
  | 0x03 => check w [] (.vadds (.ofBits w))
  | 0x04 => check w [] (.vaddsu (.ofBits w))
  | 0x05 => check w [] (.vsubs (.ofBits w))
  | 0x06 => check w [] (.vsubsu (.ofBits w))
  | 0x07 => check w [] (.vmul (.ofBits w))
  | 0x08 => check w [] (.vmulh (.ofBits w))
  | 0x09 => check w [] (.vmulhu (.ofBits w))
  | 0x0A => check w [] (.vmulw (.ofBits w))
  | 0x0B => check w [] (.vmulwu (.ofBits w))
  | 0x0C => check w [] (.vmacw (.ofBits w))
  | 0x0D => check w [] (.vmacwu (.ofBits w))
  | 0x0E => check w [] (.vand (.ofBits w))
  | 0x0F => check w [] (.vor (.ofBits w))
  | 0x10 => check w [] (.vxor (.ofBits w))
  | 0x11 => check w [] (.vandn (.ofBits w))
  | 0x12 => check w [] (.vshl (.ofBits w))
  | 0x13 => check w [] (.vshr (.ofBits w))
  | 0x14 => check w [] (.vsra (.ofBits w))
  | 0x15 => check w [] (.vmin (.ofBits w))
  | 0x16 => check w [] (.vmax (.ofBits w))
  | 0x17 => check w [] (.vminu (.ofBits w))
  | 0x18 => check w [] (.vmaxu (.ofBits w))
  | 0x19 => check w [] (.vabs (.ofBits w))
  | 0x1A => check w [] (.vavg (.ofBits w))
  | 0x1B => check w [] (.vclz (.ofBits w))
  | 0x1C => check w [] (.vpopc (.ofBits w))
  | 0x1D => check w [] (.vshli (.ofBits w))
  | 0x1E => check w [] (.vshri (.ofBits w))
  | 0x1F => check w [] (.vsrai (.ofBits w))
  | 0x20 => check w [] (.vfadd (.ofBits w))
  | 0x21 => check w [] (.vfsub (.ofBits w))
  | 0x22 => check w [] (.vfmul (.ofBits w))
  | 0x23 => check w [] (.vffma (.ofBits w))
  | 0x24 => check w [] (.vfmin (.ofBits w))
  | 0x25 => check w [] (.vfmax (.ofBits w))
  | 0x26 => check w [] (.vfabs (.ofBits w))
  | 0x27 => check w [] (.vfneg (.ofBits w))
  | 0x28 => check w [] (.vfrcp (.ofBits w))
  | 0x29 => check w [] (.vfrsq (.ofBits w))
  | 0x2A => check w [] (.vfrcps (.ofBits w))
  | 0x2B => check w [] (.vfrsqs (.ofBits w))
  | 0x2C => check w [] (.vfexp2 (.ofBits w))
  | 0x2D => check w [] (.vfscale (.ofBits w))
  | 0x38 => check w [] (.vceq (.ofBits w))
  | 0x39 => check w [] (.vclt (.ofBits w))
  | 0x3A => check w [] (.vcltu (.ofBits w))
  | 0x3B => check w [] (.vfceq (.ofBits w))
  | 0x3C => check w [] (.vfclt (.ofBits w))
  | 0x3D => check w [] (.vfcle (.ofBits w))
  | 0x3E => check w [] (.vfcun (.ofBits w))
  | 0x40 => check w [] (.mand (.ofBits w))
  | 0x41 => check w [] (.mor (.ofBits w))
  | 0x42 => check w [] (.mxor (.ofBits w))
  | 0x43 => check w [] (.mnot (.ofBits w))
  | 0x44 => check w [] (.mpop (.ofBits w))
  | 0x45 => check w [] (.mbit (.ofBits w))
  | 0x46 => check w [] (.mtov (.ofBits w))
  | 0x47 => check w [] (.mfirst (.ofBits w))
  | 0x48 => check w [] (.vsel (.ofBits w))
  | 0x49 => check w [] (.vmov (.ofBits w))
  | 0x4A => check w [] (.vsplat (.ofBits w))
  | 0x4B => check w [] (.vext (.ofBits w))
  | 0x4C => check w [] (.vins (.ofBits w))
  | 0x4D => check w [] (.viota (.ofBits w))
  | 0x4E => check w [] (.vzero (.ofBits w))
  | 0x50 => check w [] (.vcvt (.ofBits w))
  | 0x51 => check w [] (.vwiden (.ofBits w))
  | 0x52 => check w [] (.vnarrow (.ofBits w))
  | 0x53 => check w [] (.vnarrowu (.ofBits w))
  | 0x58 => check w [] (.vqmax (.ofBits w))
  | 0x59 => check w [] (.vqscale (.ofBits w))
  | 0x5A => check w [] (.vqcvt (.ofBits w))
  | 0x5B => check w [] (.vdeq (.ofBits w))
  | 0x60 => check w [] (.vrsum (.ofBits w))
  | 0x61 => check w [] (.vrsumu (.ofBits w))
  | 0x62 => check w [] (.vrmax (.ofBits w))
  | 0x63 => check w [] (.vrmin (.ofBits w))
  | 0x64 => check w [] (.vfrsum (.ofBits w))
  | 0x65 => check w [] (.vfrmax (.ofBits w))
  | 0x66 => check w [] (.vfrmin (.ofBits w))
  | 0x68 => check w [] (.vshuf (.ofBits w))
  | 0x69 => check w [] (.vrot (.ofBits w))
  | 0x6A => check w [] (.vzip (.ofBits w))
  | 0x6B => check w [] (.vunzip (.ofBits w))
  | 0x6C => check w [] (.vrev (.ofBits w))
  | 0x70 => check w [] (.vshrink (.ofBits w))
  | _ => .bad illegal

/-- The MX slot, 32 bits, opcode in [31:27] (R279). -/
def decodeMx (w : Nat) : Decoded :=
  match w / 2 ^ 27 with
  | 0 => if w == 0 then .empty else .bad reserved
  | 0x01 => if bit w 20 then check w [] (.msqIndexed (.ofBits 0 w)) else check w [] (.msq (.ofBits w))
  | 0x02 => if bit w 20 then check w [] (.msqIndexed (.ofBits 1 w)) else check w [] (.msqTa (.ofBits w))
  | 0x03 => if bit w 20 then check w [] (.msqIndexed (.ofBits 2 w)) else check w [] (.msqTb (.ofBits w))
  | 0x04 => if bit w 20 then check w [] (.msqIndexed (.ofBits 3 w)) else check w [] (.msqTab (.ofBits w))
  | 0x05 => check w [(0, 0), (26, 8)] (.mzero (fld w 1 7))
  | 0x06 => check w [(0, 0), (16, 8)] (.mdrain (.ofBits w))
  | 0x07 => check w [(0, 0), (9, 8)] (.mdrainm (.ofBits w))
  | 0x08 => check w [(23, 0)] (.mclaim (fld w 24 3))
  | 0x09 => check w [(23, 0)] (.mrel (fld w 24 3))
  | 0x0A => check w [(11, 0)] (.mscl (.ofBits w))
  | 0x0B => check w [(20, 0)] (.mstat (.ofBits w))
  | _ => .bad illegal

/-- The CP slot, 48 bits, opcode in [47:41] (R280, R281). -/
def decodeCp (w : Nat) : Decoded :=
  match w / 2 ^ 41 with
  | 0 => if w == 0 then .empty else .bad reserved
  | 0x01 => check w [(7, 5)] (.vld (.ofBits w))
  | 0x02 => check w [(7, 5)] (.vst (.ofBits w))
  | 0x03 => check w [(7, 5), (18, 12)] (.vldx (.ofBits w))
  | 0x04 => check w [(7, 5), (18, 12)] (.vstx (.ofBits w))
  | 0x05 => check w [(7, 5)] (.vldb (.ofBits w))
  | 0x08 => check w [(7, 0), (40, 40)] (.aadd (.ofBits w))
  | 0x09 => check w [(7, 0), (40, 40)] (.amax (.ofBits w))
  | 0x0A => check w [(7, 0), (40, 40)] (.amin (.ofBits w))
  | 0x0B => check w [(7, 0), (40, 40)] (.axch (.ofBits w))
  | 0x0C => check w [(7, 0), (40, 40)] (.acas (.ofBits w))
  | 0x10 => check w [(4, 2), (34, 12)] (.send (.ofBits w))
  | 0x11 => check w [(4, 0), (34, 12), (40, 40)] (.sends (.ofBits w))
  | 0x12 => check w [(7, 2), (34, 12)] (.recv (.ofBits w))
  | 0x13 => check w [(7, 0), (34, 16), (40, 40)] (.recvs (.ofBits w))
  | 0x14 => check w [(7, 2), (40, 35)] (.recvm (.ofBits w))
  | 0x15 => check w [(4, 2), (40, 35)] (.sendm (.ofBits w))
  | 0x18 => check w [(19, 12)] (.cpy (.ofBits w))
  | 0x19 => check w [(19, 12)] (.cpym (.ofBits w))
  | 0x1A => check w [(19, 12)] (.cpyg (.ofBits w))
  | 0x1B => check w [(19, 12)] (.cpyw (.ofBits w))
  | 0x20 => check w [(11, 0)] (.fence (.ofBits w))
  | 0x24 => check w [(33, 0)] (.pmode (.ofBits w))
  | 0x28 => check w [(7, 0), (34, 12), (40, 40)] (.svsave (.ofBits w))
  | 0x29 => check w [(7, 0), (34, 12), (40, 40)] (.svload (.ofBits w))
  | 0x2A => check w [(7, 2), (34, 12)] (.svmsg (.ofBits w))
  | _ => .bad illegal

/-- LOOP: until-predicate, counted by a register, counted by an immediate (R276). An unused PK, CS or CNT field is zero. -/
def decodeLoop (w : Nat) : Decoded :=
  if bit w 41 then check w [(37, 24)] (.loopUntil (.ofBits w) (fld w 38 3))
  else if bit w 37 then check w [(40, 38), (36, 29)] (.loopRegisterCount (.ofBits w) (fld w 24 5))
  else check w [(40, 38)] (.loopCounted (.ofBits w) (fld w 24 13))

/-- SYS, by its sub-op (R276). -/
def decodeSys (w : Nat) : Decoded :=
  match w / 2 ^ 40 % 16 with
  | 0 => check w [(39, 0)] .haltdbg
  | 1 => check w [(39, 0)] .trig
  | 2 => check w [(39, 0)] .preemptpt
  | 3 => check w [(39, 0)] .chkon
  | 4 => check w [(39, 0)] .chkoff
  | _ => .bad illegal

/-- The CT slot, 48 bits, opcode in [47:44] (R276). -/
def decodeCt (w : Nat) : Decoded :=
  match w / 2 ^ 44 with
  | 0 => if w == 0 then .empty else .bad reserved
  | 0x1 => check w [(1, 0)] (.tree (.ofBits w))
  | 0x2 => if bit w 43 then check w [(42, 42), (36, 0)] (.jmpIndirect (fld w 37 5)) else check w [(42, 42), (35, 0)] (.jmp (fld w 36 6))
  | 0x3 => if bit w 43 then check w [(42, 42), (36, 0)] (.callIndirect (fld w 37 5)) else check w [(42, 42), (35, 0)] (.call (fld w 36 6))
  | 0x4 => check w [(43, 0)] .ret
  | 0x5 => decodeLoop w
  | 0x6 => check w [] (.waitc (.ofBits w))
  | 0x7 => check w [(41, 0)] (.bara (fld w 42 2))
  | 0x8 => check w [(41, 40)] (.barw (.ofBits w))
  | 0x9 => check w [(41, 0)] (.step (fld w 42 2))
  | 0xA => check w [(27, 0)] (.trap (fld w 28 16))
  | 0xB => check w [(43, 0)] .xret
  | 0xC => check w [(43, 0)] .endS
  | 0xD => check w [(38, 0)] (.align (fld w 39 5))
  | 0xE => check w [] (.rbmark (fld w 39 5) (fld w 0 39))
  | 0xF => decodeSys w
  | _ => .bad illegal

/-- An issue word by itself: the empty word is NOP, INDEX 511 is LIT with its literal in the two halfwords that follow (R160, R161). -/
def decodeWord (w : Nat) : Decoded :=
  let o : IssueWord := { guard := fld w 13 3, wait := fld w 0 4 }
  match w / 2 ^ 4 % 512 with
  | 0 => if w / 2 ^ 16 == 0 then check w [] (.nop o) else .bad reserved
  | 511 => check w [] (.lit o (fld w 16 32))
  | _ => .bad illegal

/-- The event of a row number (log 3, DESIGN CHOICE). -/
def eventOf (row : Nat) : Option Instr :=
  match row with
  | 0 => some .powerOnReset
  | 1 => some .builtInTestComplete
  | 2 => some .firmwareInstall
  | 3 => some .mapInstall
  | 4 => some .fullWaferSelfTest
  | 5 => some .fullWaferSelfTestComplete
  | 6 => some .allowListInstall
  | 7 => some .portAddressConfig
  | 8 => some .clockGroupConfig
  | 9 => some .debugControlWrite
  | 10 => some .clockLower
  | 11 => some .clockRaise
  | 12 => some .thermalEmergency
  | 13 => some .thermalRecovery
  | 14 => some .arpRequest
  | 15 => some .neighborDiscovery
  | 16 => some .icmpEcho
  | 17 => some .openS
  | 18 => some .data
  | 19 => some .ack
  | 20 => some .probe
  | 21 => some .close
  | 22 => some .ackTimerExpiry
  | 23 => some .retransmitTimerExpiry
  | 24 => some .sessionIdleTimeout
  | 25 => some .openContext
  | 26 => some .closeContext
  | 27 => some .loadImage
  | 28 => some .imageLoadComplete
  | 29 => some .writeDram
  | 30 => some .readDram
  | 31 => some .hostDramAccessComplete
  | 32 => some .launch
  | 33 => some .graphDefine
  | 34 => some .graphRun
  | 35 => some .graphPatch
  | 36 => some .cancel
  | 37 => some .setDeterminism
  | 38 => some .preempt
  | 39 => some .query
  | 40 => some .attest
  | 41 => some .subscribe
  | 42 => some .dispatch
  | 43 => some .scriptLoadAndPin
  | 44 => some .configLoadComplete
  | 45 => some .tstartFix
  | 46 => some .planeSwap
  | 47 => some .launchStart
  | 48 => some .iterationStart
  | 49 => some .drainPoint
  | 50 => some .launchRetire
  | 51 => some .switchEntryAdvance
  | 52 => some .flitArrival
  | 53 => some .landingWindowExpiry
  | 54 => some .alignmentPoint
  | 55 => some .alignmentSample
  | 56 => some .alignmentCompare
  | 57 => some .distaffUpstreamPayload
  | 58 => some .distaffDownstreamPayload
  | 59 => some .distaffBroadcastPayload
  | 60 => some .barrierRelease
  | 61 => some .stepSkew
  | 62 => some .rovingMessage
  | 63 => some .hardwareError
  | 64 => some .launchStop
  | 65 => some .checkpoint
  | 66 => some .checkpointConfirm
  | 67 => some .selfTestComplete
  | 68 => some .resumeStart
  | 69 => some .preemptSaveComplete
  | 70 => some .contextKill
  | 71 => some .trapTake
  | 72 => some .fetchStart
  | 73 => some .fetchDataArrival
  | 74 => some .stagingInject
  | 75 => some .stagingWriteLanding
  | 76 => some .commitDecision
  | 77 => some .commitComplete
  | 78 => some .bridgeMessageArrival
  | 79 => some .bridgeSend
  | 80 => some .bridgeReceiveInject
  | 81 => some .ptpMessage
  | 82 => some .waitcRelease
  | 83 => some .alignResume
  | 84 => some .barwTimeout
  | 85 => some .serviceTransferEnd
  | 86 => some .chainedCommandIssue
  | 87 => some .debugStop
  | 88 => some .debugResume
  | 323 => some .discardedPacket
  | 324 => some .counterDrift
  | 325 => some .poolSramUpset
  | 326 => some .preemptSaveFailure
  | 327 => some .clockGroupNChange
  | _ => none

/-- The width of one operand of an event in the model's numbering (log 3, DESIGN CHOICE). -/
def argBits : Nat := 2 ^ 4096

/-- The `n` numbers of 4,096 bits each that `w` holds, least significant first, and what is left above them. -/
def splitFields : Nat → Nat → List Nat × Nat
  | 0, w => ([], w)
  | n + 1, w =>
    let r := splitFields n (w / argBits)
    (w % argBits :: r.1, r.2)

/-- The low `n` bytes of `w`, least significant first. -/
def splitBytes : Nat → Nat → List Byte
  | 0, _ => []
  | n + 1, w => BitVec.ofNat 8 w :: splitBytes n (w / 256)

/-- An event: its row in [15:0]; its operands above (log 3, DESIGN CHOICE). -/
def decodeEvent (w : Nat) : Decoded :=
  match eventOf (w % 2 ^ 16) with
  | some i => check w [] i
  | none => .bad illegal

/-- The operands of an event: a count of numbers in [31:16], a count of bytes in [63:32], the numbers of 4,096 bits each, the bytes (log 3, DESIGN CHOICE). -/
def eventArg (w : Nat) : Arg :=
  let r := splitFields (w / 2 ^ 16 % 2 ^ 16) (w / 2 ^ 64)
  { n := r.1, bytes := splitBytes (w / 2 ^ 32 % 2 ^ 32) r.2 }

/-- The operands that a fetched item latches: an event's own, none for a slot. -/
def FetchItem.arg (f : FetchItem) : Arg :=
  match f.cls with
  | .ev => eventArg f.bits
  | .word | .sa | .sb | .vx | .mx | .cp | .ct => { n := [], bytes := [] }

/-- The instruction of a fetched item. -/
def decodeItem (f : FetchItem) : Decoded :=
  match f.cls with
  | .ev => decodeEvent f.bits
  | .word => decodeWord f.bits
  | .sa => decodeSa f.bits
  | .sb => decodeSb f.bits
  | .vx => decodeVx f.bits
  | .mx => decodeMx f.bits
  | .cp => decodeCp f.bits
  | .ct => decodeCt f.bits

/-- The item that a word in the model's numbering of items stands for: its class in [2:0], its bits above (log 3, DESIGN CHOICE). -/
def itemOfWord (w : Nat) : FetchItem :=
  { cls := match w % 8 with
      | 0 => .ev | 1 => .word | 2 => .sa | 3 => .sb | 4 => .vx | 5 => .mx | 6 => .cp | _ => .ct
    bits := w / 8 }

/-- The number of an item: the inverse of `itemOfWord`. -/
def FetchItem.toWord (f : FetchItem) : Nat :=
  f.bits * 8 + match f.cls with
    | .ev => 0 | .word => 1 | .sa => 2 | .sb => 3 | .vx => 4 | .mx => 5 | .cp => 6 | .ct => 7

/-- The instruction that the decoder reads from a word. The table gives its rows no bits, so a word is an item's number whatever `nbits` is (log 3, DESIGN CHOICE). -/
def decodeTableWord (_nbits w : Nat) : Option Instr := (decodeItem (itemOfWord w)).get?

/-! The encoder, from the same tables. -/

/-- The bits of RR below its opcode (R273). -/
def RR.toBits (o : RR) : Nat :=
  o.d.toNat * 2 ^ 20 + o.a.toNat * 2 ^ 15 + o.b.toNat * 2 ^ 10 + o.c.toNat * 2 ^ 5 + o.x.toNat * 2 ^ 2 + (o.kb).toNat

/-- The bits of RI below its opcode (R273). -/
def RI.toBits (o : RI) : Nat :=
  o.d.toNat * 2 ^ 20 + o.a.toNat * 2 ^ 15 + o.imm.toNat

/-- The bits of LI below its opcode (R273). -/
def LI.toBits (o : LI) : Nat :=
  o.d.toNat * 2 ^ 20 + o.imm.toNat

/-- The bits of PC below its opcode (R273). -/
def PC.toBits (o : PC) : Nat :=
  o.pd.toNat * 2 ^ 20 + o.a.toNat * 2 ^ 15 + o.b.toNat * 2 ^ 10 + (o.kb).toNat

/-- The bits of PL below its opcode (R273). -/
def PL.toBits (o : PL) : Nat :=
  o.pd.toNat * 2 ^ 20 + o.pa.toNat * 2 ^ 15 + o.pb.toNat * 2 ^ 10

/-- The bits of VxOp below its opcode (R277). -/
def VxOp.toBits (o : VxOp) : Nat :=
  o.vd.toNat * 2 ^ 34 + o.va.toNat * 2 ^ 28 + o.vb.toNat * 2 ^ 22 + o.vc.toNat * 2 ^ 16 + o.mask.toNat * 2 ^ 13 + o.beats.toNat * 2 ^ 11 + o.ty.toNat * 2 ^ 8 + o.md.toNat

/-- The bits of MsqOp below its opcode (R279). -/
def MsqOp.toBits (o : MsqOp) : Nat :=
  o.sa.toNat * 2 ^ 24 + o.sb.toNat * 2 ^ 21 + o.fe.toNat * 2 ^ 16 + o.beats.toNat * 2 ^ 8 + o.blk.toNat * 2 ^ 1 + (o.acc).toNat

/-- The bits of MsqIxOp below its opcode (R279). -/
def MsqIxOp.toBits (o : MsqIxOp) : Nat :=
  o.sa.toNat * 2 ^ 24 + o.sb.toNat * 2 ^ 21 + o.k.toNat * 2 ^ 18 + o.base.toNat * 2 ^ 16 + o.beats.toNat * 2 ^ 8 + o.blk.toNat * 2 ^ 1 + (o.acc).toNat

/-- The bits of DrainOp below its opcode (R279). -/
def DrainOp.toBits (o : DrainOp) : Nat :=
  o.bn.toNat * 2 ^ 22 + o.x.toNat * 2 ^ 17 + o.blk.toNat * 2 ^ 1

/-- The bits of DrainMOp below its opcode (R279). -/
def DrainMOp.toBits (o : DrainMOp) : Nat :=
  o.bn.toNat * 2 ^ 22 + o.x.toNat * 2 ^ 17 + o.mr.toNat * 2 ^ 14 + o.mc.toNat * 2 ^ 11 + (o.zm).toNat * 2 ^ 10 + o.blk.toNat * 2 ^ 1

/-- The bits of SclOp below its opcode (R279). -/
def SclOp.toBits (o : SclOp) : Nat :=
  (o.bank).toNat * 2 ^ 26 + o.v.toNat * 2 ^ 21 + o.idx.toNat * 2 ^ 12

/-- The bits of StatOp below its opcode (R279). -/
def StatOp.toBits (o : StatOp) : Nat :=
  o.d.toNat * 2 ^ 22 + (o.clr).toNat * 2 ^ 21

/-- The bits of VMemOp below its opcode (R280). -/
def VMemOp.toBits (o : VMemOp) : Nat :=
  o.v.toNat * 2 ^ 35 + o.bn.toNat * 2 ^ 30 + o.x.toNat * 2 ^ 25 + o.imm.toNat * 2 ^ 12 + o.cls.toNat * 2 ^ 8 + o.msk.toNat * 2 ^ 2 + o.nb.toNat

/-- The bits of VMemXOp below its opcode (R280). -/
def VMemXOp.toBits (o : VMemXOp) : Nat :=
  o.v.toNat * 2 ^ 35 + o.bn.toNat * 2 ^ 30 + o.x.toNat * 2 ^ 25 + o.vi.toNat * 2 ^ 19 + o.cls.toNat * 2 ^ 8 + o.msk.toNat * 2 ^ 2 + o.nb.toNat

/-- The bits of AtomOp below its opcode (R280). -/
def AtomOp.toBits (o : AtomOp) : Nat :=
  o.s.toNat * 2 ^ 35 + o.bn.toNat * 2 ^ 30 + o.x.toNat * 2 ^ 25 + o.v.toNat * 2 ^ 20 + o.imm.toNat * 2 ^ 12 + o.cls.toNat * 2 ^ 8

/-- The bits of SendOp below its opcode (R280). -/
def SendOp.toBits (o : SendOp) : Nat :=
  o.v.toNat * 2 ^ 35 + o.cls.toNat * 2 ^ 8 + o.port.toNat * 2 ^ 5 + o.nb.toNat

/-- The bits of SendsOp below its opcode (R280). -/
def SendsOp.toBits (o : SendsOp) : Nat :=
  o.s.toNat * 2 ^ 35 + o.cls.toNat * 2 ^ 8 + o.port.toNat * 2 ^ 5

/-- The bits of SendmOp below its opcode (R280). -/
def SendmOp.toBits (o : SendmOp) : Nat :=
  o.bn.toNat * 2 ^ 30 + o.x.toNat * 2 ^ 25 + o.imm.toNat * 2 ^ 12 + o.cls.toNat * 2 ^ 8 + o.port.toNat * 2 ^ 5 + o.nb.toNat

/-- The bits of RecvOp below its opcode (R280). -/
def RecvOp.toBits (o : RecvOp) : Nat :=
  o.v.toNat * 2 ^ 35 + o.cls.toNat * 2 ^ 8 + o.nb.toNat

/-- The bits of RecvsOp below its opcode (R280). -/
def RecvsOp.toBits (o : RecvsOp) : Nat :=
  o.s.toNat * 2 ^ 35 + o.word.toNat * 2 ^ 12 + o.cls.toNat * 2 ^ 8

/-- The bits of RecvmOp below its opcode (R280). -/
def RecvmOp.toBits (o : RecvmOp) : Nat :=
  o.bn.toNat * 2 ^ 30 + o.x.toNat * 2 ^ 25 + o.imm.toNat * 2 ^ 12 + o.cls.toNat * 2 ^ 8 + o.nb.toNat

/-- The bits of CpyOp below its opcode (R280). -/
def CpyOp.toBits (o : CpyOp) : Nat :=
  o.ch.toNat * 2 ^ 39 + o.q.toNat * 2 ^ 35 + o.s0.toNat * 2 ^ 30 + o.d0.toNat * 2 ^ 25 + o.g0.toNat * 2 ^ 20 + o.cls.toNat * 2 ^ 8 + o.st.toNat

/-- The bits of FenceOp below its opcode (R280). -/
def FenceOp.toBits (o : FenceOp) : Nat :=
  o.mask.toNat * 2 ^ 25 + o.f.toNat * 2 ^ 12

/-- The bits of PmodeOp below its opcode (R280). -/
def PmodeOp.toBits (o : PmodeOp) : Nat :=
  o.sub.toNat * 2 ^ 37 + o.rule.toNat * 2 ^ 35 + (o.ety).toNat * 2 ^ 34

/-- The bits of SvOp below its opcode (R280). -/
def SvOp.toBits (o : SvOp) : Nat :=
  o.s.toNat * 2 ^ 35 + o.cls.toNat * 2 ^ 8

/-- The bits of SvmsgOp below its opcode (R280). -/
def SvmsgOp.toBits (o : SvmsgOp) : Nat :=
  o.v.toNat * 2 ^ 35 + o.cls.toNat * 2 ^ 8 + o.nb.toNat

/-- The bits of LoopOp below its opcode (R276). -/
def LoopOp.toBits (o : LoopOp) : Nat :=
  o.lvl.toNat * 2 ^ 42 + o.mexp.toNat * 2 ^ 20 + o.mman.toNat * 2 ^ 12 + o.fin.toNat

/-- The bits of WaitOp below its opcode (R276). -/
def WaitOp.toBits (o : WaitOp) : Nat :=
  (o.log).toNat * 2 ^ 43 + o.b.toNat * 2 ^ 38 + o.imm.toNat

/-- The bits of BarwOp below its opcode (R276). -/
def BarwOp.toBits (o : BarwOp) : Nat :=
  o.lvl.toNat * 2 ^ 42 + o.maxw.toNat * 2 ^ 20 + o.bound.toNat

/-- The bits of one test of a TREE (R276). -/
def TreeTest.toBits (t : TreeTest) (p q : Nat) : Nat :=
  (t.neg).toNat * 2 ^ (p + 3) + t.pred.toNat * 2 ^ p + t.target.toNat * 2 ^ q
/-- The bits of TREE below its opcode (R276). -/
def TreeOp.toBits (o : TreeOp) : Nat :=
  o.last.toNat * 2 ^ 26 + o.t0.toBits 40 20 + o.t1.toBits 36 14 + o.t2.toBits 32 8 + o.t3.toBits 28 2

/-- An issue word with an INDEX (R160). -/
def IssueWord.toBits (o : IssueWord) (index : Nat) : Nat := o.guard.toNat * 2 ^ 13 + index * 2 ^ 4 + o.wait.toNat

/-- The item of a slot: its opcode above the bits of its row. -/
def slotItem (cls : SlotCls) (pos op bits : Nat) : FetchItem := ⟨cls, op * 2 ^ pos + bits⟩
/-- The item of an event that latches no operands. -/
def eventRow (row : Nat) : FetchItem := ⟨.ev, row⟩
/-- An item is an event of a row. -/
def FetchItem.isRow (f : FetchItem) (row : Nat) : Bool := f.cls == .ev && f.bits % 2 ^ 16 == row

/-- Numbers of 4,096 bits each, least significant first. -/
def joinFields : List Nat → Nat → Nat
  | [], top => top
  | a :: l, top => a + argBits * joinFields l top

/-- Bytes, least significant first. -/
def joinBytes : List Byte → Nat
  | [] => 0
  | a :: l => a.toNat + 256 * joinBytes l

/-- The item of an event with its operands (log 3, DESIGN CHOICE). -/
def eventItem (row : Nat) (a : Arg) : FetchItem :=
  ⟨.ev, row + 2 ^ 16 * a.n.length + 2 ^ 32 * a.bytes.length + 2 ^ 64 * joinFields a.n (joinBytes a.bytes)⟩

set_option maxHeartbeats 1600000 in
/-- The words of an instruction: the item it is fetched as. -/
def encode (i : Instr) : FetchItem :=
  match i with
  | .powerOnReset => eventRow 0
  | .builtInTestComplete => eventRow 1
  | .firmwareInstall => eventRow 2
  | .mapInstall => eventRow 3
  | .fullWaferSelfTest => eventRow 4
  | .fullWaferSelfTestComplete => eventRow 5
  | .allowListInstall => eventRow 6
  | .portAddressConfig => eventRow 7
  | .clockGroupConfig => eventRow 8
  | .debugControlWrite => eventRow 9
  | .clockLower => eventRow 10
  | .clockRaise => eventRow 11
  | .thermalEmergency => eventRow 12
  | .thermalRecovery => eventRow 13
  | .arpRequest => eventRow 14
  | .neighborDiscovery => eventRow 15
  | .icmpEcho => eventRow 16
  | .openS => eventRow 17
  | .data => eventRow 18
  | .ack => eventRow 19
  | .probe => eventRow 20
  | .close => eventRow 21
  | .ackTimerExpiry => eventRow 22
  | .retransmitTimerExpiry => eventRow 23
  | .sessionIdleTimeout => eventRow 24
  | .openContext => eventRow 25
  | .closeContext => eventRow 26
  | .loadImage => eventRow 27
  | .imageLoadComplete => eventRow 28
  | .writeDram => eventRow 29
  | .readDram => eventRow 30
  | .hostDramAccessComplete => eventRow 31
  | .launch => eventRow 32
  | .graphDefine => eventRow 33
  | .graphRun => eventRow 34
  | .graphPatch => eventRow 35
  | .cancel => eventRow 36
  | .setDeterminism => eventRow 37
  | .preempt => eventRow 38
  | .query => eventRow 39
  | .attest => eventRow 40
  | .subscribe => eventRow 41
  | .dispatch => eventRow 42
  | .scriptLoadAndPin => eventRow 43
  | .configLoadComplete => eventRow 44
  | .tstartFix => eventRow 45
  | .planeSwap => eventRow 46
  | .launchStart => eventRow 47
  | .iterationStart => eventRow 48
  | .drainPoint => eventRow 49
  | .launchRetire => eventRow 50
  | .switchEntryAdvance => eventRow 51
  | .flitArrival => eventRow 52
  | .landingWindowExpiry => eventRow 53
  | .alignmentPoint => eventRow 54
  | .alignmentSample => eventRow 55
  | .alignmentCompare => eventRow 56
  | .distaffUpstreamPayload => eventRow 57
  | .distaffDownstreamPayload => eventRow 58
  | .distaffBroadcastPayload => eventRow 59
  | .barrierRelease => eventRow 60
  | .stepSkew => eventRow 61
  | .rovingMessage => eventRow 62
  | .hardwareError => eventRow 63
  | .launchStop => eventRow 64
  | .checkpoint => eventRow 65
  | .checkpointConfirm => eventRow 66
  | .selfTestComplete => eventRow 67
  | .resumeStart => eventRow 68
  | .preemptSaveComplete => eventRow 69
  | .contextKill => eventRow 70
  | .trapTake => eventRow 71
  | .fetchStart => eventRow 72
  | .fetchDataArrival => eventRow 73
  | .stagingInject => eventRow 74
  | .stagingWriteLanding => eventRow 75
  | .commitDecision => eventRow 76
  | .commitComplete => eventRow 77
  | .bridgeMessageArrival => eventRow 78
  | .bridgeSend => eventRow 79
  | .bridgeReceiveInject => eventRow 80
  | .ptpMessage => eventRow 81
  | .waitcRelease => eventRow 82
  | .alignResume => eventRow 83
  | .barwTimeout => eventRow 84
  | .serviceTransferEnd => eventRow 85
  | .chainedCommandIssue => eventRow 86
  | .debugStop => eventRow 87
  | .debugResume => eventRow 88
  | .nop o => ⟨.word, o.toBits 0⟩
  | .lit o l => ⟨.word, o.toBits 511 + l.toNat * 2 ^ 16⟩
  | .add o => slotItem .sa 25 0x01 o.toBits
  | .sub o => slotItem .sa 25 0x02 o.toBits
  | .andS o => slotItem .sa 25 0x03 o.toBits
  | .orS o => slotItem .sa 25 0x04 o.toBits
  | .xor o => slotItem .sa 25 0x05 o.toBits
  | .andn o => slotItem .sa 25 0x06 o.toBits
  | .shl o => slotItem .sa 25 0x07 o.toBits
  | .shr o => slotItem .sa 25 0x08 o.toBits
  | .sra o => slotItem .sa 25 0x09 o.toBits
  | .rol o => slotItem .sa 25 0x0A o.toBits
  | .minS o => slotItem .sa 25 0x0B o.toBits
  | .maxS o => slotItem .sa 25 0x0C o.toBits
  | .minu o => slotItem .sa 25 0x0D o.toBits
  | .maxu o => slotItem .sa 25 0x0E o.toBits
  | .slt o => slotItem .sa 25 0x0F o.toBits
  | .sltu o => slotItem .sa 25 0x10 o.toBits
  | .seq o => slotItem .sa 25 0x11 o.toBits
  | .adds o => slotItem .sa 25 0x12 o.toBits
  | .subs o => slotItem .sa 25 0x13 o.toBits
  | .absS o => slotItem .sa 25 0x14 o.toBits
  | .clz o => slotItem .sa 25 0x15 o.toBits
  | .popc o => slotItem .sa 25 0x16 o.toBits
  | .brev o => slotItem .sa 25 0x17 o.toBits
  | .mul o => slotItem .sa 25 0x18 o.toBits
  | .mulh o => slotItem .sa 25 0x19 o.toBits
  | .mulhu o => slotItem .sa 25 0x1A o.toBits
  | .div o => slotItem .sa 25 0x1B o.toBits
  | .divu o => slotItem .sa 25 0x1C o.toBits
  | .rem o => slotItem .sa 25 0x1D o.toBits
  | .remu o => slotItem .sa 25 0x1E o.toBits
  | .selp o => slotItem .sa 25 0x1F o.toBits
  | .addi o => slotItem .sa 25 0x20 o.toBits
  | .andi o => slotItem .sa 25 0x21 o.toBits
  | .ori o => slotItem .sa 25 0x22 o.toBits
  | .xori o => slotItem .sa 25 0x23 o.toBits
  | .shli o => slotItem .sa 25 0x24 o.toBits
  | .shri o => slotItem .sa 25 0x25 o.toBits
  | .srai o => slotItem .sa 25 0x26 o.toBits
  | .slti o => slotItem .sa 25 0x27 o.toBits
  | .sltiu o => slotItem .sa 25 0x28 o.toBits
  | .movi o => slotItem .sa 25 0x29 o.toBits
  | .seth o => slotItem .sa 25 0x2A o.toBits
  | .movk o => slotItem .sa 25 0x2B o.toBits
  | .fadd o => slotItem .sa 25 0x30 o.toBits
  | .fsub o => slotItem .sa 25 0x31 o.toBits
  | .fmul o => slotItem .sa 25 0x32 o.toBits
  | .ffma o => slotItem .sa 25 0x33 o.toBits
  | .fmin o => slotItem .sa 25 0x34 o.toBits
  | .fmax o => slotItem .sa 25 0x35 o.toBits
  | .fabs o => slotItem .sa 25 0x36 o.toBits
  | .fneg o => slotItem .sa 25 0x37 o.toBits
  | .fcvti o => slotItem .sa 25 0x38 o.toBits
  | .icvtf o => slotItem .sa 25 0x39 o.toBits
  | .frcp o => slotItem .sa 25 0x3A o.toBits
  | .frsq o => slotItem .sa 25 0x3B o.toBits
  | .frcps o => slotItem .sa 25 0x3C o.toBits
  | .frsqs o => slotItem .sa 25 0x3D o.toBits
  | .peq o => slotItem .sa 25 0x40 o.toBits
  | .pne o => slotItem .sa 25 0x41 o.toBits
  | .plt o => slotItem .sa 25 0x42 o.toBits
  | .pltu o => slotItem .sa 25 0x43 o.toBits
  | .pge o => slotItem .sa 25 0x44 o.toBits
  | .pgeu o => slotItem .sa 25 0x45 o.toBits
  | .pflt o => slotItem .sa 25 0x46 o.toBits
  | .pfle o => slotItem .sa 25 0x47 o.toBits
  | .pfun o => slotItem .sa 25 0x48 o.toBits
  | .pand o => slotItem .sa 25 0x49 o.toBits
  | .por o => slotItem .sa 25 0x4A o.toBits
  | .pxor o => slotItem .sa 25 0x4B o.toBits
  | .pnot o => slotItem .sa 25 0x4C o.toBits
  | .pset o => slotItem .sa 25 0x4D o.toBits
  | .ptos o => slotItem .sa 25 0x4E o.toBits
  | .rdsp o => slotItem .sa 25 0x50 o.toBits
  | .wrsp o => slotItem .sa 25 0x51 o.toBits
  | .rdcyc o => slotItem .sa 25 0x52 o.toBits
  | .rdwp o => slotItem .sa 25 0x53 o.toBits
  | .ldw o => slotItem .sa 25 0x60 o.toBits
  | .ldh o => slotItem .sa 25 0x61 o.toBits
  | .ldhu o => slotItem .sa 25 0x62 o.toBits
  | .ldb o => slotItem .sa 25 0x63 o.toBits
  | .ldbu o => slotItem .sa 25 0x64 o.toBits
  | .stw o => slotItem .sa 25 0x65 o.toBits
  | .sth o => slotItem .sa 25 0x66 o.toBits
  | .stb o => slotItem .sa 25 0x67 o.toBits
  | .tree o => ⟨.ct, 0x1 * 2 ^ 44 + o.toBits⟩
  | .jmp t => ⟨.ct, 0x2 * 2 ^ 44 + t.toNat * 2 ^ 36⟩
  | .jmpIndirect r => ⟨.ct, 0x2 * 2 ^ 44 + 2 ^ 43 + r.toNat * 2 ^ 37⟩
  | .call t => ⟨.ct, 0x3 * 2 ^ 44 + t.toNat * 2 ^ 36⟩
  | .callIndirect r => ⟨.ct, 0x3 * 2 ^ 44 + 2 ^ 43 + r.toNat * 2 ^ 37⟩
  | .ret => ⟨.ct, 0x4 * 2 ^ 44⟩
  | .loopCounted o cnt => ⟨.ct, 0x5 * 2 ^ 44 + o.toBits + cnt.toNat * 2 ^ 24⟩
  | .loopRegisterCount o r => ⟨.ct, 0x5 * 2 ^ 44 + 2 ^ 37 + o.toBits + r.toNat * 2 ^ 24⟩
  | .loopUntil o pk => ⟨.ct, 0x5 * 2 ^ 44 + 2 ^ 41 + o.toBits + pk.toNat * 2 ^ 38⟩
  | .waitc o => ⟨.ct, 0x6 * 2 ^ 44 + o.toBits⟩
  | .bara l => ⟨.ct, 0x7 * 2 ^ 44 + l.toNat * 2 ^ 42⟩
  | .barw o => ⟨.ct, 0x8 * 2 ^ 44 + o.toBits⟩
  | .step l => ⟨.ct, 0x9 * 2 ^ 44 + l.toNat * 2 ^ 42⟩
  | .trap imm => ⟨.ct, 0xA * 2 ^ 44 + imm.toNat * 2 ^ 28⟩
  | .xret => ⟨.ct, 0xB * 2 ^ 44⟩
  | .endS => ⟨.ct, 0xC * 2 ^ 44⟩
  | .align d => ⟨.ct, 0xD * 2 ^ 44 + d.toNat * 2 ^ 39⟩
  | .rbmark b imm => ⟨.ct, 0xE * 2 ^ 44 + b.toNat * 2 ^ 39 + imm.toNat⟩
  | .haltdbg => ⟨.ct, 0xF * 2 ^ 44⟩
  | .trig => ⟨.ct, 0xF * 2 ^ 44 + 1 * 2 ^ 40⟩
  | .preemptpt => ⟨.ct, 0xF * 2 ^ 44 + 2 * 2 ^ 40⟩
  | .chkon => ⟨.ct, 0xF * 2 ^ 44 + 3 * 2 ^ 40⟩
  | .chkoff => ⟨.ct, 0xF * 2 ^ 44 + 4 * 2 ^ 40⟩
  | .vadd o => slotItem .vx 40 0x01 o.toBits
  | .vsub o => slotItem .vx 40 0x02 o.toBits
  | .vadds o => slotItem .vx 40 0x03 o.toBits
  | .vaddsu o => slotItem .vx 40 0x04 o.toBits
  | .vsubs o => slotItem .vx 40 0x05 o.toBits
  | .vsubsu o => slotItem .vx 40 0x06 o.toBits
  | .vmul o => slotItem .vx 40 0x07 o.toBits
  | .vmulh o => slotItem .vx 40 0x08 o.toBits
  | .vmulhu o => slotItem .vx 40 0x09 o.toBits
  | .vmulw o => slotItem .vx 40 0x0A o.toBits
  | .vmulwu o => slotItem .vx 40 0x0B o.toBits
  | .vmacw o => slotItem .vx 40 0x0C o.toBits
  | .vmacwu o => slotItem .vx 40 0x0D o.toBits
  | .vand o => slotItem .vx 40 0x0E o.toBits
  | .vor o => slotItem .vx 40 0x0F o.toBits
  | .vxor o => slotItem .vx 40 0x10 o.toBits
  | .vandn o => slotItem .vx 40 0x11 o.toBits
  | .vshl o => slotItem .vx 40 0x12 o.toBits
  | .vshr o => slotItem .vx 40 0x13 o.toBits
  | .vsra o => slotItem .vx 40 0x14 o.toBits
  | .vmin o => slotItem .vx 40 0x15 o.toBits
  | .vmax o => slotItem .vx 40 0x16 o.toBits
  | .vminu o => slotItem .vx 40 0x17 o.toBits
  | .vmaxu o => slotItem .vx 40 0x18 o.toBits
  | .vabs o => slotItem .vx 40 0x19 o.toBits
  | .vavg o => slotItem .vx 40 0x1A o.toBits
  | .vclz o => slotItem .vx 40 0x1B o.toBits
  | .vpopc o => slotItem .vx 40 0x1C o.toBits
  | .vshli o => slotItem .vx 40 0x1D o.toBits
  | .vshri o => slotItem .vx 40 0x1E o.toBits
  | .vsrai o => slotItem .vx 40 0x1F o.toBits
  | .vfadd o => slotItem .vx 40 0x20 o.toBits
  | .vfsub o => slotItem .vx 40 0x21 o.toBits
  | .vfmul o => slotItem .vx 40 0x22 o.toBits
  | .vffma o => slotItem .vx 40 0x23 o.toBits
  | .vfmin o => slotItem .vx 40 0x24 o.toBits
  | .vfmax o => slotItem .vx 40 0x25 o.toBits
  | .vfabs o => slotItem .vx 40 0x26 o.toBits
  | .vfneg o => slotItem .vx 40 0x27 o.toBits
  | .vfrcp o => slotItem .vx 40 0x28 o.toBits
  | .vfrsq o => slotItem .vx 40 0x29 o.toBits
  | .vfrcps o => slotItem .vx 40 0x2A o.toBits
  | .vfrsqs o => slotItem .vx 40 0x2B o.toBits
  | .vfexp2 o => slotItem .vx 40 0x2C o.toBits
  | .vfscale o => slotItem .vx 40 0x2D o.toBits
  | .vceq o => slotItem .vx 40 0x38 o.toBits
  | .vclt o => slotItem .vx 40 0x39 o.toBits
  | .vcltu o => slotItem .vx 40 0x3A o.toBits
  | .vfceq o => slotItem .vx 40 0x3B o.toBits
  | .vfclt o => slotItem .vx 40 0x3C o.toBits
  | .vfcle o => slotItem .vx 40 0x3D o.toBits
  | .vfcun o => slotItem .vx 40 0x3E o.toBits
  | .mand o => slotItem .vx 40 0x40 o.toBits
  | .mor o => slotItem .vx 40 0x41 o.toBits
  | .mxor o => slotItem .vx 40 0x42 o.toBits
  | .mnot o => slotItem .vx 40 0x43 o.toBits
  | .mpop o => slotItem .vx 40 0x44 o.toBits
  | .mbit o => slotItem .vx 40 0x45 o.toBits
  | .mtov o => slotItem .vx 40 0x46 o.toBits
  | .mfirst o => slotItem .vx 40 0x47 o.toBits
  | .vsel o => slotItem .vx 40 0x48 o.toBits
  | .vmov o => slotItem .vx 40 0x49 o.toBits
  | .vsplat o => slotItem .vx 40 0x4A o.toBits
  | .vext o => slotItem .vx 40 0x4B o.toBits
  | .vins o => slotItem .vx 40 0x4C o.toBits
  | .viota o => slotItem .vx 40 0x4D o.toBits
  | .vzero o => slotItem .vx 40 0x4E o.toBits
  | .vcvt o => slotItem .vx 40 0x50 o.toBits
  | .vwiden o => slotItem .vx 40 0x51 o.toBits
  | .vnarrow o => slotItem .vx 40 0x52 o.toBits
  | .vnarrowu o => slotItem .vx 40 0x53 o.toBits
  | .vqmax o => slotItem .vx 40 0x58 o.toBits
  | .vqscale o => slotItem .vx 40 0x59 o.toBits
  | .vqcvt o => slotItem .vx 40 0x5A o.toBits
  | .vdeq o => slotItem .vx 40 0x5B o.toBits
  | .vrsum o => slotItem .vx 40 0x60 o.toBits
  | .vrsumu o => slotItem .vx 40 0x61 o.toBits
  | .vrmax o => slotItem .vx 40 0x62 o.toBits
  | .vrmin o => slotItem .vx 40 0x63 o.toBits
  | .vfrsum o => slotItem .vx 40 0x64 o.toBits
  | .vfrmax o => slotItem .vx 40 0x65 o.toBits
  | .vfrmin o => slotItem .vx 40 0x66 o.toBits
  | .vshuf o => slotItem .vx 40 0x68 o.toBits
  | .vrot o => slotItem .vx 40 0x69 o.toBits
  | .vzip o => slotItem .vx 40 0x6A o.toBits
  | .vunzip o => slotItem .vx 40 0x6B o.toBits
  | .vrev o => slotItem .vx 40 0x6C o.toBits
  | .vshrink o => slotItem .vx 40 0x70 o.toBits
  | .msq o => slotItem .mx 27 0x01 o.toBits
  | .msqTa o => slotItem .mx 27 0x02 o.toBits
  | .msqTb o => slotItem .mx 27 0x03 o.toBits
  | .msqTab o => slotItem .mx 27 0x04 o.toBits
  | .msqIndexed o => ⟨.mx, (o.form.toNat + 1) * 2 ^ 27 + 2 ^ 20 + o.toBits⟩
  | .mzero b => ⟨.mx, 0x05 * 2 ^ 27 + b.toNat * 2⟩
  | .mdrain o => slotItem .mx 27 0x06 o.toBits
  | .mdrainm o => slotItem .mx 27 0x07 o.toBits
  | .mclaim s => ⟨.mx, 0x08 * 2 ^ 27 + s.toNat * 2 ^ 24⟩
  | .mrel s => ⟨.mx, 0x09 * 2 ^ 27 + s.toNat * 2 ^ 24⟩
  | .mscl o => slotItem .mx 27 0x0A o.toBits
  | .mstat o => slotItem .mx 27 0x0B o.toBits
  | .vld o => slotItem .cp 41 0x01 o.toBits
  | .vst o => slotItem .cp 41 0x02 o.toBits
  | .vldx o => slotItem .cp 41 0x03 o.toBits
  | .vstx o => slotItem .cp 41 0x04 o.toBits
  | .vldb o => slotItem .cp 41 0x05 o.toBits
  | .aadd o => slotItem .cp 41 0x08 o.toBits
  | .amax o => slotItem .cp 41 0x09 o.toBits
  | .amin o => slotItem .cp 41 0x0A o.toBits
  | .axch o => slotItem .cp 41 0x0B o.toBits
  | .acas o => slotItem .cp 41 0x0C o.toBits
  | .send o => slotItem .cp 41 0x10 o.toBits
  | .sends o => slotItem .cp 41 0x11 o.toBits
  | .sendm o => slotItem .cp 41 0x15 o.toBits
  | .recv o => slotItem .cp 41 0x12 o.toBits
  | .recvs o => slotItem .cp 41 0x13 o.toBits
  | .recvm o => slotItem .cp 41 0x14 o.toBits
  | .cpy o => slotItem .cp 41 0x18 o.toBits
  | .cpym o => slotItem .cp 41 0x19 o.toBits
  | .cpyg o => slotItem .cp 41 0x1A o.toBits
  | .cpyw o => slotItem .cp 41 0x1B o.toBits
  | .fence o => slotItem .cp 41 0x20 o.toBits
  | .pmode o => slotItem .cp 41 0x24 o.toBits
  | .svsave o => slotItem .cp 41 0x28 o.toBits
  | .svload o => slotItem .cp 41 0x29 o.toBits
  | .svmsg o => slotItem .cp 41 0x2A o.toBits
  | .discardedPacket => eventRow 323
  | .counterDrift => eventRow 324
  | .poolSramUpset => eventRow 325
  | .preemptSaveFailure => eventRow 326
  | .clockGroupNChange => eventRow 327

end Sys2Proof
end

