-- ==== Sys2Proof/Machine/TileState.lean ====
section
/-! DEFINITION. The state of one tile: its register files, pool, operand memory, engines, sequencer, router and logs.

Times are cycles of the wafer; a tile's own counter GCY is the cycle plus the tile's offset (R47, R50). -/

namespace Sys2Proof.Machine

/-- A register write in flight: the bits in `mask` of register `idx` take `val` at cycle `avail` (R162, R184). `iss` and `slot` name the word and slot that issued it. -/
structure PendWrite (w : Nat) where
  idx : Nat
  iss : Nat
  slot : Nat
  avail : Nat
  mask : BitVec w
  val : BitVec w
  deriving DecidableEq, Repr

/-- A register file: the settled values, and the writes in flight in issue order. -/
structure RegFile (w : Nat) where
  base : List (BitVec w)
  pend : List (PendWrite w)
  deriving DecidableEq, Repr

/-- A flit: its 512 data bits and its POISON sideband bit; a flit that exists has VALID = 1 (R34, R35). -/
structure Flit where
  data : BitVec 512
  poison : Bool
  deriving DecidableEq, Repr

/-- A buffer record, decoded (R176). -/
structure BufRec where
  space : Nat
  fmt : Nat
  bmode : Nat
  ocls : Nat
  base : Nat
  oext : Nat
  iext : Nat
  ostep : Int
  istep : Int
  deriving DecidableEq, Repr

/-- A sequencer record, decoded; `levels` innermost first: iterations, source step, destination step (R179). -/
structure SeqRec where
  srec : Nat
  drec : Nat
  mrec : Nat
  rnd : Nat
  ssrc : Nat
  sconst : Nat
  levels : List (Nat × Int × Int)
  deriving DecidableEq, Repr

/-- A format-table entry, decoded (R203). -/
structure FmtEntry where
  afmt : Nat
  bfmt : Nat
  asrc : Nat
  bsrc : Nat
  ofmt : Nat
  ornd : Nat
  pint : Nat
  v : Bool
  deriving DecidableEq, Repr

/-- One element to be written: bit address, width, pattern, and the flags that its writing sets. -/
structure WrElem where
  ba : Nat
  w : Nat
  val : Nat
  fl : Flags
  deriving DecidableEq, Repr

/-- Where an access's flags go when it performs: FPST, or the matrix engine's sticky status (R206, R181). -/
inductive FlagSink where
  | fpst | mst
  deriving DecidableEq, Repr

/-- The writes of one instruction or engine on one cycle. -/
structure WReq where
  /-- rank of R218 -/
  rank : Nat
  iss : Nat
  slot : Nat
  /-- pool, or operand memory -/
  pool : Bool
  /-- elements in ascending order: the highest prevails (R217) -/
  els : List WrElem
  /-- a run of whole bytes, for the matrix engine's blocks -/
  run : Option (Nat × List Byte)
  sink : FlagSink
  /-- causes to raise when it performs: code, XVA, SUB -/
  pre : List (Nat × Nat × Nat)
  deriving DecidableEq, Repr

/-- A promotion on its way to its block: the raw operands of its interval by K-step, and its scales (R200, R201). -/
structure Promo where
  ent : FmtEntry
  blk : Nat
  /-- start from +0.0 -/
  fresh : Bool
  a : List (List Nat)
  b : List (List Nat)
  sa : List Nat
  sb : List Nat
  deriving DecidableEq, Repr

/-- A claim of one beat by a receiving form (R376, R377). -/
inductive ClaimKind where
  /-- RECV: the half `beat` of register beats of V register `v` -/
  | toV (v beat : Nat)
  /-- RECVS: flit word `word` into scalar `d` -/
  | toS (d word : Nat)
  /-- RECVM: elements of a format at these addresses -/
  | toM (f : Nat) (els : List (Nat × Option Nat))
  deriving DecidableEq, Repr

/-- What a micro-action of a tile does when its cycle comes. -/
inductive ActKind where
  /-- SA load: scalar, byte address, size, sign extension (R305) -/
  | loadS (d addr size : Nat) (sgn : Bool)
  /-- CP load of one beat: element positions and bit addresses; none loads zero (R369) -/
  | loadV (v beat w : Nat) (els : List (Nat × Option Nat))
  /-- atomic: opcode, FP32 or INT32, byte address, operand, compare value, scalar (R371) -/
  | atomic (op : Nat) (fp : Bool) (addr : Nat) (v cmp : BitVec 32) (d : Nat)
  /-- writes (phase 6) -/
  | write (r : WReq)
  /-- SENDM's read of one beat (R374); it leaves by no port when the Local input is taken -/
  | sendm (port : Option Nat) (w : Nat) (els : List (Nat × Option Nat))
  /-- a claim on the landing register (R44) -/
  | claim (k : ClaimKind) (pos : Nat)
  /-- read of the next beat of a copy (R181) -/
  | copyBeat (ch : Nat)
  /-- an operand read of the MSQ in the engine (R354) -/
  | msqBeat
  /-- a promotion (R201) -/
  | promote (p : Promo)
  /-- row `i` of a drain: block, record and its number, u, v, masks (R358) -/
  | drainRow (blk i : Nat) (rec : BufRec × Nat) (u v : Int) (mr mc : Option (BitVec 1024)) (zm : Bool) (ofmt ornd : Nat)
  /-- the plane flip of STEP (R224) -/
  | flip (lvl : Nat)
  /-- MSTAT's read of the sticky status (R362) -/
  | mstat (d : Nat) (clr : Bool)
  /-- RDSP's read of FPST (R164) -/
  | rdFpst (d : Nat)
  /-- SVSAVE's read of FPST (R248) -/
  | svFpst
  /-- a beat of a sending form that finds the Local input taken (R375) -/
  | lost
  /-- the freeze that a word which acted brings: XPC and cause (R389) -/
  | freeze (pc cause : Nat)
  /-- a flit reaches the landing register from a port (R41) -/
  | land (f : Flit) (src : Nat)
  /-- an event of the tile falls due -/
  | event (f : FetchItem)
  deriving DecidableEq, Repr

/-- A micro-action: its cycle and phase, and the word and slot that issued it. -/
structure Act where
  at_ : Nat
  ph : Nat
  iss : Nat
  slot : Nat
  /-- the checker was on for the word (R164) -/
  chk : Bool
  k : ActKind
  deriving DecidableEq, Repr

/-- A copy in a channel (R181). -/
structure CopyJob where
  c : Nat
  s0 : Int
  d0 : Int
  g0 : Int
  gate : Bool
  cvt : Bool
  xpose : Bool
  scale : Bool
  factor : Nat
  src : BufRec
  dst : BufRec
  msk : BufRec
  sr : SeqRec
  /-- beats in all, and the next to be read -/
  n : Nat
  k : Nat
  cls : Nat
  deriving DecidableEq, Repr

/-- The MSQ whose beats are being read (R354). -/
structure MsqJob where
  c : Nat
  slot : Nat
  sa : Nat
  sb : Nat
  /-- row port for A, for B (R351) -/
  ta : Bool
  tb : Bool
  ent : FmtEntry
  b : Nat
  blk : Nat
  acc : Bool
  /-- next beat -/
  q : Nat
  /-- the open interval's raw operands, oldest K-step first -/
  a : List (List Nat)
  bb : List (List Nat)
  first : Bool
  deriving DecidableEq, Repr

/-- An imprecise cause waiting to be taken (R244). -/
structure PendCause where
  cause : Nat
  raise : Nat
  xva : Nat
  sub : Nat
  src : Nat
  /-- it stayed pending at trap level 1 or 2 -/
  dfr : Bool
  deriving DecidableEq, Repr

/-- What holds the next word (R307, R315, R317, R321, R385). -/
inductive Hold where
  | none
  /-- WAITC until GCY reads t; with its WAIT the next word issues when GCY reads r -/
  | waitc (t r : Nat)
  /-- BARW: level, issue cycle, maximum, bound, earliest next issue -/
  | barw (lvl c maxw bound next : Nat)
  /-- ALIGN issued at c, with WAIT -/
  | align (d c wait : Nat)
  /-- an SVSAVE or SVLOAD in progress -/
  | service
  /-- a word whose cause freezes the tile on the next cycle has acted (R389) -/
  | freezing
  deriving DecidableEq, Repr

/-- What a tile's core is doing. -/
inductive TMode where
  /-- no launch, or not started -/
  | idle
  /-- issuing words -/
  | run
  /-- drained, waiting for its next start -/
  | between
  /-- its last iteration has ended -/
  | done
  /-- frozen (R252) -/
  | frozen
  /-- stopped at a boundary (R70, R155) -/
  | stopped
  /-- in a debug stop (R267) -/
  | debug
  deriving DecidableEq, Repr

/-- One entry of the deviation log (R262). -/
structure DevEntry where
  pc : Nat
  cause : Nat
  kind : Nat
  rx : Nat
  ry : Nat
  lost : Nat
  cyc : Nat
  deriving DecidableEq, Repr

/-- A record of a trap taken whose return has not been seen: its place in the log, its take cycle (R262). -/
structure OpenTrap where
  slot : Option Nat
  took : Nat
  deriving DecidableEq, Repr

/-- The sequencer of a tile. -/
structure Seq where
  mode : TMode
  pc : Nat
  /-- the cycle at which the word at `pc` issues; none while a hold keeps it -/
  due : Option Nat
  /-- the word at `pc` is a delay slot, with its transfer's target (R307) -/
  xfer : Option Nat
  /-- the word at `pc` follows a LIT (R161) -/
  afterLit : Bool
  hold : Hold
  /-- the word that holds issue, re-issued by a resume at a stop (R255): its address and its delay-slot target -/
  waitPc : Option (Nat × Option Nat)
  /-- a CPYW, a FENCE or a service transfer lets no word issue before this cycle (R232, R378, R385) -/
  minDue : Nat
  /-- and the word that holds it counts as waiting before this one: WAIT cycles are no wait (R156, R232) -/
  waitTo : Nat
  /-- causes 0x06 due where START would issue: START, the loop level, and the trap level (R314) -/
  loopTrap : List (Nat × Nat × Nat)
  /-- the word at this address escapes the watch check at trap level 0 until it acts (R247; log 15, DEDUCED) -/
  noWatch : Option Nat
  /-- the words issued at these cycles escape the watch check, with what they have started (R247) -/
  skipIss : List Nat
  /-- active loop levels, of the four, latest LOOP first (R314) -/
  order : List (Fin 4)
  deriving DecidableEq, Repr

/-- A flit in the landing register (R44): when it landed and by which port. -/
structure Landing where
  flit : Flit
  at_ : Nat
  src : Nat
  deriving DecidableEq, Repr

/-- The slot of a word being executed: what every slot operation needs to know. -/
structure Cur where
  x : Nat
  y : Nat
  /-- issue cycle -/
  c : Nat
  pc : Nat
  wait : Nat
  /-- 0 SA, 1 SB, 2 VX, 3 MX, 4 CP, 5 CT (R243) -/
  slot : Nat
  /-- the word is the delay slot of a taken transfer, with its target -/
  dly : Option Nat
  itb : Bool
  /-- the MX slot's bits, for a CPYM that chains it (R280) -/
  mx : Nat
  /-- the channel on which the word's CP slot starts a copy: its count reads 0 in the whole word (R182) -/
  starts : Option Nat
  /-- some slot of the word raised a cause that was taken though the word acts -/
  trapped : Bool
  deriving DecidableEq, Repr

/-- What a tile hands to the rest of the module, drained by the step that ran the tile. -/
inductive Emit where
  /-- a flit on the Local input at a cycle, leaving by a port (R42) -/
  | inject (at_ port : Nat) (f : Flit)
  /-- BARA at a level (R63) -/
  | arrive (lvl : Nat)
  /-- a STEP strobe (R66) -/
  | strobe (lvl : Nat)
  /-- SYS TRIG (R323) -/
  | trig
  /-- the tile froze, on a cause (R252) -/
  | froze (cause : Nat)
  /-- END issued (R149) -/
  | ended
  /-- a service transfer began: its payloads move in the tile's own slots (R385, R387) -/
  | service
  /-- ALIGN issued: the next exchange is to take place (R52) -/
  | align
  /-- a read met an uncorrectable pool error (R394): the alert's cause -/
  | alert (cause : Nat)
  deriving DecidableEq, Repr

/-- A service transfer in progress (R384): kind 0 save, 1 load, 2 message; issue cycle; the bytes read at issue, or loaded so far. -/
structure Service where
  kind : Nat
  c : Nat
  pc : Nat
  /-- the status scalar, and the WAIT of the word -/
  d : Nat
  wait : Nat
  va : Nat
  bytes : List Byte
  /-- payloads that have moved in the tile's slot, those that Markhor has answered well, and how many there are -/
  moved : Nat
  done : Nat
  total : Nat
  /-- the payload that failed: 1 translation, 2 permission, and its virtual address (R386) -/
  failed : Option (Nat × Nat)
  /-- the launch that it is for, with its context, queue and tag -/
  launch : Nat
  who : Nat × Nat × Nat
  deriving DecidableEq, Repr

/-- A Distaff payload: its sideband and its 256 bits (R55). -/
structure Payload where
  side : BitVec 8
  data : List Byte
  deriving DecidableEq, Repr

/-- A message that Markhor sends into a tile over Distaff (R57, R264): what it writes (0 debug control word, 1 watch filter, 2 trace ring), its bytes, and the payloads that have moved. -/
structure SvcIn where
  kind : Nat
  bytes : List Byte
  moved : Nat
  deriving DecidableEq, Repr

/-- What a kill's fault record says of a frozen tile (R252, R253, R389): cycle of the fault, cause, XPC, XVA, XST. -/
structure FreezeRec where
  at_ : Nat
  cause : Nat
  xpc : Nat
  xva : Nat
  xst : Nat
  deriving DecidableEq, Repr

/-- Working rule of a plane sub-region, and the rule that its next STEP brings (R383). -/
structure RuleCopy where
  rule : Nat
  ety : Bool
  next : Option (Nat × Bool)
  deriving DecidableEq, Repr

/-- The router of a tile: the entry in force and its span, and the loop counter (R38, R39). -/
structure Router where
  /-- a program runs -/
  on : Bool
  entry : Nat
  /-- first and last cycle of the entry in force -/
  from_ : Nat
  upto : Nat
  /-- the loop counter, when a LOOP entry holds it: the holder and the count -/
  loop : Option (Nat × Nat)
  /-- the output that a SEND flit took, and the cycle (R42) -/
  sent : Option (Nat × Nat)
  /-- the region of the launch whose program it runs, or ran last: X0, Y0, W, H (R40) -/
  region : Option (Nat × Nat × Nat × Nat)
  deriving DecidableEq, Repr

/-- An alignment exchange of a tile: its point, the samples' deltas received (R49). -/
structure AlignX where
  /-- the tile's GCY at the point, and its cycle -/
  a : Nat
  at_ : Nat
  /-- delta by direction N, E, S, W -/
  deltas : List (Option Int)
  /-- it is part of the wafer's common exchange: the tile and its neighbours read the reference count at the point -/
  common : Bool
  deriving DecidableEq, Repr

/-- The delta of a sample that arrives before the tile's own point (R49): the neighbour's direction, the tile's GCY at the point that comes, and the delta. -/
structure EarlyDelta where
  side : Nat
  a : Nat
  delta : Int
  deriving DecidableEq, Repr

/-- A confirmed or unconfirmed checkpoint of a tile: bytes 0x0000 to 0x05FF of the save layout (R255). -/
structure TileCkpt where
  launch : Nat
  /-- the boundary, as an offset from TSTART -/
  off : Nat
  bytes : List Byte
  deriving DecidableEq, Repr

/-- One tile. -/
structure Tile where
  /-- the launch it runs -/
  launch : Option Nat
  seq : Seq
  /-- GCY minus the cycle (R47) -/
  gofs : Int
  s : RegFile 32
  p : RegFile 1
  m : RegFile 1024
  q : RegFile 32
  /-- special registers by number (R167); FPST's flags are beside it -/
  sp : RegFile 64
  /-- writes in flight to beat `idx % 4` of vector register `idx / 4`, whose settled bytes are in the pool -/
  vp : List (PendWrite 1024)
  /-- flags in flight and set: cycle, flags (R167) -/
  fp : List (Nat × Flags)
  /-- RDCYC's latch; none before the first RDCYC of a launch (R304) -/
  cycLatch : Option (BitVec 32)
  /-- vector allotment, and the one that VSHRINK brings from a cycle (R170, R347) -/
  allot : Nat
  shrink : Option (Nat × Nat)
  pool : Mem
  opm : Mem
  /-- the two configuration planes (R135) and which is active -/
  cfg0 : Mem
  cfg1 : Mem
  second : Bool
  /-- plane words whose selector, whose written bit is set (R223) -/
  sel : List Nat
  wrt : List Nat
  rules : List RuleCopy
  /-- operand slots: changes of state, latest first, as (perform cycle, claimed) (R175) -/
  claims : List (List (Nat × Bool))
  acts : List Act
  copies : List (Option CopyJob)
  /-- chained commands still to issue: cycle, channel, MX slot (R183) -/
  chains : List (Nat × Nat × Nat)
  msq : Option MsqJob
  /-- first cycle at which the matrix, the vector engine is free (R165) -/
  mxFree : Nat
  vxFree : Nat
  /-- operand slots that the MSQ in flight reads, and its last read cycle (R350) -/
  mxSlots : List Nat
  mxReadTo : Nat
  /-- drain tags by block (R355) -/
  tags : List (Nat × Nat)
  /-- scale entries written: 512 * bank + 16 * lane + kb (R198) -/
  scl : List (Nat × Nat)
  /-- which undefined scale file this is (R198) -/
  sclGen : Nat
  mst : Flags
  /-- latest perform cycle of each ordering class: of any access, of a write (R230) -/
  clsAny : List Nat
  clsWr : List Nat
  pendc : List PendCause
  mult : Bool
  svc : Option Service
  /-- TSTART register, x − X0 and y − Y0 of the launch that holds the tile, for its log (R262); the GCY of its next start (R148) -/
  base : Nat
  rx : Nat
  ry : Nat
  startG : Option Nat
  /-- arrival wires and release latches of channels 1 to 3 (R63, R316) -/
  arr : List Bool
  latch : List Bool
  /-- pool words that hold an uncorrectable error (R394), by byte address of the cell -/
  upsets : List Nat
  /-- the freeze, for the fault record of the kill -/
  frz : Option FreezeRec
  landing : Option Landing
  /-- cycles at which the Local input is taken (R375) -/
  localIn : List Nat
  router : Router
  align : Option AlignX
  /-- deltas of samples that have come before the tile's own point (R49; log 11, DEDUCED) -/
  earlyDeltas : List EarlyDelta
  /-- marked for reload at the next exchange (R50), or by a field controller (R51) -/
  reload : Bool
  reloadSet : Bool
  /-- the alignment status word (R53) -/
  astat : Nat
  log : List DevEntry
  /-- entries and cycles lost in all, stored or not (R262) -/
  logCount : Nat
  logLost : Nat
  /-- traps not yet returned from, by level 1, 2 -/
  openTraps : List (Option OpenTrap)
  /-- traps returned from, by the level returned to, until the word at XPC issues (R262) -/
  returned : List (Nat × OpenTrap)
  /-- iteration n in progress or due next (R148); none when none remains -/
  iter : Option Nat
  /-- further iterations of the tile after that one -/
  iterLeft : Nat
  /-- END has issued and its drain point has not come; it was the final END -/
  draining : Bool
  finalEnd : Bool
  /-- final drain point (R149) -/
  drainedAt : Option Nat
  ckpts : List TileCkpt
  /-- debug unit (R264): control word, filter, trace ring newest last, ring held, capture end -/
  dbg : BitVec 32
  filt : BitVec 4096
  ring : List (List Byte)
  captureTo : Option Nat
  /-- the stop requests that have not landed, each by its first cycle; stop records (R267) -/
  stopReq : List Nat
  stopRec : List (List Byte)
  /-- the cycle of the debug stop in progress, and its place in the log (R267) -/
  stopAt : Option Nat
  stopSlot : Option Nat
  /-- the launch whose load writes the shadow plane (R137); payloads of its own slot, and of the field's broadcast slots, already written by the load in progress (R138); payloads of a save already moved (R157) -/
  fill : Option Nat
  loaded : Nat
  loadedB : Nat
  saved : Nat
  /-- payloads of a save area that a launch to be resumed has had restored here (R158) -/
  restd : Nat
  /-- the control-word table of that save area, so far as it has come in (R157, R158; log 19) -/
  tbl : List Byte
  /-- messages from Markhor still to come in, and the payloads that last moved upstream and downstream, with their cycles (R55 to R58) -/
  svcIn : List SvcIn
  upAt : Option (Nat × Payload)
  downAt : Option (Nat × Payload)
  /-- context opening whose launch ran last; none since power-up (R146) -/
  lastCtx : Option Nat
  /-- the cycle from which a next launch may use the tile (R142), when it is known -/
  freeAt : Option Nat
  /-- the model's own count of free values (log 7, DESIGN CHOICE) -/
  fv : Nat
  out : List Emit
  deriving DecidableEq, Repr

end Sys2Proof.Machine
end

