-- ==== Sys2Proof/Machine/ModuleState.lean ====
section
/-! DEFINITION. The state of the module outside its tiles: Markhor, the dispatch unit with its contexts, queues and launches, the host ports and sessions, the staging engines, the bridges, the Ply tree and the Roving line. -/

namespace Sys2Proof.Machine

/-- The module's state (R27). -/
inductive ModState where
  | reset | recovery | serviceOnly | ready | thermalHalt
  deriving DecidableEq, Repr

/-- A firmware stage in nonvolatile storage: its image and its signature (R24). -/
structure FwImage where
  image : List Byte
  sig : List Byte
  deriving DecidableEq, Repr

/-- The defect map in nonvolatile storage: bytes 0x0000 to 0x2B1F, and its signature (R19, R23). -/
structure DefectMap where
  bytes : List Byte
  sig : List Byte
  deriving DecidableEq, Repr

/-- One entry of the in-service remap list (R22). -/
structure RemapEntry where
  fx : Nat
  fy : Nat
  prow : Nat
  col : Nat
  deriving DecidableEq, Repr

/-- What Markhor is told, or sends over the management port. -/
inductive MgmtMsg where
  /-- an attestation: measurement registers, serial number, nonce, signature, certificate chain (R10, R27, R125) -/
  | attest (bytes : List Byte)
  /-- a newly failed tile that no spare replaces (R26) -/
  | failed (e : RemapEntry)
  /-- a marking or a group reload, cause 0xA1: logical x and y, and the delta (R50, R51) -/
  | drift (x y : Nat) (delta : Int)
  deriving DecidableEq, Repr

/-- A host port (R94): its addresses and the counters that QUERY reports (R124). -/
structure HostPort where
  mac : Nat
  ip4 : Nat
  ip6 : Nat
  packets : Nat
  discards : Nat
  retrans : Nat
  deriving DecidableEq, Repr

/-- What a port sends. -/
inductive TxKind where
  /-- a Chital packet of a TYPE (R96) -/
  | chital (typ : Nat)
  /-- the answer to ARP, Neighbor Discovery, ICMP echo (R94) -/
  | arp | nd | echo
  /-- a bridge message to a peer's module and port (R131) -/
  | bridge (peer peerPort msg : Nat)
  deriving DecidableEq, Repr

/-- A packet that the device has sent: on which port, what, from which address and UDP port to which, its 802.1Q tag and UDP checksum (R94), and for a Chital packet its fields and its header (R95). -/
structure TxPkt where
  port : Nat
  kind : TxKind
  src : Nat
  sport : Nat
  addr : Nat
  udp : Nat
  vlan : Option Nat
  sum : Nat
  head : List Byte
  sid : Nat
  seq : Nat
  ack : Nat
  sack : Nat
  first : Bool
  last : Bool
  bytes : List Byte
  deriving DecidableEq, Repr

/-- A DATA packet held or outstanding (R98): its SEQ, FIRST and LAST, payload, and retransmissions so far. -/
structure DataPkt where
  seq : Nat
  first : Bool
  last : Bool
  bytes : List Byte
  retries : Nat
  deriving DecidableEq, Repr

/-- A Chital session (R97 to R99). -/
structure Session where
  sid : Nat
  /-- the port, addresses and UDP port of its OPEN (R97) -/
  port : Nat
  own : Nat
  addr : Nat
  udp : Nat
  vlan : Option Nat
  admin : Bool
  /-- next SEQ expected, packets held beyond it, DATA packets not yet acknowledged -/
  rxNext : Nat
  held : List DataPkt
  unacked : Nat
  /-- the open message, and a message being discarded up to its LAST -/
  msg : Option (List Byte)
  skip : Bool
  /-- next SEQ to send, packets outstanding, packets that wait for the window -/
  txNext : Nat
  out : List DataPkt
  wait : List DataPkt
  /-- subscriptions: CTX and MASK (R126) -/
  subs : List (Nat × Nat)
  deriving DecidableEq, Repr

/-- A command that has been received (R100). `resume` names a pre-empted launch that is back in its queue (R120). -/
structure Cmd where
  sess : Nat
  ctx : Nat
  queue : Nat
  kind : Nat
  tag : Nat
  deps : List Nat
  body : List Byte
  resume : Option Nat
  deriving DecidableEq, Repr

/-- A registered image (R123). -/
structure Image where
  id : Nat
  va : Nat
  len : Nat
  deriving DecidableEq, Repr

/-- A graph node record (R102). -/
structure NodeRec where
  img : Nat
  lnr : Nat
  pfirst : Nat
  pcount : Nat
  saidx : Nat
  pred : Nat
  deriving DecidableEq, Repr

/-- A graph (R115). -/
structure Graph where
  gid : Nat
  nodes : List NodeRec
  params : List Nat
  deriving DecidableEq, Repr

/-- How a node of a run stands (R116, R120). -/
inductive NodeState where
  | waiting | running | done | dropped
  /-- pre-empted and ready again, with the launch to resume -/
  | saved (launch : Nat)
  deriving DecidableEq, Repr

/-- A fault record's fields (R110). -/
structure FaultRec where
  x : Nat := 0xFFFF
  y : Nat := 0xFFFF
  engine : Nat := 0xFF
  entry : Nat := 0xFFFFFFFF
  xpc : Nat := 0
  xva : Nat := 0
  xst : Nat := 0
  deriving DecidableEq, Repr

/-- How a run ends once its running nodes have ended (R116, R118): status, cause, W0, W1, fault record. -/
structure Fate where
  status : Nat
  cause : Nat
  w0 : Nat
  w1 : Nat
  r : FaultRec
  deriving DecidableEq, Repr

/-- A launch that has ended and waits for the last of its service messages before its final notification (R112): its command, its run and node, and how it ends. -/
structure Ending where
  launch : Nat
  cmd : Cmd
  node : Option (Nat × Nat)
  fate : Fate
  deriving DecidableEq, Repr

/-- A graph run in flight (R116): its command, its snapshot, its nodes' states. -/
structure Run where
  id : Nat
  cmd : Cmd
  graph : Graph
  level : Nat
  nodes : List NodeState
  fate : Option Fate
  /-- TSTART of its first launch, latest final commit -/
  w0 : Option Nat
  w1 : Nat
  deriving DecidableEq, Repr

/-- A context (R105, R106). -/
structure Context where
  /-- which opening of the module this is; 0 when closed -/
  opening : Nat
  owner : Nat
  ptBase : Nat
  ptCount : Nat
  level : Nat
  queues : List (List Cmd)
  images : List Image
  graphs : List Graph
  /-- final statuses of the latest completed tags, latest first (R104) -/
  kept : List (Nat × Nat)
  /-- its CLOSE_CONTEXT, until the last command has ended (R121); a lost session closes it with no command -/
  closing : Bool
  closeCmd : Option Cmd
  deriving DecidableEq, Repr

/-- A loop-nest record, decoded (R132). -/
structure Lnr where
  img : Nat
  x0 : Nat
  y0 : Nat
  w : Nat
  h : Nat
  cnt : List Nat
  ndim : Nat
  order : Nat
  preload : Nat
  period : Nat
  param : Nat
  dom : Nat
  seed : Nat
  rbsp : Nat
  pper : Nat
  entry : Nat
  cset : Nat
  level : Nat
  psave : Nat
  deriving DecidableEq, Repr

/-- A read entry of a staging script (R79). -/
structure ReadEnt where
  va : Nat
  t0 : Nat
  n : Nat
  iv : Nat
  slot : Nat
  link : Nat
  ofs : Nat
  reuse : Bool
  deriving DecidableEq, Repr

/-- A write entry of a staging script (R80). -/
structure WriteEnt where
  va : Nat
  l0 : Nat
  n : Nat
  iv : Nat
  link : Nat
  deriving DecidableEq, Repr

/-- An entry of a bridge script (R129). -/
structure BridgeEnt where
  send : Bool
  link : Nat
  n : Nat
  t0 : Nat
  iv : Nat
  msg : Nat
  peer : Nat
  peerPort : Nat
  sent : Nat
  slack : Nat
  deriving DecidableEq, Repr

/-- A script that a launch uses: units 0 to 47 are logical engines, 48 + p is bridge port p. Pins are virtual base, length, physical base (R89). -/
structure Script where
  unit : Nat
  lead : Nat
  reads : List ReadEnt
  writes : List WriteEnt
  ents : List BridgeEnt
  pins : List (Nat × Nat × Nat)
  /-- P(e) -/
  ready : Option Nat
  deriving DecidableEq, Repr

/-- What stops a launch. -/
inductive StopKind where
  /-- a hardware error or thermal event, with its cause and STAMP (R70, R256) -/
  | halt (cause stamp : Nat)
  /-- CANCEL, CLOSE_CONTEXT (R119) -/
  | kill
  /-- a context kill, with its fault record and the cycle of the fault (R253) -/
  | ctxKill (r : FaultRec) (at_ : Nat)
  /-- PREEMPT (R155) -/
  | preempt
  deriving DecidableEq, Repr

/-- A stop that is pending or has come: the cycle from which boundaries count, the stop cycle (none while only a final boundary can be it), and its kind. -/
structure Stop where
  frm : Nat
  b : Option Nat
  kind : StopKind
  deriving DecidableEq, Repr

/-- The last stop of a launch that may run again: its cycle, the cause of a halt (0 for a pre-emption), and the stop as an offset from TSTART (R119, R258, R395). -/
structure Stopped where
  b : Nat
  cause : Nat
  off : Nat
  deriving DecidableEq, Repr

/-- Where a launch stands. -/
inductive LPhase where
  /-- dispatched, before TSTART or before its resume is fixed -/
  | staged
  /-- TSTART or Rs is fixed and not yet reached -/
  | fixed
  | running
  /-- stopped by a halt, until the self-test (R256) -/
  | halted
  /-- killed: its stop has come, the commit of b has not ended (R119) -/
  | killed
  /-- stopped by a PREEMPT: its save runs (R156) -/
  | saving
  /-- saved, back in its queue (R120) -/
  | saved
  /-- retired, its final commit in progress (R151) -/
  | retired
  deriving DecidableEq, Repr

/-- A launch from its dispatch to its end. -/
structure Launch where
  id : Nat
  cmd : Cmd
  /-- the run and node it is dispatched for -/
  node : Option (Nat × Nat)
  opening : Nat
  image : Nat
  lnrIdx : Nat
  lnr : Lnr
  level : Nat
  params : List Byte
  startAt : Nat
  scripts : List Script
  d : Nat
  lf : Option Nat
  /-- the first TSTART, the TSTART register, the start of the current run (R70) -/
  tstart0 : Option Nat
  tstart : Nat
  runStart : Nat
  phase : LPhase
  stop : Option Stop
  /-- a kill whose own boundary lies after that of the halt in `stop`: it governs when the final boundary comes first (R254) -/
  behind : Option Stop
  /-- the stop that awaits its resume; a PREEMPT to be placed again after a replay (R159) -/
  stopped : Option Stopped
  preemptAgain : Bool
  /-- intervals that close at or after this boundary are discarded (R88) -/
  discardFrom : Option Nat
  /-- final boundary (R151) -/
  retire : Option Nat
  /-- the last confirmed checkpoint, as an offset from TSTART, the one it last resumed from, and halts since (R255, R258, R260) -/
  ckpt : Nat
  resumedFrom : Nat
  halts : Nat
  /-- offset o of the resume in preparation (R399) -/
  resume : Option Nat
  /-- launch-level log (R263) -/
  log : List DevEntry
  logCount : Nat
  logLost : Nat
  deriving DecidableEq, Repr

/-- A host DRAM command in progress (R122): its flits by stack; a write's flits not yet performed; a read's flits not yet read, by place, and those read; the first cycle on which a flit may be performed, and the cycle by which the first one is known to have been. -/
structure HostJob where
  cmd : Cmd
  write : Bool
  d : Nat
  load : List (Nat × Nat)
  pend : List (Nat × Nat × List Byte)
  got : List (Nat × List Byte)
  lo : Option Nat
  hi : Option Nat
  deriving DecidableEq, Repr

/-- A LOAD_IMAGE in progress (R123): the bytes that it read at its dispatch, as a memory from 0. -/
structure LoadJob where
  cmd : Cmd
  bytes : Mem
  deriving DecidableEq, Repr

/-- A PREEMPT in progress (R120): its command, the launches not yet saved, the latest save's completion; whether any save was made. -/
structure PreemptJob where
  cmd : Cmd
  left : List Nat
  w1 : Nat
  saved : Bool
  deriving DecidableEq, Repr

/-- A position of a window slot (R84). -/
structure WinCell where
  slot : Nat
  pos : Nat
  launch : Nat
  data : BitVec 512
  /-- an uncorrectable error (R91) -/
  bad : Bool
  deriving DecidableEq, Repr

/-- A flit in a commit bank (R87). -/
structure Landed where
  launch : Nat
  at_ : Nat
  pa : Nat
  data : BitVec 512
  deriving DecidableEq, Repr

/-- A staging engine (R71 to R92). -/
structure Engine where
  win : List WinCell
  bank : List Landed
  /-- tainted landings: launch, landing cycle -/
  taints : List (Nat × Nat)
  /-- STAMPs of the ALERT and THERMAL messages received (R88) -/
  stamps : List Nat
  /-- flits on its edge links on this cycle: link, cycle, flit -/
  edge : List (Nat × Nat × Flit)
  /-- cycles of the host share that completed host accesses have taken: first cycle and count (R93) -/
  share : List (Nat × Nat)
  deriving DecidableEq, Repr

/-- A flit that a fetch is reading (R85, R236): its launch, unit, entry and number, its window position, the cycle it is due in the window, its address, and what it has read. -/
structure PendRead where
  launch : Nat
  unit : Nat
  entry : Nat
  k : Nat
  slot : Nat
  pos : Nat
  due : Nat
  pa : Nat
  got : Option (List Byte)
  deriving DecidableEq, Repr

/-- An upstream payload on its way to Markhor (R56, R57): its tile, the cycle it gets there, and what it belongs to: a pre-emption save of launch `own`, or the service transfer that issued at cycle `own`; its number; how Markhor's check failed (1 translation, 2 permission); the whole message that an SVMSG's last payload completes. -/
structure UpMsg where
  x : Nat
  y : Nat
  at_ : Nat
  p : Payload
  pre : Bool
  own : Nat
  k : Nat
  bad : Nat
  msg : Option Service
  deriving DecidableEq, Repr

/-- A commit that is being written to DRAM: the launch, its boundary, the flits not yet performed (R88, R236). -/
structure CommitJob where
  launch : Nat
  bound : Nat
  pend : List (Nat × BitVec 512)
  deriving DecidableEq, Repr

/-- A scale-out port's bridge (R127 to R131). -/
structure Bridge where
  /-- complete messages, latest first: MSG, bytes -/
  msgs : List (Nat × List Byte)
  /-- flits landed for a send entry: launch, entry, flit number, data -/
  landed : List (Nat × Nat × Nat × BitVec 512)
  /-- what a receive entry injects: launch, entry, bytes, POISON -/
  inject : List (Nat × Nat × List Byte × Bool)
  deriving DecidableEq, Repr

/-- A member of a segment: its tile, its launch, whether excused, its arrival event for the barrier in progress, whether its final END set the wire, its STEP strobes by count. -/
structure Member where
  x : Nat
  y : Nat
  launch : Nat
  exc : Bool
  arrived : Option Nat
  ended : Bool
  strobes : List Nat
  deriving DecidableEq, Repr

/-- A segment: the records of the field, group and root nodes that it needs follow from its members (R59 to R62, R153). -/
structure Segment where
  lvl : Nat
  gid : Nat
  opening : Nat
  members : List Member
  deriving DecidableEq, Repr

/-- A Roving-line message (R67). -/
structure RovMsg where
  stamp : Nat
  kind : Nat
  cause : Nat
  ox : Nat
  oy : Nat
  deriving DecidableEq, Repr

/-- A message that waits for its field's injection cycle (R69): field, order within the cycle, message. -/
structure RovPend where
  fx : Nat
  fy : Nat
  slot : Nat
  msg : RovMsg
  deriving DecidableEq, Repr

/-- A notification waiting for the end of its cycle (R112): header, body, sessions. -/
structure Note where
  event : Nat
  ctx : Nat
  queue : Nat
  dests : List Nat
  bytes : List Byte
  deriving DecidableEq, Repr

/-- A halt in progress (R256): the ALERT's STAMP, the cause, the unit (0 tile, 1 engine, 2 field controller, ring or field node, 3 none, 4 group node, 5 root node), its place, and the physical column of a tile as it was bound at the error. -/
structure HaltRec where
  stamp : Nat
  cause : Nat
  unitKind : Nat
  a : Nat
  b : Nat
  px : Nat
  /-- its message has reached a field, and the launches' stops are chosen -/
  heard : Bool
  deriving DecidableEq, Repr

/-- An event with the cycle and phase at which it falls due. -/
structure Due where
  at_ : Nat
  ph : Nat
  item : FetchItem
  deriving DecidableEq, Repr

end Sys2Proof.Machine
end

