-- ==== Sys2Proof/Machine/State.lean ====
section
/-! DEFINITION. The state of the machine, the ways a step can stop, and the state right after reset. -/

namespace Sys2Proof.Machine

/-- Why a step stops with a fault. -/
inductive Fault where
  /-- The fetched item decodes to no instruction: the loader rejects such bits with this cause and no tile ever sees them (R282). Raised by the fetch. Safe. -/
  | rejected (cause : Nat)
  deriving DecidableEq, Repr

/-- Why a step has no meaning. -/
inductive Refusal where
  /-- The instruction has no meaning yet. Raised by dispatch to it. Safe. -/
  | notModelled (mnemonic : String)
  deriving DecidableEq, Repr

/-- The machine. Cycles are counted on the common reference of the wafer's counters; START makes them equal to GCY (R48). -/
structure State where
  /-- items fetched and not yet executed, the operands of the item in execution, and the word it belongs to (the model's own: logs 3, 4) -/
  fetch : List FetchItem
  arg : Arg
  cur : Cur
  /-- the current cycle, and what falls due later (the model's own: log 4, DESIGN CHOICE) -/
  now : Nat
  agenda : List Due
  /-- tiles by 256 * y + x; a tile not listed is as power-up leaves it -/
  tiles : List (Nat × Tile)
  /-- module state (R27), and what Markhor awaits: the wafer test, a full self-test -/
  mode : ModState
  testing : Bool
  fullTest : Bool
  /-- fused keys: the Vexzil manufacturing public key, and the module's own private device key (R19, R22, R25) -/
  vexKey : EcKey
  devKey : Nat
  /-- nonvolatile storage: boot ROM image, firmware stages 1 to 5, defect map, remap list and its signature (R19, R22, R24) -/
  rom : List Byte
  fw : List FwImage
  map : Option DefectMap
  remap : List RemapEntry
  remapSig : List Byte
  /-- MEAS0 to MEAS7 (R25) -/
  meas : List (List Byte)
  /-- the candidate map exported last (R28) -/
  exported : List Byte
  /-- what Markhor has been told, and has sent over the management port, in order (R10, R26, R27, R50) -/
  mgmt : List MgmtMsg
  /-- clock divider n, the cycle of its last change, the change to come, the last reading over a limit (R31) -/
  n : Nat
  nAt : Nat
  nNext : Option (Nat × Nat)
  overAt : Nat
  /-- the change that the alignment point in progress has taken up, in force when its exchange is complete (R53) -/
  nDue : Option Nat
  /-- clock group, its members, last offset in ns and steering in ppm (R128) -/
  group : Nat
  groupMembers : List Nat
  ptpOffset : Int
  ptpPpm : Int
  /-- host ports, the ADMIN allow-list, what the ports have sent, sessions (R94 to R99) -/
  ports : List HostPort
  allow : List Nat
  tx : List TxPkt
  sessions : List Session
  nextSid : Nat
  /-- notifications of the current cycle (R112) -/
  outbox : List Note
  /-- contexts, how many have been opened, the pointer of each priority (R105 to R107) -/
  contexts : List Context
  openings : Nat
  pointers : List Nat
  /-- runs, launches, and the next number of each; the node that DISPATCH has picked -/
  runs : List Run
  launches : List Launch
  nextId : Nat
  picked : Option (Nat × Nat)
  /-- launches that have ended but for their final notifications (R112) -/
  ending : List Ending
  /-- cycle of the last dispatch decision (R107) -/
  decidedAt : Option Nat
  /-- host DRAM commands, image loads and pre-emptions in progress (R120, R122, R123) -/
  jobs : List HostJob
  loads : List LoadJob
  preempts : List PreemptJob
  /-- halts in progress, oldest first; no dispatch until the resume; none any more (R256, R257) -/
  halts : List HaltRec
  halted : Bool
  noDispatch : Bool
  /-- staging engines by physical number, fetches and commits in progress, bridges by port (R71 to R93, R127 to R131) -/
  engines : List Engine
  reads : List PendRead
  commits : List CommitJob
  /-- launches that have ended with an interval still to be decided (R88) -/
  gone : List Launch
  bridges : List Bridge
  /-- upstream payloads between the tiles and Markhor, in the order in which they left (R56) -/
  up : List UpMsg
  /-- segments (R59 to R66) -/
  segs : List Segment
  /-- Roving-line messages not yet injected (R69) -/
  roving : List RovPend
  /-- DRAM by physical address (R73) -/
  dram : Mem
  /-- the model's own count of free values (logs 8, 10) -/
  fv : Nat
  deriving DecidableEq, Repr

/-! Reset. -/

/-- A register file of `k` zeros. -/
def RegFile.zero (w k : Nat) : RegFile w := { base := List.replicate k 0, pend := [] }

/-- The sequencer of a tile that has run nothing. -/
def Seq.idle : Seq :=
  { mode := .idle, pc := 0, due := none, xfer := none, afterLit := false, hold := .none, waitPc := none, minDue := 0, waitTo := 0, loopTrap := []
    noWatch := none, skipIss := [], order := [] }

/-- A router that carries nothing (R39). -/
def Router.off : Router := { on := false, entry := 0, from_ := 0, upto := 0, loop := none, sent := none, region := none }

/-- A tile at power-up: the values R148 gives for a first start, memories as an unlisted byte reads, debug words zero (R264), tags invalid (log 1, DESIGN CHOICE). -/
def Tile.powerUp : Tile :=
  { launch := none, seq := Seq.idle, gofs := 0
    s := RegFile.zero 32 32, p := RegFile.zero 1 8, m := RegFile.zero 1024 8, q := RegFile.zero 32 4, sp := RegFile.zero 64 64
    vp := [], fp := [], cycLatch := none, allot := 0, shrink := none, pool := [], opm := [], cfg0 := [], cfg1 := [], second := false
    sel := [], wrt := [], rules := List.replicate 16 ⟨0, false, none⟩, claims := List.replicate 8 [], acts := [], copies := List.replicate 4 none, chains := []
    msq := none, mxFree := 0, vxFree := 0, mxSlots := [], mxReadTo := 0, tags := [], scl := [], sclGen := 0, mst := 0
    clsAny := List.replicate 16 0, clsWr := List.replicate 16 0, pendc := [], mult := false, svc := none, base := 0, rx := 0, ry := 0, startG := none
    arr := List.replicate 3 false, latch := List.replicate 3 false, upsets := [], frz := none
    landing := none, localIn := [], router := Router.off, align := none, earlyDeltas := [], reload := false, reloadSet := false, astat := 0
    log := [], logCount := 0, logLost := 0, openTraps := [none, none], returned := [], iter := none, iterLeft := 0, draining := false, finalEnd := false, drainedAt := none
    ckpts := [], dbg := 0, filt := 0, ring := [], captureTo := none, stopReq := [], stopRec := [], stopAt := none, stopSlot := none
    fill := none, loaded := 0, loadedB := 0, saved := 0, restd := 0, tbl := [], svcIn := [], upAt := none, downAt := none, lastCtx := none, freeAt := some 0, fv := 0, out := [] }

/-- The private key of the factory and of the device at reset: their public key is the curve's base point (log 1, DESIGN CHOICE). -/
def resetKey : Nat := 1
/-- A map with no dead tile and no trim, of SKU 0, signed by the factory (log 1, DESIGN CHOICE). -/
def DefectMap.clean : DefectMap :=
  let b := [0x4F, 0x57, 0x44, 0x4D, 1, 0, 0, 0xFF] ++ List.replicate 16 0 ++ List.replicate 2304 0x1F ++ List.replicate 8712 0
  { bytes := b, sig := ecSign resetKey 1 b }
/-- A firmware stage with no code, signed by the factory (log 1, DESIGN CHOICE). -/
def FwImage.empty : FwImage := { image := [], sig := ecSign resetKey 1 [] }

def Cur.none : Cur :=
  { x := 0, y := 0, c := 0, pc := 0, wait := 0, slot := 7, dly := Option.none, itb := false, mx := 0, starts := Option.none, trapped := false }
def Context.closed : Context :=
  { opening := 0, owner := 0, ptBase := 0, ptCount := 0, level := 0, queues := List.replicate 16 [], images := [], graphs := [], kept := []
    closing := false, closeCmd := none }
def Engine.idle : Engine := { win := [], bank := [], taints := [], stamps := [], edge := [], share := [] }
def Bridge.idle : Bridge := { msgs := [], landed := [], inject := [] }
def HostPort.fresh : HostPort := { mac := 0, ip4 := 0, ip6 := 0, packets := 0, discards := 0, retrans := 0 }

/-- The machine right after reset (R27): state RESET, measurement registers zero (R25), no session, no context, n at its nominal 64 (R30, R31), and power-on as the first event. The values that the spec does not give are those of log 1, DESIGN CHOICE. -/
def State.reset : State :=
  { fetch := [], arg := ⟨[], []⟩, cur := Cur.none, now := 0, agenda := [⟨0, 1, eventRow 0⟩], tiles := []
    mode := .reset, testing := false, fullTest := false
    vexKey := EcKey.base, devKey := resetKey
    rom := [], fw := List.replicate 5 FwImage.empty, map := some DefectMap.clean, remap := [], remapSig := ecSign resetKey 1 [0, 0, 0, 0]
    meas := List.replicate 8 (List.replicate 48 0), exported := [], mgmt := []
    n := 64, nAt := 0, nNext := none, nDue := none, overAt := 0, group := 0, groupMembers := [], ptpOffset := 0, ptpPpm := 0
    ports := List.replicate 2 HostPort.fresh, allow := [], tx := [], sessions := [], nextSid := 1, outbox := []
    contexts := List.replicate 16 Context.closed, openings := 0, pointers := [0, 0, 0, 0]
    runs := [], launches := [], nextId := 1, picked := none, ending := [], decidedAt := none, jobs := [], loads := [], preempts := []
    halts := [], halted := false, noDispatch := false
    engines := List.replicate 48 Engine.idle, reads := [], commits := [], gone := [], bridges := List.replicate 16 Bridge.idle, up := [], segs := [], roving := []
    dram := [], fv := 0 }

end Sys2Proof.Machine
end

