-- ==== Sys2Proof/Machine/Grid.lean ====
section
/-! DEFINITION. The logical grid, its binding to physical tiles, and the defect map's checks (R1, R11 to R23). -/

namespace Sys2Proof.Machine

def byteAt (l : List Byte) (i : Nat) : Nat := (l.getD i 0).toNat

/-- SKU and excluded column of the installed map (R19); 0 and 0xFF with none installed (log 31, DESIGN CHOICE). -/
def State.sku (s : State) : Nat := match s.map with | some m => byteAt m.bytes 6 | none => 0
def State.excluded (s : State) : Nat := match s.map with | some m => byteAt m.bytes 7 | none => 0xFF
/-- Columns of the logical grid (R1). -/
def State.gridW (s : State) : Nat := if s.sku = 1 then 176 else 192
/-- A logical tile exists. -/
def State.inGrid (s : State) (x y : Nat) : Bool := decide (x < s.gridW) && decide (y < 192)

/-- The physical field column of a logical column (R12, R18). -/
def State.fieldX (s : State) (x : Nat) : Nat := x / 16 + (if s.sku = 1 ∧ s.excluded = 0 then 1 else 0)
def fieldY (y : Nat) : Nat := y / 16
/-- Two logical neighbours lie in different fields (R13, R16). -/
def crossing (x0 y0 x1 y1 : Nat) : Bool := x0 / 16 != x1 / 16 || y0 / 16 != y1 / 16
/-- The cost of a hop between them (R13). -/
def hopCost (x0 y0 x1 y1 : Nat) : Nat := if crossing x0 y0 x1 y1 then 2 else 1
/-- Lw: the cycles that a counter sample takes to a neighbour (R49). -/
def sampleLat (x0 y0 x1 y1 : Nat) : Nat := if crossing x0 y0 x1 y1 then 8 else 6

/-- A row entry of a map, with the remap list applied (R15, R20, R22). -/
def rowEntryOf (map : List Byte) (remap : List RemapEntry) (fx fy prow : Nat) : Nat :=
  let d := byteAt map (0x18 + (fy * 12 + fx) * 16 + prow) % 32
  if d = 0x1F then ((remap.find? fun e => e.fx == fx && e.fy == fy && e.prow == prow).map (·.col)).getD 0x1F else d
/-- A field column exists and is not excluded (R15, R18). -/
def boundCol (excl f : Nat) : Bool := decide (f < 12) && f != excl
/-- R15 on a physical field column. -/
def bindCol (map : List Byte) (remap : List RemapEntry) (excl fx fy r lx : Nat) : Nat :=
  let d := rowEntryOf map remap fx fy r
  let de := if boundCol excl (fx + 1) then rowEntryOf map remap (fx + 1) fy r else 0x1F
  if d ≤ 15 ∧ lx ≥ d then lx + 1 else if d = 0x1F ∧ de = 0 ∧ lx = 15 then 16 else lx
/-- The physical tile of a logical one (R15, R18). -/
def State.phys (s : State) (x y : Nat) : Nat × Nat :=
  let map := match s.map with | some m => m.bytes | none => []
  let fx := s.fieldX x
  (17 * fx + bindCol map s.remap s.excluded fx (y / 16) (y % 16) (x % 16), y)

/-! Stitch trims (R21), in 1/64 of a cycle. -/

/-- A signed byte of the map. -/
def trimAt (map : List Byte) (i : Nat) : Int := let v := byteAt map i; if v < 128 then v else (v : Int) - 256
/-- The trim of the crossing that leaves physical tile (px, py) toward (qx, qy), in another field; none within a field. A crossing between field rows, diagonal or not, uses the north-south trim of its source column. -/
def stitchTrim (map : List Byte) (px py qx qy : Nat) : Int :=
  let fy := py / 16
  let gy := qy / 16
  let fx := px / 17
  let gx := qx / 17
  if fy ≠ gy then trimAt map (0x1998 + ((min fy gy * 204 + px) * 2 + if fy < gy then 0 else 1))
  else if fx ≠ gx then trimAt map (0x918 + ((min fx gx * 192 + py) * 2 + if fx < gx then 0 else 1))
  else 0
/-- The trim of the link that carries a logical hop. -/
def State.trim (s : State) (x0 y0 x1 y1 : Nat) : Int :=
  let p := s.phys x0 y0
  let q := s.phys x1 y1
  stitchTrim (match s.map with | some m => m.bytes | none => []) p.1 p.2 q.1 q.2
/-- What the wire of a link takes for a transfer of `n` cycles, before its retiming stage, in 1/64 of a cycle: the trim is measured to make up what it lacks (log 30, DEDUCED). -/
def State.wireTime (s : State) (x0 y0 x1 y1 n : Nat) : Int := 64 * n - s.trim x0 y0 x1 y1
/-- The retiming stage of a crossing applies the link's trim (R21): the cycles that the transfer takes. -/
def State.retimed (s : State) (x0 y0 x1 y1 n : Nat) : Nat := ((s.wireTime x0 y0 x1 y1 n + s.trim x0 y0 x1 y1) / 64).toNat

/-- A row is repairable: at most one dead tile, and a dead spare only when the row to the east has no dead column 0 (R17). -/
def repairable (map : List Byte) (remap : List RemapEntry) (excl fx fy r : Nat) : Bool :=
  !(rowEntryOf map remap fx fy r == 16 && boundCol excl (fx + 1) && rowEntryOf map remap (fx + 1) fy r == 0)
def allRows (excl : Nat) (p : Nat → Nat → Nat → Bool) : Bool :=
  (List.range 12).all fun fx => !(boundCol excl fx) || (List.range 12).all fun fy => (List.range 16).all fun r => p fx fy r

/-- The map's checks other than its signature (R20, R21, R23). -/
def mapFieldsOk (b : List Byte) : Bool :=
  let excl := byteAt b 7
  decide (b.length = 0x2B20) && leAt b 0 4 == 0x4D44574F && leAt b 4 2 == 1
    && ((byteAt b 6 == 0 && excl == 0xFF) || (byteAt b 6 == 1 && (excl == 0 || excl == 0x0B)))
    && (slice b 0x18 2304).all (fun x => decide (x.toNat ≤ 0x10) || x.toNat == 0x1F)
    && (slice b 0x918 8712).all (fun x => decide (x.toNat ≤ 48) || decide (x.toNat ≥ 256 - 48))
    && allRows excl (repairable b [] excl)
/-- A map is valid under the manufacturing key (R19, R23). -/
def DefectMap.valid (m : DefectMap) (key : EcKey) : Bool := ecVerify key m.bytes m.sig && mapFieldsOk m.bytes

/-- No two entries of a remap list name one row: a row with two failed tiles is not repairable (R17, R22). -/
def oneEntryEach : List RemapEntry → Bool
  | [] => true
  | e :: r => (r.all fun o => !(o.fx == e.fx && o.fy == e.fy && o.prow == e.prow)) && oneEntryEach r
/-- The remap list's checks other than its signature (R23). -/
def remapValid (map : List Byte) (remap : List RemapEntry) : Bool :=
  let excl := byteAt map 7
  oneEntryEach remap &&
  remap.all (fun e => decide (e.fx < 12) && decide (e.fy < 12) && decide (e.prow < 16) && decide (e.col ≤ 16)
      && byteAt map (0x18 + (e.fy * 12 + e.fx) * 16 + e.prow) % 32 == 0x1F)
    && allRows excl (repairable map remap excl)

/-- A failed tile of a row may be appended: the row is in neither the map nor the list, and it and the row to its west stay repairable (R22). -/
def canAppend (map : List Byte) (remap : List RemapEntry) (e : RemapEntry) : Bool :=
  let excl := byteAt map 7
  let new := remap ++ [e]
  rowEntryOf map remap e.fx e.fy e.prow == 0x1F && decide (remap.length < 2304)
    && repairable map new excl e.fx e.fy e.prow
    && (e.fx == 0 || !(boundCol excl (e.fx - 1)) || repairable map new excl (e.fx - 1) e.fy e.prow)

/-- The remap list's signed bytes (R22): count and entries. -/
def remapBytes (l : List RemapEntry) : List Byte :=
  leBytes 4 l.length ++ l.flatMap fun e => leBytes 1 e.fx ++ leBytes 1 e.fy ++ leBytes 1 e.prow ++ leBytes 1 e.col

/-- The physical engine of a logical one on the part (R18). -/
def State.physEngine (s : State) (e : Nat) : Nat :=
  let up := if s.sku = 1 ∧ s.excluded = 0 then 1 else 0
  if e < 11 then e + up else if 24 ≤ e ∧ e < 35 then e + up
  else if s.sku = 1 ∧ e = 11 then (if s.excluded = 0 then 0 else 11)
  else if s.sku = 1 ∧ e = 35 then (if s.excluded = 0 then 24 else 35) else e
/-- The edge tile of link l of a logical engine, and the port that faces the engine: 0 N, 1 E, 2 S, 3 W (R18, R71). -/
def State.edgeTile (s : State) (e l : Nat) : Nat × Nat × Nat :=
  if e < 12 then (16 * e + l, 0, 0)
  else if e < 24 then (s.gridW - 1, 16 * (e - 12) + l, 1)
  else if e < 36 then (16 * (e - 24) + l, 191, 2)
  else (0, 16 * (e - 36) + l, 3)
/-- The logical engine and link on the outward port of a perimeter tile (R46, R71). -/
def State.edgeOf (s : State) (x y port : Nat) : Option (Nat × Nat) :=
  if port = 0 ∧ y = 0 then some (x / 16, x % 16)
  else if port = 1 ∧ x = s.gridW - 1 then some (12 + y / 16, y % 16)
  else if port = 2 ∧ y = 191 then some (24 + x / 16, x % 16)
  else if port = 3 ∧ x = 0 then some (36 + y / 16, y % 16)
  else none
/-- The cost of an edge link (R46, R18). -/
def State.edgeCost (s : State) (e : Nat) : Nat := if s.sku = 1 ∧ ((12 ≤ e ∧ e < 24) ∨ 36 ≤ e) then 12 else 2
/-- The physical edge field of a physical engine (R71). -/
def engineField (e : Nat) : Nat × Nat :=
  if e < 12 then (e, 0) else if e < 24 then (11, e - 12) else if e < 36 then (e - 24, 11) else (0, e - 36)
/-- The engine that shares a unit's edge links: itself, or 3p for bridge port p (R127). -/
def unitEngine (u : Nat) : Nat := if u < 48 then u else 3 * (u - 48)

/-- Neighbour of a tile through a port: 0 N, 1 E, 2 S, 3 W. -/
def State.neighbour (s : State) (x y port : Nat) : Option (Nat × Nat) :=
  match port with
  | 0 => if 0 < y then some (x, y - 1) else none
  | 1 => if x + 1 < s.gridW then some (x + 1, y) else none
  | 2 => if y + 1 < 192 then some (x, y + 1) else none
  | _ => if 0 < x then some (x - 1, y) else none
/-- The input of the neighbour that a port leads to. -/
def opposite (port : Nat) : Nat := match port with | 0 => 2 | 1 => 3 | 2 => 0 | _ => 1

end Sys2Proof.Machine
end

