-- ==== Sys2Proof/Config.lean ====
section
/-! DEFINITION. What the spec leaves open: values nothing constrains, as constants without a body (logs 6 to 10), and the functions that the module uses and the spec only names. -/

namespace Sys2Proof.Config

/-- A scale-file entry that no MSCL has written, by tile (x, y), by which undefined scale file of the tile it is, and by index (R198; log 6, DESIGN CHOICE). -/
opaque scaleEntry : Nat → Nat → Nat → Nat → BitVec 32

/-- What a SENDM element refused by cause 0x27 or 0x28 leaves in the flit, by the tile's place and its count of free values (R366; log 7, DESIGN CHOICE). -/
opaque refusedElem : Nat → Nat → Nat → Nat

/-- Which of the values that R236 allows a staging read's flit or a host access returns: true for the value after the write or commit, by a count of free choices (R236; log 8, DESIGN CHOICE). -/
opaque straddle : Nat → Bool

/-- The nonce of a signature that the module makes, by a count of free values (R22, R125; log 9, DESIGN CHOICE). -/
opaque nonce : Nat → Nat

/-- The certificates of the device key's chain, leaf first, as ATTEST returns them (R25, R125; log 10, DESIGN CHOICE). -/
opaque certChain : List (List (BitVec 8))

/-- A byte or a number that the spec names and does not give, by a count of free values (log 10, DESIGN CHOICE). -/
opaque freeNat : Nat → Nat

end Sys2Proof.Config
end

