-- ==== Sys2Proof/Machine/VecCalc.lean ====
section
/-! DEFINITION. What the vector engine computes, on plain numbers: lanes, packing, integer, float, conversion, quantisation, reduction and permute arithmetic (R324 to R347).

A vector register is one number of 4,096 bits; a result is a list of register writes and a list of flags, both at offsets from the issue cycle. -/

namespace Sys2Proof.Machine

/-- The register files a slot can write (R166). -/
inductive RFile where
  | s | p | m | v | q | sp
  deriving DecidableEq, Repr

/-- One register write of a result: bits `mask` of register `idx` become available `off` cycles after issue. A V write's `idx` is 4 * register + beat. -/
structure RW where
  file : RFile
  idx : Nat
  off : Nat
  mask : Nat
  val : Nat
  deriving DecidableEq, Repr

/-- What an operation of the vector engine or scalar unit makes of its operands. -/
structure Out where
  ws : List RW
  fl : List (Nat × Flags)
  deriving DecidableEq, Repr

def Out.none : Out := { ws := [], fl := [] }

/-- A mask field's active elements: all for field 0 (R277). -/
def allOnes : Nat := 2 ^ 1024 - 1

/-- Element `i` of width `w` (R168). -/
def laneAt (w v i : Nat) : Nat := v / 2 ^ (i * w) % 2 ^ w

/-- The elements of `b` beats (R324). -/
def lanes (w b v : Nat) : List Nat := (List.range (b * 1024 / w)).map (laneAt w v)

/-- Mask and value of elements placed at positions of width `w`. -/
def packLanes (w : Nat) (l : List (Nat × Nat)) : Nat × Nat :=
  l.foldl (fun acc e => (acc.1 ||| ((2 ^ w - 1) * 2 ^ (e.1 * w)), acc.2 ||| (e.2 % 2 ^ w * 2 ^ (e.1 * w)))) (0, 0)

/-- The writes of results to a group of `k` registers: result i at position i / k of register vd + i % k (R169). `rel` gives the availability offset of a destination beat. -/
def groupWrites (vd k w : Nat) (rel : Nat → Nat) (res : List (Option Nat)) : List RW :=
  (List.range k).flatMap fun g =>
    let placed := res.zipIdx.filterMap fun e =>
      if e.2 % k = g then e.1.map fun v => (e.2 / k, v) else Option.none
    let mv := packLanes w placed
    (List.range 4).filterMap fun j =>
      let mj := bitsAt mv.1 (1024 * j) 1024
      if mj = 0 then Option.none else some ⟨.v, (vd + g) * 4 + j, rel j, mj, bitsAt mv.2 (1024 * j) 1024⟩

/-- Flags by beat: an element's flags are set at the availability cycle of its beat (R326). -/
def beatFlags (b lat perBeat : Nat) (fl : List Flags) : List (Nat × Flags) :=
  (List.range b).filterMap fun j =>
    let f := ((fl.drop (j * perBeat)).take perBeat).foldl (· ||| ·) 0
    if f = 0 then Option.none else some (lat + j, f)

/-- Keep the results of active elements. -/
def masked (m : Nat) (l : List Nat) : List (Option Nat) :=
  l.zipIdx.map fun e => if bitAt m e.2 then some e.1 else Option.none
/-- Keep the flags of active elements. -/
def maskedFl (m : Nat) (l : List Flags) : List Flags :=
  l.zipIdx.map fun e => if bitAt m e.2 then e.1 else 0

/-- An elementwise result of the operand's own width. -/
def laneOut (vd w _b lat m : Nat) (res : List Nat) : Out :=
  { ws := groupWrites vd 1 w (lat + ·) (masked m res), fl := [] }
/-- An elementwise result with flags. -/
def laneOutF (vd w b lat m : Nat) (res : List (Nat × Flags)) : Out :=
  { ws := groupWrites vd 1 w (lat + ·) (masked m (res.map (·.1)))
    fl := beatFlags b lat (1024 / w) (maskedFl m (res.map (·.2))) }
/-- A compare's result bits of w-bit elements, into a mask register at 1 + b; an element's flags are set at its beat's cycle (R326, R334). With no active element the compare still counts as the latest-issued write of its mask register for cause 0x44 (R164; log 15, DESIGN CHOICE). -/
def maskOut (md b w m : Nat) (res : List (Bool × Flags)) : Out :=
  let on := res.zipIdx.filter fun e => bitAt m e.2
  let mask := on.foldl (fun acc e => acc ||| 2 ^ e.2) 0
  let val := on.foldl (fun acc e => if e.1.1 then acc ||| 2 ^ e.2 else acc) 0
  { ws := [⟨.m, md, 1 + b, mask, val⟩], fl := beatFlags b 2 (1024 / w) (maskedFl m (res.map (·.2))) }
/-- A scalar result. -/
def scalarOut (d off val : Nat) : Out := { ws := [⟨.s, d, off, 2 ^ 32 - 1, val % 2 ^ 32⟩], fl := [] }

/-! Integer lanes (R330). -/

/-- Saturate to a signed or unsigned range of w bits. -/
def satPat (w : Nat) (sg : Bool) (i : Int) : Nat := wrapN w (clampInt (intMin w sg) (intMax w sg) i)
/-- Number of one bits. -/
def popCount : Nat → Nat → Nat
  | 0, _ => 0
  | n + 1, v => v % 2 + popCount n (v / 2)
/-- Leading zeros in w bits. -/
def clzW (w v : Nat) : Nat := w - bitLen (v % 2 ^ w)
def shlW (w a sh : Nat) : Nat := a * 2 ^ sh % 2 ^ w
def shrW (a sh : Nat) : Nat := a / 2 ^ sh
def sraW (w a sh : Nat) : Nat := wrapN w (sInt w a / (2 ^ sh : Nat))
def lane_add (w a b : Nat) : Nat := (a + b) % 2 ^ w
def lane_sub (w a b : Nat) : Nat := (a + (2 ^ w - b)) % 2 ^ w
def lane_andn (w a b : Nat) : Nat := a &&& (2 ^ w - 1 - b)
def lane_abs (w a : Nat) : Nat := wrapN w (sInt w a).natAbs
def lane_avg (w a b : Nat) : Nat := wrapN w ((sInt w a + sInt w b + 1) / 2)

/-- Two-operand integer lanes. -/
def intLanes2 (o : VxOp) (va vb m : Nat) (f : Nat → Nat → Nat → Nat) : Out :=
  let w := tyWidth o.ty
  let b := o.beats.toNat + 1
  laneOut o.vd.toNat w b 2 m (List.zipWith (f w) (lanes w b va) (lanes w b vb))
/-- One-operand integer lanes. -/
def intLanes1 (o : VxOp) (va m : Nat) (f : Nat → Nat → Nat) : Out :=
  let w := tyWidth o.ty
  let b := o.beats.toNat + 1
  laneOut o.vd.toNat w b 2 m ((lanes w b va).map (f w))
/-- Widening products, with an optional accumulator pair (R331). `acc i` is element i of the pair. -/
def wideMul (o : VxOp) (va vb m : Nat) (sg : Bool) (acc : Option (Nat × Nat)) : Out :=
  let w := tyWidth o.ty
  let b := o.beats.toNat + 1
  let prod := List.zipWith (fun x y => if sg then wrapN (2 * w) (sInt w x * sInt w y) else x * y) (lanes w b va) (lanes w b vb)
  let sum := match acc with
    | Option.none => prod
    | some p => prod.zipIdx.map fun e =>
        (laneAt (2 * w) (if e.2 % 2 = 0 then p.1 else p.2) (e.2 / 2) + e.1) % 2 ^ (2 * w)
  { ws := groupWrites o.vd.toNat 2 (2 * w) (2 + ·) (masked m sum), fl := [] }

/-! Float lanes (R332, R333). -/

/-- The format of a float type. -/
def tyFmt (t : BitVec 3) : Fmt :=
  match t.toNat with
  | 4 => fmtFP16 | 5 => fmtBF16 | 7 => fmtE4M3 | _ => fmtFP32

def floatLanes2 (o : VxOp) (va vb m : Nat) (f : Fmt → Nat → Nat → Nat × Flags) : Out :=
  let w := tyWidth o.ty
  let b := o.beats.toNat + 1
  laneOutF o.vd.toNat w b 4 m (List.zipWith (f (tyFmt o.ty)) (lanes w b va) (lanes w b vb))
def floatLanes1 (o : VxOp) (va m : Nat) (f : Fmt → Nat → Nat × Flags) : Out :=
  let w := tyWidth o.ty
  let b := o.beats.toNat + 1
  laneOutF o.vd.toNat w b 4 m ((lanes w b va).map (f (tyFmt o.ty)))

/-- The operand is a zero or a subnormal of its own type. -/
def Fmt.tiny (f : Fmt) (p : Nat) : Bool := p / 2 ^ f.fb % 2 ^ f.eb == 0
/-- VFRCP and VFRSQ (R333): the function of R297 on the widened operand, rounded to the type. -/
def Fmt.approx (f : Fmt) (rsq : Bool) (p : Nat) : Nat × Flags :=
  let a := f.val p
  let r := if f.tiny p then (FVal.inf a.sign, fDZ) else if rsq then rsqVal a else rcpVal a
  let y := f.convert .rne r.1
  (y.1, r.2 ||| y.2)

/-- Fraction bits of the fixed-point powers of two. -/
def expBits : Nat := 240
/-- 2^(1/2), 2^(1/4), …: `n` of them, each the square root of the one before, in `expBits` fraction bits. -/
def rootsOfTwo : Nat → Nat → List Nat
  | 0, _ => []
  | n + 1, prev =>
    let r := isqrt (prev * 2 ^ expBits)
    r :: rootsOfTwo n r
/-- The product of the roots whose bit of the fraction `f` (of `k` bits, first root for the top bit) is set. -/
def powFrac : List Nat → Nat → Nat → Nat → Nat
  | [], _, _, acc => acc
  | r :: rs, f, k, acc =>
    match k with
    | 0 => acc
    | k' + 1 => powFrac rs f k' (if bitAt f k' then acc * r / 2 ^ expBits else acc)
/-- 2^a of an exact number, rounded RNE (R332). -/
def exp2Num (roots : List Nat) (x : ExactNum) : ExactNum :=
  let top := x.e + bitLen x.m
  if top > 12 then ⟨false, 1, if x.neg then -8192 else 8192⟩
  else
    let k := (-x.e).toNat
    let i : Int := x.at (min x.e 0)
    let n := i / (2 ^ k : Nat)
    let f := (i - n * (2 ^ k : Nat)).toNat
    if f = 0 then ⟨false, 1, n⟩
    else ⟨false, 2 * powFrac roots f k (2 ^ expBits) + 1, n - expBits - 1⟩
/-- The smallest exponent of a normal value. -/
def Fmt.emin (f : Fmt) : Int := 1 - (f.bias : Int)
/-- VFEXP2: below the smallest normal it sets UF and NX, whatever the rounding (R332, R333). -/
def Fmt.exp2 (f : Fmt) (roots : List Nat) (p : Nat) : Nat × Flags :=
  match f.val p with
  | .nan s => (f.nanPat, if s then fINV else 0)
  | .inf s => if s then (0, 0) else (f.infPat, 0)
  | .num x =>
    if x.m = 0 then f.round .rne one
    else
      let y := exp2Num roots x
      let r := f.round .rne y
      (r.1, if y.e + bitLen y.m - 1 < f.emin then fUF ||| fNX else r.2)
/-- VFSCALE: a * 2^n (R332). -/
def Fmt.scaleBy (f : Fmt) (p : Nat) (n : Int) : Nat × Flags :=
  match f.val p with
  | .nan s => (f.nanPat, if s then fINV else 0)
  | .inf s => f.convert .rne (.inf s)
  | .num x => f.round .rne { x with e := x.e + clampInt (-4096) 4096 n }

/-- A float compare and its flag: 0 equal, 1 less, 2 less or equal, 3 unordered (R300, R334). -/
def Fmt.compare (f : Fmt) (op pa pb : Nat) : Bool × Flags :=
  let a := f.val pa
  let b := f.val pb
  let nan := a.isNaN || b.isNaN
  let sig := a.isSNaN || b.isSNaN
  match op with
  | 0 => (a.eq b, if sig then fINV else 0)
  | 1 => (a.lt b, if nan then fINV else 0)
  | 2 => (a.lt b || a.eq b, if nan then fINV else 0)
  | _ => (nan, if sig then fINV else 0)

def cmpLanes (o : VxOp) (va vb m : Nat) (f : Nat → Nat → Nat → Bool × Flags) : Out :=
  let w := tyWidth o.ty
  let b := o.beats.toNat + 1
  maskOut (o.vd.toNat % 8) b w m (List.zipWith (f w) (lanes w b va) (lanes w b vb))

/-! Conversions (R337, R338). -/

/-- The format code of a VX type (R186). -/
def tyCode (t : BitVec 3) : Nat :=
  match t.toNat with
  | 0 => 1 | 1 => 3 | 2 => 5 | 3 => 21 | 4 => 20 | 5 => 19 | 6 => 22 | _ => 9

/-- Availability of a destination beat of a narrowing result: that of the last source beat it receives (R338). -/
def narrowRel (lat b r j : Nat) : Nat := lat + min (b - 1) (r * j + r - 1)

/-- Results of width wd from sources of width ws, into a group or packed (R337). -/
def convOut (vd ws wd b lat m : Nat) (res : List (Nat × Flags)) : Out :=
  let v := masked m (res.map (·.1))
  { ws := if ws ≤ wd then groupWrites vd (wd / ws) wd (lat + ·) v
      else groupWrites vd 1 wd (narrowRel lat b (ws / wd)) v
    fl := beatFlags b lat (1024 / ws) (maskedFl m (res.map (·.2))) }

/-- Packed results of width wd from sources of width ws, those of source beat j available at lat + j, also where several source beats fill one destination beat (R184, R342). -/
def packWrites (vd ws wd b lat : Nat) (res : List (Option Nat)) : List RW :=
  (List.range b).flatMap fun j =>
    groupWrites vd 1 wd (fun _ => lat + j) (res.zipIdx.map fun e => if e.2 / (1024 / ws) = j then e.1 else Option.none)

/-- The rounding mode of source element i under a mode code, with SR's hash (R209). -/
def laneMode (code : Nat) (seed ctr : BitVec 32) (w i : Nat) : Mode :=
  modeSr code seed (ctr + BitVec.ofNat 32 (i * w / 1024)) i

/-- VCVT (R337). -/
def vcvtOut (o : VxOp) (va m : Nat) (seed ctr : BitVec 32) : Out :=
  let f := o.n 7 3
  let ws := tyWidth o.ty
  let b := o.beats.toNat + 1
  convOut o.vd.toNat ws (fmtWidth f) b 3 m
    ((lanes ws b va).zipIdx.map fun e => fmtConvert f (laneMode (o.n 2 0) seed ctr ws e.2) (fmtVal (tyCode o.ty) e.1))

/-- VWIDEN (R338). -/
def vwidenOut (o : VxOp) (va m : Nat) : Out :=
  let w := tyWidth o.ty
  let b := o.beats.toNat + 1
  let k := if o.n 1 1 = 1 then 4 else 2
  let one' : Nat → Nat × Flags := fun x =>
    if tyIsInt o.ty then (if o.n 0 0 = 1 then x else wrapN (k * w) (sInt w x), 0)
    else fmtFP32.convert .rne ((tyFmt o.ty).val x)
  convOut o.vd.toNat w (k * w) b 3 m ((lanes w b va).map one')

/-- VNARROW, VNARROWU (R338). -/
def vnarrowOut (o : VxOp) (va m : Nat) (uns : Bool) : Out :=
  let w := tyWidth o.ty
  let b := o.beats.toNat + 1
  let sh := o.n 5 1
  let one' : Nat → Nat × Flags := fun x =>
    let v : Int := if sh = 0 then sInt w x else (sInt w x + (2 ^ (sh - 1) : Nat)) / (2 ^ sh : Nat)
    (if uns then satPat (w / 2) false v else if o.n 0 0 = 1 then wrapN (w / 2) v else satPat (w / 2) true v, 0)
  convOut o.vd.toNat w (w / 2) b 3 m ((lanes w b va).map one')

/-! Quantisation (R340 to R343, R211 to R213). -/

/-- emax of an MX format (R211). -/
def mxEmax (f : Nat) : Int :=
  match f with
  | 11 | 12 => 2 | 13 => 4 | 14 => 8 | 15 => 15 | _ => 0
/-- The largest magnitude of an FP list, as FP32 (R340). -/
def qmaxVal (l : List FVal) : Nat :=
  if l.any FVal.isNaN then 0x7FC00000
  else if l.any FVal.isInf then 0x7F800000
  else
    let big := l.foldl (fun acc v => match v with
      | .num x => if acc.cmp { x with neg := false } < 0 then { x with neg := false } else acc
      | _ => acc) (⟨false, 0, 0⟩ : ExactNum)
    (rne32 big).1
/-- VQMAX over the active elements. -/
def qmaxOf (o : VxOp) (va m : Nat) : Nat :=
  let w := tyWidth o.ty
  let b := o.beats.toNat + 1
  qmaxVal ((lanes w b va).zipIdx.filterMap fun e => if bitAt m e.2 then some ((tyFmt o.ty).val e.1) else Option.none)
/-- The scale that VQSCALE writes for format f from the measurement m (R341, R211, R212). -/
def qscaleOf (f m : Nat) : Nat × Flags :=
  match fmtFP32.val (m % 2 ^ 31) with
  | .nan _ => (if f ≤ 16 then 0xFF else 0x7FC00000, fINV)
  | .inf _ => (if f ≤ 16 then 0xFF else 0x7FC00000, fINV)
  | .num x =>
    if f ≤ 16 then
      let e : Int := if x.m = 0 then -127 else clampInt (-127) 127 (x.e + bitLen x.m - 1 - mxEmax f)
      ((e + 127).toNat, 0)
    else if x.m = 0 then (0x3F800000, 0)
    else
      let s := (rne32 (quotNum false x ⟨false, if f = 17 then 448 else 127, 0⟩)).1
      (if s < 0x00800000 then 0x00800000 else s, 0)
/-- The element NaN of a block format: 0 where the format has none (R213). -/
def blockNaN (f : Nat) : Nat := match f with | 14 | 17 => 0x7F | 15 => 0x7E | _ => 0
/-- A value converted to a block format's element; INT8 elements saturate to -127 … 127 (R211, R212). -/
def blockConvert (f : Nat) (mode : Mode) (v : FVal) : Nat × Flags :=
  if f = 16 ∨ f = 18 then
    let r := convertInt (-127) 127 mode v
    (wrapN 8 r.1, r.2)
  else fmtConvert f mode v
/-- A value times 2^k. -/
def FVal.shift (v : FVal) (k : Int) : FVal :=
  match v with
  | .num x => .num { x with e := x.e + k }
  | other => other
/-- A value divided by a positive finite number, to be rounded once. -/
def FVal.quotient (v : FVal) (s : ExactNum) : FVal :=
  match v with
  | .num x => if x.m = 0 then .num x else .num (quotNum x.neg x s)
  | other => other
/-- VQCVT of one element with the Q register's value (R342). -/
def quantElem (f q : Nat) (mode : Mode) (a : FVal) : Nat × Flags :=
  if f ≤ 16 then
    if q % 256 = 0xFF then (blockNaN f, fINV)
    else
      let e : Int := (q % 256 : Nat) - 127
      blockConvert f mode (a.shift (if f = 16 then 6 - e else -e))
  else match fmtFP32.val q with
    | .num s => if s.m = 0 || s.neg then (blockNaN f, fINV) else blockConvert f mode (a.quotient s)
    | _ => (blockNaN f, fINV)
/-- VDEQ of one element (R343). -/
def dequantElem (f q p : Nat) (dst : Fmt) (mode : Mode) : Nat × Flags :=
  let x := fmtVal f p
  let bad := x.isNaN || (if f ≤ 16 then q % 256 == 0xFF else (fmtFP32.val q).isNaN || (fmtFP32.val q).isInf)
  if bad then (dst.nanPat, fINV)
  else if f ≤ 16 then
    let e : Int := (q % 256 : Nat) - 127
    dst.convert mode (x.shift (if f = 16 then e - 6 else e))
  else match x, fmtFP32.val q with
    | .num a, .num s => dst.convert mode (.num (a.mul s))
    | v, _ => dst.convert mode v

/-- VQCVT (R342): the exception of R338 for a destination beat names other instructions. -/
def vqcvtOut (o : VxOp) (va q m : Nat) (seed ctr : BitVec 32) : Out :=
  let f := o.n 7 5 + 11
  let w := tyWidth o.ty
  let b := o.beats.toNat + 1
  let res := (lanes w b va).zipIdx.map fun e => quantElem f q (laneMode (o.n 2 0) seed ctr w e.2) ((tyFmt o.ty).val e.1)
  { ws := packWrites o.vd.toNat w (fmtWidth f) b 3 (masked m (res.map (·.1)))
    fl := beatFlags b 3 (1024 / w) (maskedFl m (res.map (·.2))) }
/-- VDEQ (R343). -/
def vdeqOut (o : VxOp) (va q m : Nat) (seed ctr : BitVec 32) : Out :=
  let f := o.n 7 5 + 11
  let w := tyWidth o.ty
  let b := o.beats.toNat + 1
  laneOutF o.vd.toNat w b 4 m
    ((List.range (b * 1024 / w)).map fun i =>
      dequantElem f q (laneAt (fmtWidth f) va i) (tyFmt o.ty) (laneMode (o.n 2 0) seed ctr w i))

/-! Reductions (R344). -/

/-- One level of the pairwise tree; an odd element left over passes. -/
def pairUp {α : Type} (f : α → α → α × Flags) : List α → List α × Flags
  | a :: b :: r =>
    let x := f a b
    let y := pairUp f r
    (x.1 :: y.1, x.2 ||| y.2)
  | l => (l, 0)
/-- The tree over at most 2^fuel elements. -/
def treeUp {α : Type} (f : α → α → α × Flags) : Nat → List α → Flags → List α × Flags
  | 0, l, fl => (l, fl)
  | n + 1, l, fl =>
    let r := pairUp f l
    treeUp f n r.1 (fl ||| r.2)

/-- The active elements, inactive ones replaced by the identity. -/
def withIdentity (m ident : Nat) (l : List Nat) : List Nat :=
  l.zipIdx.map fun e => if bitAt m e.2 then e.1 else ident

/-- Integer reductions by a tree on exact integers. -/
def intReduce (o : VxOp) (va m : Nat) (sg : Bool) (ident : Nat → Nat) (f : Int → Int → Int) : Out :=
  let w := tyWidth o.ty
  let b := o.beats.toNat + 1
  let vals := (withIdentity m (ident w) (lanes w b va)).map fun x => if sg then sInt w x else (x : Int)
  let r := treeUp (fun a c => (f a c, 0)) 11 vals 0
  scalarOut (o.vd.toNat % 32) (6 + b) (wrapN 32 (r.1.headD 0))

/-- A value widened exactly to FP32, NaNs keeping whether they signal. -/
def widenPat (f : Fmt) (p : Nat) : Nat :=
  match f.val p with
  | .nan s => if s then 0x7FA00000 else 0x7FC00000
  | v => (fmtFP32.convert .rne v).1
/-- fadd32 on patterns (R225, R296). -/
def fadd32 (a b : Nat) : Nat × Flags := fmtFP32.addV (fmtFP32.val a) (fmtFP32.val b)
/-- FP reductions by a tree on FP32 patterns. -/
def floatReduce (o : VxOp) (va m ident : Nat) (f : Nat → Nat → Nat × Flags) : Out :=
  let w := tyWidth o.ty
  let b := o.beats.toNat + 1
  let vals := (lanes w b va).zipIdx.map fun e => if bitAt m e.2 then widenPat (tyFmt o.ty) e.1 else ident
  let r := treeUp f 11 vals 0
  { ws := [⟨.s, o.vd.toNat % 32, 6 + b, 2 ^ 32 - 1, r.1.headD 0⟩], fl := if r.2 = 0 then [] else [(6 + b, r.2)] }

/-! Permutes (R345, R346), latency 3. -/

def permOut (o : VxOp) (m : Nat) (f : Nat → Nat) : Out :=
  let w := tyWidth o.ty
  let b := o.beats.toNat + 1
  laneOut o.vd.toNat w b 3 m ((List.range (b * 1024 / w)).map f)

def vshufLane (w va vb pat i : Nat) : Nat :=
  let n := 1024 / w
  let sel := pat / 2 ^ (8 * (i % n)) % 256
  let k := sel % 128
  if k < n then laneAt w (if sel ≥ 128 then vb else va) (i / n * n + k) else 0
def vzipLane (w e hi va vb i : Nat) : Nat :=
  let h := if hi = 1 then e / 2 else 0
  laneAt w (if i % 2 = 0 then va else vb) (h + i / 2)
def vunzipLane (w e odd va vb i : Nat) : Nat :=
  if i < e / 2 then laneAt w va (2 * i + odd) else laneAt w vb (2 * (i - e / 2) + odd)

end Sys2Proof.Machine
end

