-- ==== Sys2Proof/Machine/MatCalc.lean ====
section
/-! DEFINITION. What the matrix engine computes, on plain numbers: images, the squarer array, promotion, scales and rates (R192 to R204, R351). -/

namespace Sys2Proof.Machine

/-- K-steps per beat of a format (R192). -/
def fmtRate (f : Nat) : Nat :=
  match f with
  | 1 | 2 | 3 | 6 | 7 | 11 | 12 | 16 | 18 => 2
  | _ => 1
def isMx (f : Nat) : Bool := decide (11 ≤ f ∧ f ≤ 16)
def isSc (f : Nat) : Bool := f == 17 || f == 18
def isAligned (f : Nat) : Bool := f == 10 || f == 15 || f == 19 || f == 20

/-- The promotion interval (R199). -/
def FmtEntry.interval (e : FmtEntry) : Nat :=
  if isMx e.afmt || isMx e.bfmt || isAligned e.afmt || isAligned e.bfmt then 32
  else if isSc e.afmt || isSc e.bfmt then 128
  else 32 * 2 ^ e.pint
/-- The rate of an MSQ (R193). -/
def FmtEntry.rate (e : FmtEntry) : Nat := min (fmtRate e.afmt) (fmtRate e.bfmt)
/-- Promotion boundaries of an MSQ of `b` beats (R199). -/
def FmtEntry.bounds (e : FmtEntry) (b : Nat) : Nat :=
  let k := b * e.rate
  (k + e.interval - 1) / e.interval

/-- Image and image-factor exponent of the formats whose image is fixed (R192). -/
def fixedImage (f p : Nat) : Int :=
  match fmtVal f p with
  | .num x => x.at (match f with | 6 | 11 => -1 | 7 | 12 => -3 | 8 | 13 => -4 | 9 | 14 | 17 => -9 | _ => 0)
  | _ => 0
/-- log2 of the fixed image factor (R192). -/
def fixedFactor (f : Nat) : Int :=
  match f with
  | 6 | 11 => -1 | 7 | 12 => -3 | 8 | 13 => -4 | 9 | 14 | 17 => -9 | 16 => -6 | _ => 0

/-- Exponent field, at least 1, of an aligned format's pattern (R196). -/
def alignedExp (f : Fmt) (p : Nat) : Nat := max (p / 2 ^ f.fb % 2 ^ f.eb) 1
def notFinite (v : FVal) : Bool := v.isNaN || v.isInf
/-- The images and the factor's exponent of one K-block of an aligned format (R196). -/
def alignedBlock (code : Nat) (l : List Nat) : List Int × Int :=
  let f := (fmtOf code).getD fmtFP32
  let w : Nat := if code = 10 ∨ code = 15 then 12 else 16
  let fin := l.filter fun p => !notFinite (f.val (p % 2 ^ f.bits))
  let emax := fin.foldl (fun acc p => max acc (alignedExp f p)) 1
  let im := l.map fun p =>
    if notFinite (f.val (p % 2 ^ f.bits)) then (0 : Int)
    else
      let q := (if p / 2 ^ f.fb % 2 ^ f.eb = 0 then 0 else 2 ^ f.fb) + p % 2 ^ f.fb
      let d := emax - alignedExp f p
      let mag : Nat := if d ≥ 32 then 0 else q * 2 ^ (w - 2 - f.fb) / 2 ^ d
      if p / f.signBit % 2 = 1 then -(mag : Int) else mag
  (im, (emax : Int) - f.bias - w + 2)

/-- The images of one row or column over an interval, with the factor's exponent. -/
def imagesOf (code : Nat) (l : List Nat) : List Int × Int :=
  if isAligned code then alignedBlock code l else (l.map (fixedImage code), fixedFactor code)

/-- The value of a scale operand: none 1.0; E8M0 for an MX format; FP32 for an SC format (R190, R198, R200). -/
def scaleVal (code src raw : Nat) : FVal :=
  if src = 0 then .num one
  else if isMx code then
    if raw % 256 = 0xFF then .nan false else .num ⟨false, 1, ((raw % 256 : Nat) : Int) - 127⟩
  else fmtFP32.val raw
/-- An element or a scale poisons its row or column (R197). -/
def poisoned (code src raw : Nat) (l : List Nat) : Bool :=
  notFinite (scaleVal code src raw) || l.any fun p => notFinite (fmtVal code p)

def sumSq (l : List Int) : Int := l.foldl (fun acc x => acc + x * x) 0
/-- s_ij over an interval (R193). -/
def cellSum (a b : List Int) : Int := (List.zipWith (fun x y => (x + y) * (x + y)) a b).foldl (· + ·) 0

/-- The promotion of one cell (R201): new accumulator and sticky flags. The sign of an exact zero is the model's (log 14, DESIGN CHOICE). -/
def promoteCell (acc : Nat) (p : Int) (sc : Nat) (bad : Bool) : Nat × Flags :=
  match fmtFP32.val sc with
  | .num s =>
    if bad then (0x7FC00000, fINV)
    else match fmtFP32.val acc with
      | .num a =>
        if p = 0 then (acc, 0)
        else
          let r := rne32 (a.add ((numOfInt p).mul s))
          (r.1, r.2 &&& (fOF ||| fNX))
      | _ => (acc, 0)
  | _ => (0x7FC00000, fINV)

/-- One side's operands over an interval, by lane: images, factor, poison, scale. -/
structure SideImg where
  im : List Int
  g : Int
  bad : Bool
  sc : FVal
  deriving DecidableEq, Repr

/-- Lane l of a side, from the operands by K-step. -/
def sideImg (code src : Nat) (steps : List (List Nat)) (raw : List Nat) (l : Nat) : SideImg :=
  let col := steps.map fun s => s.getD l 0
  let r := imagesOf code col
  { im := r.1, g := r.2, bad := poisoned code src (raw.getD l 0) col, sc := scaleVal code src (raw.getD l 0) }

/-- rne32 of a product of values as a pattern. -/
def mul32 (a b : FVal) : Nat := (fmtFP32.mulV a b).1

/-- A promotion on the block's old C elements (row major): the block's new bytes and the sticky flags (R200 to R202, R173). -/
def Promo.run (p : Promo) (old : List Nat) : List Byte × Flags :=
  let rows := (List.range 32).map (sideImg p.ent.afmt p.ent.asrc p.a p.sa)
  let cols := (List.range 32).map (sideImg p.ent.bfmt p.ent.bsrc p.b p.sb)
  let ra := rows.map fun r => sumSq r.im
  let cb := cols.map fun c => sumSq c.im
  let cells := (List.range 1024).zip old |>.map fun e =>
    let i := e.1 / 32
    let j := e.1 % 32
    let r := rows.getD i ⟨[], 0, false, .nan false⟩
    let c := cols.getD j ⟨[], 0, false, .nan false⟩
    let prod := (cellSum r.im c.im - ra.getD i 0 - cb.getD j 0) / 2
    let sig := mul32 r.sc c.sc
    let sc := mul32 (fmtFP32.val sig) (.num ⟨false, 1, r.g + c.g⟩)
    promoteCell (if p.fresh then 0 else e.2) prod sc (r.bad || c.bad)
  let fl := cells.foldl (fun acc x => acc ||| x.2) 0
  (cells.flatMap (fun x => leBytes 4 x.1) ++ ra.flatMap (fun v => leBytes 8 (wrapN 64 v)) ++ cb.flatMap (fun v => leBytes 8 (wrapN 64 v)), fl)

end Sys2Proof.Machine
end

