-- ==== Sys2Proof/Machine/Alu.lean ====
section
/-! DEFINITION. What the scalar unit computes (R292 to R301). -/

namespace Sys2Proof.Machine

def bool32 (b : Bool) : Word := if b then 1 else 0
/-- The shift count of a register shift: b[4:0] (R292). -/
def shCount (b : Word) : Nat := b.toNat % 32
/-- Saturate to 32 signed bits. -/
def sat32 (i : Int) : Word := BitVec.ofInt 32 (clampInt (-2147483648) 2147483647 i)

def aluRol (a b : Word) : Word := a.rotateLeft (shCount b)
def aluMin (a b : Word) : Word := if a.slt b then a else b
def aluMax (a b : Word) : Word := if a.slt b then b else a
def aluMinu (a b : Word) : Word := if a.ult b then a else b
def aluMaxu (a b : Word) : Word := if a.ult b then b else a
def aluAbs (a : Word) : Word := if a.msb then -a else a
def aluClz (a : Word) : Word := BitVec.ofNat 32 (clzW 32 a.toNat)
def aluPopc (a : Word) : Word := BitVec.ofNat 32 (popCount 32 a.toNat)
/-- d[i] = a[31 - i]. -/
def aluBrev (a : Word) : Word := a.reverse
def aluMul (a b : Word) : Word := a * b
def aluMulh (a b : Word) : Word := BitVec.ofInt 32 (a.toInt * b.toInt / 2 ^ 32)
def aluMulhu (a b : Word) : Word := BitVec.ofNat 32 (a.toNat * b.toNat / 2 ^ 32)
/-- DIV rounds toward zero; the one overflow gives the dividend (R293). -/
def aluDiv (a b : Word) : Word := BitVec.ofInt 32 (Int.tdiv a.toInt b.toInt)
def aluRem (a b : Word) : Word := BitVec.ofInt 32 (Int.tmod a.toInt b.toInt)
def aluDivu (a b : Word) : Word := BitVec.ofNat 32 (a.toNat / b.toNat)
def aluRemu (a b : Word) : Word := BitVec.ofNat 32 (a.toNat % b.toNat)

/-- FP32 results as a pattern and flags. -/
def fp32 (r : Nat × Flags) : Word × Flags := (BitVec.ofNat 32 r.1, r.2)
def val32 (a : Word) : FVal := fmtFP32.val a.toNat
def fpAdd (a b : Word) : Word × Flags := fp32 (fmtFP32.addV (val32 a) (val32 b))
def fpSub (a b : Word) : Word × Flags := fp32 (fmtFP32.addV (val32 a) (val32 b).negate)
def fpMul (a b : Word) : Word × Flags := fp32 (fmtFP32.mulV (val32 a) (val32 b))
def fpFma (a b c : Word) : Word × Flags := fp32 (fmtFP32.fmaV (val32 a) (val32 b) (val32 c))
def fpMinMax (wantMax : Bool) (a b : Word) : Word × Flags := fp32 (fmtFP32.minMax wantMax a.toNat b.toNat)
def fpAbs (a : Word) : Word := a &&& 0x7FFFFFFF
def fpNeg (a : Word) : Word := a ^^^ 0x80000000
/-- FCVTI: FP32 to INT32 under a mode (R296, R208). -/
def fpToInt (mode : Nat) (a : Word) : Word × Flags :=
  let r := convertInt (-2147483648) 2147483647 (modeOf mode) (val32 a)
  (BitVec.ofInt 32 r.1, r.2)
/-- ICVTF (R296). -/
def intToFp (mode : Nat) (a : Word) : Word × Flags := fp32 (fmtFP32.round (modeOf mode) (numOfInt a.toInt))
/-- FRCP, FRSQ (R297). -/
def fpApprox (rsq : Bool) (a : Word) : Word × Flags :=
  let r := if rsq then rsqVal (val32 a) else rcpVal (val32 a)
  let y := fmtFP32.convert .rne r.1
  (BitVec.ofNat 32 y.1, r.2)
/-- FRCPS, FRSQS (R299). -/
def fpRefine (rsq : Bool) (a b : Word) : Word × Flags := fp32 (fmtFP32.refine rsq (val32 a) (val32 b))
/-- PFLT, PFLE, PFUN (R300): op of `Fmt.compare`. -/
def fpCompare (op : Nat) (a b : Word) : Bool × Flags := fmtFP32.compare op a.toNat b.toNat

end Sys2Proof.Machine
end

