-- ==== Sys2Proof/Machine/Flags.lean ====
section
/-! DEFINITION. FPST and the matrix engine's sticky status: how flags are set, read and cleared (R167, R291, R362). -/

namespace Sys2Proof.Machine

/-- FPST's number among the special registers (R167). -/
def spFPST : Nat := 8

/-- The flags set from cycle `a` up to cycle `c`. -/
def flagsBetween (l : List (Nat × Flags)) (a c : Nat) : Flags :=
  l.foldl (fun acc e => if a ≤ e.1 ∧ e.1 ≤ c then acc ||| e.2 else acc) 0

/-- FPST at cycle c: the latest WRSP value available, and the flags set at its cycle or later (R162, R167, R291). -/
def Tile.fpstAt (t : Tile) (c : Nat) : BitVec 64 :=
  let init : BitVec 64 × Nat := (t.sp.base.getD spFPST 0, 0)
  let r := t.sp.pend.foldl (fun acc e => if e.idx = spFPST ∧ e.avail ≤ c then ((acc.1 &&& ~~~e.mask) ||| (e.val &&& e.mask), e.avail) else acc) init
  (r.1 &&& 0x1F#64) ||| (flagsBetween t.fp r.2 c).setWidth 64

/-- Flags that an instruction sets in FPST at a cycle. -/
def Tile.setFlags (t : Tile) (at_ : Nat) (f : Flags) : Tile :=
  if f = 0 then t else { t with fp := t.fp ++ [(at_, f)] }

/-- Flags for the matrix engine's sticky status, set now (R202, R206). -/
def Tile.setMst (t : Tile) (f : Flags) : Tile := { t with mst := t.mst ||| f }

/-- Flags of an access, to where they go. -/
def Tile.sinkFlags (t : Tile) (k : FlagSink) (at_ : Nat) (f : Flags) : Tile :=
  match k with
  | .fpst => t.setFlags at_ f
  | .mst => t.setMst f

end Sys2Proof.Machine
end

