-- ==== Sys2Proof/Machine/Operands.lean ====
section
/-! DEFINITION. Operands: the register files with their writes in flight (R162 to R170), the tables of the active configuration plane (R135), and memory operands (R176, R177, R364).

Every read and write of a register goes through these operations; S0 and P0 are constants here and nowhere else. -/

namespace Sys2Proof.Machine

/-! Register files. -/

/-- One write in flight, applied to a register's bits if it is available at c. -/
def PendWrite.apply {w : Nat} (e : PendWrite w) (i c : Nat) (v : BitVec w) : BitVec w :=
  if e.idx = i ∧ e.avail ≤ c then (v &&& ~~~e.mask) ||| (e.val &&& e.mask) else v

/-- A register read at c: each bit from the latest-issued write available at or before c (R162). -/
def RegFile.read {w : Nat} (f : RegFile w) (i c : Nat) : BitVec w :=
  f.pend.foldl (fun v e => e.apply i c v) (f.base.getD i 0)

/-- Enter a write in issue order. -/
def RegFile.push {w : Nat} (f : RegFile w) (e : PendWrite w) : RegFile w := { f with pend := f.pend ++ [e] }

/-- The value of bits of a write in flight, found when its access performs. -/
def fillPend {w : Nat} (l : List (PendWrite w)) (iss slot idx : Nat) (mask v : BitVec w) : List (PendWrite w) :=
  l.map fun e => if e.iss = iss ∧ e.slot = slot ∧ e.idx = idx then { e with val := (e.val &&& ~~~mask) ||| (v &&& mask) } else e
/-- Bits of a write in flight that are not written after all. -/
def unmaskPend {w : Nat} (l : List (PendWrite w)) (iss slot idx : Nat) (mask : BitVec w) : List (PendWrite w) :=
  l.map fun e => if e.iss = iss ∧ e.slot = slot ∧ e.idx = idx then { e with mask := e.mask &&& ~~~mask } else e
/-- A write that does not take place. -/
def dropPend {w : Nat} (l : List (PendWrite w)) (iss slot idx : Nat) : List (PendWrite w) :=
  l.filter fun e => !(e.iss == iss && e.slot == slot && e.idx == idx)

/-- Move the writes that are available, up to the first that is not, into the settled values. -/
def settleInto {w : Nat} (now : Nat) (base : List (BitVec w)) : List (PendWrite w) → RegFile w
  | [] => ⟨base, []⟩
  | e :: r =>
    if e.avail ≤ now then settleInto now (base.set e.idx (e.apply e.idx now (base.getD e.idx 0))) r
    else ⟨base, e :: r⟩
def RegFile.settle {w : Nat} (f : RegFile w) (now : Nat) : RegFile w := settleInto now f.base f.pend

/-- A write that is available at once to every later read. -/
def RegFile.poke {w : Nat} (f : RegFile w) (i now : Nat) (v : BitVec w) : RegFile w :=
  f.push { idx := i, iss := now, slot := 7, avail := now, mask := BitVec.allOnes w, val := v }

/-- Cycles by which a read at c is early: the latest-issued write to the register, of an earlier word, becomes available after c (R164). -/
def earlyBy {w : Nat} (l : List (PendWrite w)) (i c iss : Nat) : Nat :=
  match (l.filter fun e => e.idx == i && decide (e.iss < iss)).getLast? with
  | some e => e.avail - c
  | none => 0

/-! Special register numbers (R167). -/
def spTSTART : Nat := 0
def spGCY : Nat := 1
def spTILEXY : Nat := 2
def spPHYXY : Nat := 3
def spDOM : Nat := 4
def spPART : Nat := 5
def spSRSEED : Nat := 6
def spSRCTR : Nat := 7
def spCHKCTL : Nat := 9
def spRBNEXT : Nat := 10
def spXVEC : Nat := 11
def spXSAVE : Nat := 12
def spTLVL : Nat := 13
/-- XC, XPC, XVA, XST of trap level k = 1, 2. -/
def spXC (k : Nat) : Nat := 10 + 4 * k
def spXPC (k : Nat) : Nat := 11 + 4 * k
def spXVA (k : Nat) : Nat := 12 + 4 * k
def spXST (k : Nat) : Nat := 13 + 4 * k
def spWP (ch : Nat) : Nat := 22 + ch
def spK : Nat := 26
def spLS (k : Nat) : Nat := 32 + k
def spLE (k : Nat) : Nat := 36 + k
def spLC (k : Nat) : Nat := 40 + k
def spLM (k : Nat) : Nat := 44 + k

/-- A special register marked R has no effect from WRSP; numbers 27 to 31 ignore writes (R167, R303). -/
def spWritable (n : Nat) : Bool :=
  !(n ≤ 5 || n == 10 || n == 13 || (22 ≤ n && n ≤ 25) || (27 ≤ n && n ≤ 31) || 48 ≤ n)
/-- The bits that a special register keeps: its width, less its reserved bits (R7, R33, R152, R164, R167, R243, R312). -/
def spMask (n : Nat) : BitVec 64 :=
  match n with
  | 0 | 1 | 5 | 10 => 0xFFFFFFFFFFFFFFFF
  | 3 => 0xFFFF | 4 => 0x3FFFFFFF | 13 => 3
  | 8 => 0x1F | 9 => 1 | 11 => 0xFFFFFFF0
  | 12 => 0x0000FFFFFFFFFFFF
  | 16 | 20 => 0xFFFFFFFFFFFFFFFF
  | 17 | 21 => 0xFFFFFFE0
  | 32 | 33 | 34 | 35 => 0x800FFFFF
  | 36 | 37 | 38 | 39 => 0xFFFF
  | 27 | 28 | 29 | 30 | 31 => 0
  | _ => 0xFFFFFFFF

/-! Reads at a cycle. -/

def Tile.s32 (t : Tile) (c i : Nat) : Word := if i = 0 then 0 else t.s.read i c
def Tile.pr (t : Tile) (c i : Nat) : Bool := if i = 0 then true else t.p.read i c == 1
def Tile.q32 (t : Tile) (c i : Nat) : Nat := (t.q.read i c).toNat
def Tile.mreg (t : Tile) (c i : Nat) : Nat := (t.m.read i c).toNat
/-- A mask field's active elements, for an instruction of up to 4,096 of them (R277). -/
def Tile.maskField (t : Tile) (c : Nat) (f : BitVec 3) : Nat := if f = 0 then 2 ^ 4096 - 1 else t.mreg c f.toNat
def Tile.spr (t : Tile) (c n : Nat) : BitVec 64 := t.sp.read n c
def Tile.kreg (t : Tile) (c : Nat) : Word := (t.spr c spK).setWidth 32
def Tile.tstart (t : Tile) (c : Nat) : Nat := (t.spr c spTSTART).toNat
def Tile.tlvl (t : Tile) (c : Nat) : Nat := (t.spr c spTLVL).toNat
/-- The checker's switch (R164). -/
def Tile.chk (t : Tile) (c : Nat) : Bool := (t.spr c spCHKCTL).getLsbD 0
/-- The tile's own counter on a cycle, of 64 bits (R47). -/
def Tile.gcy (t : Tile) (c : Nat) : Nat := (((c : Int) + t.gofs) % 2 ^ 64).toNat
/-- The cycle on which the tile's counter reads g; 0 when it has passed g before the first cycle. -/
def Tile.cycleOf (t : Tile) (g : Nat) : Nat :=
  let k := (g : Int) - t.gofs
  (if k < 2 ^ 64 then k else k - 2 ^ 64).toNat
/-- Cycles since TSTART on the tile's counter. -/
def Tile.rel (t : Tile) (c : Nat) : Nat := (((t.gcy c : Int) - t.tstart c) % 2 ^ 64).toNat
/-- The difference of two counters or samples, as a signed number of 64 bits (R49). -/
def counterDiff (a b : Nat) : Int := Int.bmod ((a : Int) - b) (2 ^ 64)

/-! The active configuration plane (R135, R137). -/

def offTarget : Nat := 16384
def offShuffle : Nat := 16640
def offFmt : Nat := 24832
def offBuf : Nat := 24960
def offSeq : Nat := 25984
def offSwitch : Nat := 26752
def offRules : Nat := 30848
def offPart : Nat := 30976
def offTag : Nat := 30984
def planeBytes : Nat := 30984

def Tile.cfg (t : Tile) : Mem := if t.second then t.cfg1 else t.cfg0
def Tile.shadow (t : Tile) : Mem := if t.second then t.cfg0 else t.cfg1
/-- A control word (R162). -/
def Tile.ctlWord (t : Tile) (i : Nat) : Nat := t.cfg.nat (32 * i) 32
/-- A target-table entry's TGT (R308). -/
def Tile.target (t : Tile) (i : Nat) : Nat := t.cfg.nat (offTarget + 4 * i) 4 % 65536
def Tile.pattern (t : Tile) (i : Nat) : Nat := t.cfg.nat (offShuffle + 128 * i) 128
/-- A format-table entry (R203). -/
def fmtEntryOf (v : Nat) : FmtEntry :=
  { afmt := bitsAt v 59 5, bfmt := bitsAt v 54 5, asrc := bitsAt v 52 2, bsrc := bitsAt v 50 2
    ofmt := bitsAt v 43 5, ornd := bitsAt v 40 3, pint := bitsAt v 38 2, v := bitAt v 37 }
def Tile.fmtEntry (t : Tile) (i : Nat) : FmtEntry := fmtEntryOf (t.cfg.nat (offFmt + 8 * (i % 16)) 8)
/-- A buffer record (R176). -/
def bufRecOf (v : Nat) : BufRec :=
  { space := bitsAt v 253 3, fmt := bitsAt v 248 5, bmode := bitsAt v 246 2, ocls := bitsAt v 242 4
    base := bitsAt v 192 48, oext := bitsAt v 176 16, iext := bitsAt v 160 16
    ostep := sext 24 (bitsAt v 136 24), istep := sext 24 (bitsAt v 112 24) }
def Tile.bufRec (t : Tile) (i : Nat) : BufRec := bufRecOf (t.cfg.nat (offBuf + 32 * i) 32)
/-- A sequencer record (R179). -/
def seqRecOf (v : Nat) : SeqRec :=
  { srec := bitsAt v 379 5, drec := bitsAt v 374 5, mrec := bitsAt v 369 5, rnd := bitsAt v 363 3
    ssrc := bitsAt v 360 3, sconst := bitsAt v 328 32
    levels := (List.range (bitsAt v 366 3)).map fun l =>
      (bitsAt v (48 * l + 32) 16 + 1, sext 16 (bitsAt v (48 * l + 16) 16), sext 16 (bitsAt v (48 * l) 16)) }
def Tile.seqRec (t : Tile) (i : Nat) : SeqRec := seqRecOf (t.cfg.nat (offSeq + 48 * i) 48)
def Tile.switchWord (t : Tile) (e : Nat) : Nat := t.cfg.nat (offSwitch + 8 * e) 8
/-- A plane-rule entry: 64 bits (R221). -/
def Tile.ruleWord (t : Tile) (i : Nat) : Nat := t.cfg.nat (offRules + 8 * i) 8

/-! The pool's layout (R171). -/

structure Layout where
  cb : Nat
  pl : Nat
  pb : Nat
  ab : Nat
  vb : Nat
  acc : Nat
  vreg : Nat
  deriving DecidableEq, Repr

def poolTop : Nat := 0x200000

/-- The bases that a partition word gives. -/
def layoutOf (w : Nat) : Layout :=
  let vreg := bitsAt w 30 5
  let vb := poolTop - 2048 * vreg
  let acc := bitsAt w 35 8
  let ab := vb - 4608 * acc
  let pl := 4096 * bitsAt w 43 7
  { cb := 8192 * bitsAt w 50 6, pl := pl, pb := ab - 2 * pl, ab := ab, vb := vb, acc := acc, vreg := 4 * vreg }

def Tile.partWord (t : Tile) : Nat := t.cfg.nat offPart 8
def Tile.lay (t : Tile) : Layout := layoutOf t.partWord

/-- The code half of the active plane: its first byte and its halfwords (R139, R171). -/
def Tile.codeBase (t : Tile) : Nat := if t.second then t.lay.cb / 2 else 0
def Tile.codeLen (t : Tile) : Nat := t.lay.cb / 4
/-- A halfword of the code half. -/
def Tile.half (t : Tile) (pc : Nat) : Nat := t.pool.nat (t.codeBase + 2 * pc) 2

/-- The vector allotment for a word that issues, or an access that performs, at c (R170, R347). -/
def Tile.allotAt (t : Tile) (c : Nat) : Nat :=
  match t.shrink with
  | some (from_, n) => if from_ ≤ c then min t.allot n else t.allot
  | none => t.allot

/-- A V result that becomes available when its register has been released: a write of memory (R347). -/
def Tile.released (t : Tile) (e : PendWrite 1024) : Bool := decide (t.allotAt e.avail ≤ e.idx / 4)

/-- The parts of the pool (R172). -/
inductive Part where
  | code | scratch | plane | cells | acc | vreg | released | outside
  deriving DecidableEq, Repr

/-- The part that a pool byte lies in at cycle c. -/
def Tile.partOf (t : Tile) (c a : Nat) : Part :=
  let l := t.lay
  if a ≥ poolTop then .outside
  else if a ≥ l.vb then if (a - l.vb) / 512 < t.allotAt c then .vreg else .released
  else if a ≥ l.ab then .acc
  else if a ≥ l.pb + l.pl then .cells
  else if a ≥ l.pb then .plane
  else if a ≥ l.cb then .scratch
  else .code

/-- Reads that R172 forbids. -/
def Part.noRead : Part → Bool
  | .cells | .vreg | .outside => true
  | _ => false
/-- Writes that R172 forbids. -/
def Part.noWrite : Part → Bool
  | .code | .cells | .vreg | .outside => true
  | _ => false

/-! Vector registers (R168). -/

/-- The settled bytes of beat `b` of register `v` (R168, R347). -/
def Tile.vBase (t : Tile) (v b : Nat) : BitVec 1024 := BitVec.ofNat 1024 (t.pool.nat (t.lay.vb + 512 * v + 128 * b) 128)
/-- One beat of a vector register read at c. -/
def Tile.vBeat (t : Tile) (c v b : Nat) : BitVec 1024 := t.vp.foldl (fun x e => e.apply (4 * v + b) c x) (t.vBase v b)
/-- The first `n` beats of a vector register read at c, beat 0 in the low bits. -/
def Tile.vreg (t : Tile) (c v n : Nat) : Nat := (List.range n).foldl (fun acc b => acc + (t.vBeat c v b).toNat * 2 ^ (1024 * b)) 0

/-- A vector write reaches the pool at cycle `now`: it is available, and in an allotted register no write to the same beat that issued before it is still in flight; to a register at or above `allot` it is a write of memory, at the end of its cycle (R168, R347). -/
def settlesV (now allot : Nat) (kept : List (PendWrite 1024)) (e : PendWrite 1024) : Bool :=
  if e.idx / 4 < allot then decide (e.avail ≤ now) && !(kept.any fun k => k.idx == e.idx) else decide (e.avail < now)
/-- The vector writes that stay in flight at `now`, in issue order. -/
def keptV (now allot : Nat) (l : List (PendWrite 1024)) : List (PendWrite 1024) :=
  l.foldl (fun kept e => if settlesV now allot kept e then kept else kept ++ [e]) []
def insertV (e : PendWrite 1024) : List (PendWrite 1024) → List (PendWrite 1024)
  | [] => [e]
  | h :: r => if e.avail < h.avail then e :: h :: r else h :: insertV e r
/-- Those that reach the pool: allotted registers in issue order, then released ones in the order of their cycles. -/
def doneV (now allot : Nat) (l : List (PendWrite 1024)) : List (PendWrite 1024) :=
  let r := l.foldl (fun (acc : List (PendWrite 1024) × List (PendWrite 1024)) e => if settlesV now allot acc.1 e then (acc.1, acc.2 ++ [e]) else (acc.1 ++ [e], acc.2)) ([], [])
  (r.2.filter fun e => decide (e.idx / 4 < allot)) ++ (r.2.filter fun e => !decide (e.idx / 4 < allot)).foldl (fun l e => insertV e l) []
/-- The pool after one vector write. -/
def putV (vb : Nat) (pool : Mem) (e : PendWrite 1024) : Mem :=
  let a := vb + 128 * e.idx
  pool.put a 128 (e.apply e.idx e.avail (BitVec.ofNat 1024 (pool.nat a 128))).toNat
/-- A vector write changes a byte of the pool word at `u`. -/
def PendWrite.touches (vb u : Nat) (e : PendWrite 1024) : Bool :=
  decide (vb + 128 * e.idx ≤ u) && decide (u < vb + 128 * e.idx + 128) && bitsAt e.mask.toNat (8 * (u - (vb + 128 * e.idx))) 32 != 0

/-- The vector writes in flight once those that are available have reached the pool: they have no bits left, and a write that issued before one of them has lost the bits that it covers (R162, R168). -/
def flushedV (now : Nat) : List (PendWrite 1024) → List (PendWrite 1024)
  | [] => []
  | e :: r =>
    let newer := (r.filter fun o => o.idx == e.idx && decide (o.avail ≤ now)).foldl (fun m o => m ||| o.mask) 0
    { e with mask := if e.avail ≤ now then 0 else e.mask &&& ~~~newer } :: flushedV now r
/-- Settle every register file at a cycle. -/
def Tile.settle (t : Tile) (now : Nat) : Tile :=
  let done := if t.vp.isEmpty then [] else doneV now (t.allotAt now) t.vp
  let fpst := t.fpstAt now
  let sp := t.sp.settle now
  let quiet := !(sp.pend.any fun e => e.idx == spFPST)
  { t with
    s := t.s.settle now, p := t.p.settle now, m := t.m.settle now, q := t.q.settle now
    sp := if quiet then { sp with base := sp.base.set spFPST fpst } else sp
    fp := if quiet then t.fp.filter (fun e => decide (now < e.1)) else t.fp
    pool := done.foldl (putV t.lay.vb) t.pool, vp := keptV now (t.allotAt now) t.vp
    upsets := if t.upsets.isEmpty then [] else t.upsets.filter fun u => !(done.any fun e => e.touches t.lay.vb u)
    shrink := match t.shrink with | some (f, n) => if f ≤ now then none else some (f, n) | none => none
    allot := t.allotAt now
    localIn := t.localIn.filter (fun c => decide (now ≤ c)) }

/-- Every vector result that is available reaches the pool, also one behind an earlier write still in flight. -/
def Tile.flushV (t : Tile) (now : Nat) : Tile :=
  let t := t.settle now
  let done := t.vp.filter fun e => decide (e.avail ≤ now) && !t.released e
  if done.isEmpty then t
  else { t with
    pool := done.foldl (putV t.lay.vb) t.pool, upsets := t.upsets.filter fun u => !(done.any fun e => e.touches t.lay.vb u)
    vp := (flushedV now (t.vp.filter fun e => !t.released e)) ++ t.vp.filter t.released }

/-! Writes of results. -/

/-- Enter a result write of a slot issued at `iss` (R162, R184); S0 and P0 discard theirs (R166). -/
def Tile.pushRW (t : Tile) (iss slot : Nat) (r : RW) : Tile :=
  let av := iss + r.off
  match r.file with
  | .s => if r.idx = 0 then t else { t with s := t.s.push ⟨r.idx, iss, slot, av, BitVec.ofNat 32 r.mask, BitVec.ofNat 32 r.val⟩ }
  | .p => if r.idx = 0 then t else { t with p := t.p.push ⟨r.idx, iss, slot, av, 1, BitVec.ofNat 1 r.val⟩ }
  | .m => { t with m := t.m.push ⟨r.idx, iss, slot, av, BitVec.ofNat 1024 r.mask, BitVec.ofNat 1024 r.val⟩ }
  | .q => { t with q := t.q.push ⟨r.idx, iss, slot, av, BitVec.ofNat 32 r.mask, BitVec.ofNat 32 r.val⟩ }
  | .sp => { t with sp := t.sp.push ⟨r.idx, iss, slot, av, BitVec.ofNat 64 r.mask, BitVec.ofNat 64 r.val⟩ }
  | .v => { t with vp := t.vp ++ [⟨r.idx, iss, slot, av, BitVec.ofNat 1024 r.mask, BitVec.ofNat 1024 r.val⟩] }

/-- A full scalar result. -/
def rwS (d off : Nat) (v : Word) : RW := ⟨.s, d, off, 2 ^ 32 - 1, v.toNat⟩
def rwP (d off : Nat) (v : Bool) : RW := ⟨.p, d, off, 1, if v then 1 else 0⟩
def rwQ (d off v : Nat) : RW := ⟨.q, d, off, 2 ^ 32 - 1, v⟩
def rwSp (n off : Nat) (v : BitVec 64) : RW := ⟨.sp, n, off, 2 ^ 64 - 1, v.toNat⟩

/-- The writes and flags of a result. -/
def Tile.pushOut (t : Tile) (iss slot : Nat) (o : Out) : Tile :=
  let t := o.ws.foldl (fun t r => t.pushRW iss slot r) t
  o.fl.foldl (fun t f => t.setFlags (iss + f.1) f.2) t

/-! Memory operands (R176, R177, R364). -/

/-- Storage width of a record (R177, R364). -/
def BufRec.width (r : BufRec) : Nat := fmtWidth r.fmt
/-- The byte address that offset 0 of a record's space has in the pool; operand memory has its own addresses. -/
def Tile.spaceBase (t : Tile) (space : Nat) : Nat :=
  match space with
  | 1 => t.lay.pb
  | 3 => t.lay.ab
  | _ => 0

/-- What becomes of an index pair under a record's bounds (R177): an address in bits, nothing performed (zero read), or cause 0x20. -/
inductive Place where
  | at_ (ba : Nat)
  | zero
  | trap (i0 i1 : Int)
  deriving DecidableEq, Repr

/-- The bit address of an index pair, in the pool or in operand memory. -/
def Tile.bitAddr (t : Tile) (r : BufRec) (i0 i1 : Int) : Nat :=
  (8 * ((t.spaceBase r.space + r.base : Nat) : Int) + (i0 * r.istep + i1 * r.ostep) * (r.width : Int)).toNat

/-- An index pair under the bounds and BMODE (R177). -/
def Tile.place (t : Tile) (r : BufRec) (i0 i1 : Int) : Place :=
  if 0 ≤ i0 ∧ i0 < r.iext ∧ 0 ≤ i1 ∧ i1 < r.oext then .at_ (t.bitAddr r i0 i1)
  else match r.bmode with
    | 0 => .trap i0 i1
    | 1 => .at_ (t.bitAddr r (clampInt 0 (r.iext - 1) i0) (clampInt 0 (r.oext - 1) i1))
    | _ => .zero

/-- A linear index: (e mod IEXT, e div IEXT); a negative one is out of bounds and clamps to (0, 0) (R177, R364). -/
def Tile.placeLin (t : Tile) (r : BufRec) (e : Int) : Place :=
  if e < 0 then
    match r.bmode with
    | 0 => .trap (e % (r.iext : Int)) (e / (r.iext : Int))
    | 1 => .at_ (t.bitAddr r 0 0)
    | _ => .zero
  else t.place r (e % (r.iext : Int)) (e / (r.iext : Int))

/-- XVA of cause 0x20: record, i1, i0 (R240). -/
def boundsXva (rec : Nat) (i0 i1 : Int) : Nat := rec * 2 ^ 48 + wrapN 24 i1 * 2 ^ 24 + wrapN 24 i0

/-- e0 of a memory operand (R364). -/
def Tile.operandBase (t : Tile) (c : Nat) (x : BitVec 5) (imm : Int) : Int := (t.s32 c x.toNat).toInt + imm

end Sys2Proof.Machine
end

