-- ==== Sys2Proof/Machine/Ops.lean ====
section
/-! DEFINITION. The operations that every meaning of a tile shares: the deviation log, raising causes, taking a trap and returning from one, freezing, the present and next planes, checks on accesses, and the writes of one cycle (R172, R215 to R229, R239 to R252, R262, R265). -/

namespace Sys2Proof.Machine

/-- The phases of a cycle (log 5, DEDUCED). -/
def phExpire : Nat := 1
def phLand : Nat := 2
def phRelease : Nat := 3
def phStop : Nat := 4
def phStart : Nat := 5
def phIssue : Nat := 6
def phClaim : Nat := 7
def phRead : Nat := 8
def phWrite : Nat := 9
def phEnd : Nat := 10

/-! The deviation log (R262). -/

def noPc : Nat := 0xFFFFFFFF
def sat32u (n : Nat) : Nat := min n 0xFFFFFFFF

/-- One entry of the log, for the launch that holds the tile: an entry beyond the 32nd is counted and not stored. The LOST of KIND 3 and KIND 6 is no count of cycles (R388). -/
def Tile.addLog (t : Tile) (c pc cause kind lost : Nat) : Tile :=
  let e : DevEntry := { pc := pc, cause := cause, kind := kind, rx := t.rx, ry := t.ry, lost := sat32u lost, cyc := wrapN 32 (t.gcy c - t.base) }
  { t with
    log := if t.log.length < 32 then t.log ++ [e] else t.log
    logCount := t.logCount + 1
    logLost := if kind = 3 ∨ kind = 6 then t.logLost else t.logLost + sat32u lost }

/-! Imprecise causes (R244). -/

/-- Enter a cause in raise order, causes of one cycle by ascending code. -/
def insertCause (e : PendCause) : List PendCause → List PendCause
  | [] => [e]
  | h :: r => if h.raise < e.raise ∨ (h.raise = e.raise ∧ h.cause ≤ e.cause) then h :: insertCause e r else e :: h :: r

/-- The causes that are taken at any level (R244). -/
def urgent (cause : Nat) : Bool := cause == 0x21 || cause == 0x22

/-- Enter a cause into the pending set of four; the fifth is discarded and logged (R244). -/
def Tile.pend (t : Tile) (c : Nat) (e : PendCause) : Tile :=
  let l := insertCause e t.pendc
  match l.drop 4 with
  | [] => { t with pendc := l }
  | d :: _ => { t.addLog c noPc d.cause 6 0 with pendc := l.take 4, mult := true }
/-- Raise an imprecise cause at a cycle (R244). Between iterations and after the last it is logged and discarded, but not on the next start cycle (R320); so is a cause that comes after the launch has left the tile; a frozen tile takes none. -/
def Tile.raise (t : Tile) (c cause xva sub src : Nat) : Tile :=
  match t.seq.mode with
  | .run | .debug => t.pend c { cause := cause, raise := c, xva := xva, sub := sub, src := src, dfr := decide (t.tlvl c ≥ 1) && !urgent cause }
  | .between =>
    if t.startG = some (t.gcy c) ∧ !t.draining then t.pend c { cause := cause, raise := c, xva := xva, sub := sub, src := src, dfr := false }
    else t.addLog c noPc cause 6 0
  | .done | .stopped | .idle => t.addLog c noPc cause 6 0
  | .frozen => t

/-- The causes of a list: code, XVA, SUB. -/
def Tile.raiseAll (t : Tile) (c src : Nat) (l : List (Nat × Nat × Nat)) : Tile :=
  l.foldl (fun t e => t.raise c e.1 e.2.1 e.2.2 src) t

/-- Record a cause of kind R (R239). -/
def Tile.record (t : Tile) (c pc cause : Nat) : Tile := t.addLog c pc cause 6 0

/-! Freeze, trap entry and return (R245 to R247, R252). -/

/-- A tile freezes at cycle f (R252). -/
def Tile.freeze (t : Tile) (f pc cause : Nat) : Tile :=
  let t := t.addLog f pc 0xBF 3 cause
  { t with
    seq := { t.seq with mode := .frozen, due := none, hold := .none, xfer := none, loopTrap := [] }
    pendc := [], svc := t.svc.filter fun v => some v.launch != t.launch, arr := [true, true, true], out := t.out ++ [.froze cause] }

/-- What a trap records beside its cause. -/
structure TrapInfo where
  cause : Nat
  pre : Bool
  /-- raise cycle -/
  raise : Nat
  xva : Nat
  sub : Nat
  src : Nat
  /-- the pending target when the word at XPC is a delay slot -/
  dtgt : Option Nat
  xpc : Nat
  dfr : Bool
  deriving DecidableEq, Repr

/-- The XST word (R243). -/
def xstWord (i : TrapInfo) (mult : Bool) : Nat :=
  i.dtgt.getD 0 % 65536 * 2 ^ 16 + (if i.dtgt.isSome then 2 ^ 15 else 0) + (if i.pre then 2 ^ 14 else 0)
    + (if mult then 2 ^ 13 else 0) + (if i.dfr then 2 ^ 12 else 0) + i.sub % 16 * 2 ^ 8 + i.src % 8 * 2 ^ 5

/-- Write a special register so that every later read sees it. -/
def Tile.pokeSp (t : Tile) (n c : Nat) (v : Nat) : Tile := { t with sp := t.sp.poke n c (BitVec.ofNat 64 v) }

/-- The bank in force at f gives XPC, XVA and XST of the kill's fault record; the cycle of the fault is that of the raise (R389). -/
def Tile.frozenAs (t : Tile) (f : Nat) (i : TrapInfo) : Tile :=
  let k := min 2 (t.tlvl f)
  let r : FreezeRec :=
    if k = 0 then { at_ := i.raise, cause := i.cause, xpc := i.xpc, xva := i.xva, xst := xstWord i false }
    else { at_ := i.raise, cause := i.cause, xpc := (t.spr f (spXPC k)).toNat, xva := (t.spr f (spXVA k)).toNat, xst := (t.spr f (spXST k)).toNat }
  match t.frz with
  | some _ => t
  | none => { t with frz := some r }

/-- The freeze that a word which acted brings on the cycle after its issue (R389). -/
def Tile.freezeNext (t : Tile) (f pc cause : Nat) : Tile :=
  (t.frozenAs f { cause := cause, pre := true, raise := f - 1, xva := 0, sub := 0, src := 5, dtgt := none, xpc := pc, dfr := false }).freeze f pc cause

/-- Enter a micro-action. -/
def Tile.sched (t : Tile) (at_ ph iss slot : Nat) (chk : Bool) (k : ActKind) : Tile :=
  { t with acts := t.acts ++ [⟨at_, ph, iss, slot, chk, k⟩] }

/-- Take a trap at cycle u (R245): at level 2 the tile freezes, on the next cycle when the raising word acts (R389); otherwise the bank of the next level is written, TLVL rises, and the first handler word is due at u + 4, or the tile freezes when the handler lies outside the code half. -/
def Tile.takeTrap (t : Tile) (u : Nat) (i : TrapInfo) : Tile :=
  if t.tlvl u ≥ 2 then
    if i.pre && (i.cause == 0x07 || i.cause == 0x43) then
      { t with seq := { t.seq with due := none, hold := .freezing } }.sched (u + 1) phExpire u 5 false (.freeze i.xpc i.cause)
    else (t.frozenAs u { i with raise := u }).freeze u i.xpc i.cause
  else
    let k := t.tlvl u + 1
    let raise := ((t.gcy i.raise : Int) - t.tstart u) % (2 ^ 24 : Nat)
    let slot := if t.log.length < 32 then some t.log.length else none
    let t1 := (t.addLog u i.xpc i.cause 1 0)
    let t2 : Tile := { t1 with
      log := match slot with | some n => t1.log.modify n (fun e => { e with lost := 0xFFFFFFFF }) | none => t1.log
      openTraps := t1.openTraps.set (k - 1) (some { slot := slot, took := u }) }
    let t3 := ((((t2.pokeSp (spXC k) u (raise.toNat * 256 + i.cause)).pokeSp (spXPC k) u i.xpc).pokeSp (spXVA k) u i.xva).pokeSp
      (spXST k) u (xstWord i t.mult)).pokeSp spTLVL u k
    let pc := ((t.spr u spXVEC).toNat + 16 * i.cause)
    let t4 : Tile := { t3 with
      mult := false
      pendc := t3.pendc.map fun e => if urgent e.cause then e else { e with dfr := true }
      seq := { t3.seq with pc := pc, due := some (u + 4), xfer := none, afterLit := false, hold := .none, waitPc := none } }
    if pc ≥ t.codeLen then (t4.frozenAs u { i with raise := u, cause := 0x08 }).freeze u pc 0x08 else t4

/-- Return from level k ≥ 1 (R247): TLVL falls, and the word at XPC issues at `at_`, with its pending target when it is a delay slot. The trap's LOST is written when that word issues (R262). Causes 0x06 that were due at the levels left, or at another word of the level returned to, are due no more (R314). -/
def Tile.trapReturn (t : Tile) (c at_ : Nat) : Tile :=
  let k := t.tlvl c
  let xpc := (t.spr c (spXPC k)).toNat
  let xst := (t.spr c (spXST k)).toNat
  let cause := (t.spr c (spXC k)).toNat % 256
  let t1 := t.pokeSp spTLVL c (k - 1)
  { t1 with
    openTraps := t1.openTraps.set (k - 1) none
    returned := t1.returned ++ ((t1.openTraps.getD (k - 1) none).map fun o => (k - 1, o)).toList
    seq := { t1.seq with
      pc := xpc, due := some at_, xfer := if bitAt xst 15 then some (xst / 65536) else none
      loopTrap := t1.seq.loopTrap.filter fun e => decide (e.2.2 < k - 1) || (e.2.2 == k - 1 && e.1 == xpc)
      noWatch := if cause = 0x2B then some xpc else t1.seq.noWatch } }
/-- The first word at a level issues after a return to it: the trap's LOST is its issue cycle less the take cycle (R262, R388). -/
def Tile.noteReturn (t : Tile) (c : Nat) : Tile :=
  let lvl := t.tlvl c
  let put : Tile → OpenTrap → Tile := fun t o =>
    let lost := sat32u (c - o.took)
    { t with
      log := match o.slot with | some n => t.log.modify n (fun e => { e with lost := lost }) | none => t.log
      logLost := t.logLost + lost }
  let mine := t.returned.filter fun e => e.1 == lvl
  { (mine.map (·.2)).foldl put t with returned := t.returned.filter fun e => e.1 != lvl }
/-- The traps that will never be seen to return count with the greatest LOST (R262). -/
def Tile.lostTraps (t : Tile) : Nat := ((t.openTraps.filter fun o => o.isSome).length + t.returned.length) * 0xFFFFFFFF

/-! Pool reads and the planes (R223). -/

/-- The word of the plane region that a pool byte lies in. -/
def Tile.planeWord (t : Tile) (a : Nat) : Nat := (a - t.lay.pb) / 4
/-- Where the present plane holds a byte of the plane region. -/
def Tile.present (t : Tile) (a : Nat) : Nat :=
  let l := t.lay
  if l.pb ≤ a ∧ a < l.pb + l.pl then if t.sel.contains (t.planeWord a) then a + l.pl else a else a
/-- Where the next plane holds it. -/
def Tile.nextCell (t : Tile) (a : Nat) : Nat := if t.sel.contains (t.planeWord a) then a else a + t.lay.pl

/-- A read of `n ≤ 4` aligned bytes of the pool: the present plane in the plane region (R223). -/
def Tile.rdPool (t : Tile) (a n : Nat) : Nat := t.pool.nat (t.present a) n
/-- A read of an element of the pool or of operand memory. -/
def Tile.rdElem (t : Tile) (pool : Bool) (ba w : Nat) : Nat :=
  let n := if w < 8 then 1 else w / 8
  let v := if pool then t.rdPool (ba / 8) n else t.opm.nat (ba / 8) n
  if w < 8 then v / 2 ^ (ba % 8) % 2 ^ w else v

/-- An element of width 16 or 32 at a bit address that is not a multiple of it (R366). -/
def misaligned (ba w : Nat) : Bool := w ≥ 16 && ba % w != 0

/-- A code that applies, in a list of causes. -/
def given (code : Nat) (c : Bool) : List Nat := if c then [code] else []
/-- The causes that refuse the read of a pool element at cycle c, each of which is raised (R172, R366); the part is that of its first byte (log 15, DESIGN CHOICE). -/
def Tile.readCauses (t : Tile) (c ba w : Nat) : List Nat :=
  given 0x27 (t.partOf c (ba / 8)).noRead ++ given 0x28 (misaligned ba w)

/-- A read of pool bytes meets an uncorrectable error (R394): the stored bits are returned and an ALERT is sent. -/
def Tile.eccRead (t : Tile) (as_ : List Nat) : Tile :=
  if t.upsets.isEmpty then t
  else if as_.any (fun a => t.upsets.contains (t.present a / 4 * 4)) then { t with out := t.out ++ [.alert 0xA0] } else t
/-- A write of cells ends their errors (R394). -/
def Tile.eccWritten (t : Tile) (cells : List Nat) : Tile :=
  if t.upsets.isEmpty then t else { t with upsets := t.upsets.filter fun u => !(cells.any fun a => a / 4 * 4 == u) }

/-! Watchpoints (R265). -/

def watchBit (f : BitVec 4096) (g m : Nat) : Bool := f.getLsbD (g * m / 8 % 4096)
/-- The filter hits a granule. -/
def watchHit (f : BitVec 4096) (g : Nat) : Bool := watchBit f g 0x9E37 && watchBit f g 0x85EB && watchBit f g 0xC2B3
/-- The first watched byte among accessed ones; none at trap level 1 or 2 or for a word that escapes the check. -/
def Tile.watchOf (t : Tile) (c iss : Nat) (wr : Bool) (as_ : List Nat) : Option Nat :=
  if t.tlvl c ≥ 1 || t.seq.skipIss.contains iss || !(t.dbg.getLsbD (if wr then 0 else 1)) then none
  else as_.find? fun a => watchHit t.filt (a / 64)
/-- Raise cause 0x2B for an access of a CP form or a copy (R265). -/
def Tile.watch (t : Tile) (c iss src : Nat) (wr : Bool) (as_ : List Nat) : Tile :=
  match t.watchOf c iss wr as_ with
  | some a => t.raise c 0x2B a (if wr then 1 else 0) src
  | none => t

/-! Plane rules (R221, R225, R228). -/

/-- The valid rule entry that holds a granule of the plane region. -/
def Tile.subRegion (t : Tile) (granule : Nat) : Option Nat :=
  (List.range 16).find? fun i =>
    let w := t.ruleWord i
    bitAt w 63 && decide (bitsAt w 28 12 ≤ granule) && decide (granule ≤ bitsAt w 16 12)
/-- Rule and element type in force for a plane word. -/
def Tile.ruleOf (t : Tile) (word : Nat) : Nat × Bool :=
  match t.subRegion (word / 16) with
  | some i => let r := t.rules.getD i ⟨0, false, none⟩; (r.rule, r.ety)
  | none => (0, false)
/-- A narrow write to an ADD or SUM word (R226). -/
def Tile.partialWrite (t : Tile) (c ba w : Nat) : Bool :=
  (t.partOf c (ba / 8) == .plane) && w != 32 && (let r := (t.ruleOf (t.planeWord (ba / 8))).1; r == 1 || r == 2)

/-- The causes that refuse the write of a pool element at cycle c, each of which is raised (R172, R226, R366); the part is that of its first byte (log 15, DESIGN CHOICE). -/
def Tile.writeCauses (t : Tile) (c ba w : Nat) : List Nat :=
  given 0x27 (t.partOf c (ba / 8)).noWrite ++ given 0x28 (misaligned ba w) ++ given 0x87 (t.partialWrite c ba w)
/-- The causes that refuse an atomic on the word at `addr` on cycle c (R223, R366, R371); the part is that of its first byte (log 15, DESIGN CHOICE). -/
def Tile.atomCauses (t : Tile) (c addr : Nat) : List Nat :=
  let p := t.partOf c addr
  given 0x27 (p == .plane || p.noRead || p.noWrite) ++ given 0x28 (misaligned (8 * addr) 32)

/-! Operand slots (R175). -/

/-- State of a slot that an access performing at t sees: the latest change before t. -/
def Tile.claimedAt (t : Tile) (slot c : Nat) : Bool :=
  match (t.claims.getD slot []).find? (fun e => decide (e.1 < c)) with
  | some e => e.2
  | none => false
/-- A change of a slot that performs at c; older history than needed is dropped. -/
def Tile.setClaim (t : Tile) (slot c : Nat) (v : Bool) : Tile :=
  { t with claims := t.claims.modify slot fun l => (c, v) :: l.take 3 }

/-! The writes of one cycle (R217 to R219, R225). -/

/-- Ranked before: lower rank, then later issue (R218). -/
def WReq.before (a b : WReq) : Bool := a.rank < b.rank || (a.rank == b.rank && b.iss < a.iss)
def insertReq (r : WReq) : List WReq → List WReq
  | [] => [r]
  | h :: t => if h.before r then h :: insertReq r t else r :: h :: t
/-- Writers of a cycle, rank 1 first. -/
def ranked (l : List WReq) : List WReq := l.foldr insertReq []

/-- The first element of each cause of a beat, in element order. -/
def firstOfEach (l : List (Nat × Nat × Nat)) : List (Nat × Nat × Nat) :=
  l.foldl (fun acc e => if acc.any (fun x => x.1 == e.1) then acc else acc ++ [e]) []
/-- The elements of a writer that perform, and the causes of those refused, each of which is raised, once for a beat (R175, R366). -/
def Tile.admitted (t : Tile) (c : Nat) (r : WReq) : List WrElem × List (Nat × Nat × Nat) :=
  let bad : WrElem → List (Nat × Nat × Nat) := fun e =>
    let at_ : Nat → Nat × Nat × Nat := fun k => (k, e.ba / 8, 0)
    let slot := e.ba / 8 / 16384
    if r.pool then (t.writeCauses c e.ba e.w).map at_
    else (if t.claimedAt slot c then [] else [(0x23, 0, slot)]) ++ (given 0x28 (misaligned e.ba e.w)).map at_
  (r.els.filter fun e => (bad e).isEmpty, firstOfEach (r.els.flatMap bad))

/-- Bytes of a memory overlaid by a writer's elements in order. -/
def overlay (rd : Nat → Byte) (els : List WrElem) : List (Nat × Byte) :=
  els.foldl (fun acc e =>
    let a := e.ba / 8
    let put : List (Nat × Byte) → Nat → Byte → List (Nat × Byte) := fun l a b => (l.filter fun x => x.1 != a) ++ [(a, b)]
    if e.w < 8 then
      let old := ((acc.find? fun x => x.1 == a).map (·.2)).getD (rd a)
      let m := (2 ^ e.w - 1) * 2 ^ (e.ba % 8)
      put acc a (BitVec.ofNat 8 ((old.toNat &&& (255 - m)) ||| (e.val % 2 ^ e.w * 2 ^ (e.ba % 8))))
    else (leBytes (e.w / 8) e.val).zipIdx.foldl (fun l x => put l (a + x.2) x.1) acc) []

/-- Bytes that a writer writes outside the plane region. -/
abbrev Bytes := List (Nat × Byte)
/-- A writer's plain bytes: its elements over the memory as it was before the cycle, or its run. -/
def plainBytes (mem : Mem) (els : List WrElem) (run : Option (Nat × List Byte)) : Bytes :=
  overlay mem.get els ++ (match run with
    | some (a, bs) => bs.zipIdx.map fun x => (a + x.2, x.1)
    | none => [])
/-- Bytes joined into runs of rising addresses. -/
def runsOf (l : Bytes) : List (Nat × List Byte) :=
  l.foldr (fun x acc => match acc with
    | (a, bs) :: r => if x.1 + 1 = a then (x.1, x.2 :: bs) :: r else (x.1, [x.2]) :: (a, bs) :: r
    | [] => [(x.1, [x.2])]) []
def writeBytes (m : Mem) (l : Bytes) : Mem := (runsOf l).foldl (fun m x => m.write x.1 x.2) m
/-- The lowest byte that two of the writers share. -/
def collision (ws : List Bytes) : Option Nat :=
  let rec go : List Bytes → Option Nat → Option Nat
    | [], best => best
    | w :: r, best =>
      let hits := w.filter fun x => r.any fun o => o.any fun y => y.1 == x.1
      go r (hits.foldl (fun b x => match b with | some m => some (min m x.1) | none => some x.1) best)
  go ws none

/-- A write of one writer to one plane word: the bits it writes and their values (R217, R364). -/
structure PlaneWrite where
  word : Nat
  be : Nat
  val : Nat
  deriving DecidableEq, Repr

/-- The bytes of a plane word that a write touches, as a mask of bits. -/
def byteMask (be : Nat) : Nat := (List.range 4).foldl (fun acc i => if bitsAt be (8 * i) 8 = 0 then acc else acc + 255 * 2 ^ (8 * i)) 0
/-- The writes of one cycle under PRI, rank 1 first: each byte is that of the first writer that touches it (R225). -/
def priWrites : Nat → List PlaneWrite → List PlaneWrite
  | _, [] => []
  | taken, w :: r => { w with be := w.be &&& (0xFFFFFFFF - taken) } :: priWrites (taken ||| byteMask w.be) r
/-- Bits of a word replaced. -/
def mergeBits (old mask val : Nat) : Nat := (old &&& (0xFFFFFFFF - mask)) ||| (val &&& mask)
/-- A writer's plane writes, one for each word it touches, of its elements in order (R217). -/
def Tile.planeWrites (t : Tile) (els : List WrElem) : List PlaneWrite :=
  els.foldl (fun acc e =>
    let off := e.ba / 8 - t.lay.pb
    let w := off / 4
    let sh := 8 * (off % 4) + (if e.w < 8 then e.ba % 8 else 0)
    let mask := (2 ^ e.w - 1) * 2 ^ sh % 2 ^ 32
    let old := (acc.find? fun p => p.word == w).getD ⟨w, 0, 0⟩
    (acc.filter fun p => p.word != w) ++ [⟨w, old.be ||| mask, mergeBits old.val mask (e.val % 2 ^ e.w * 2 ^ sh)⟩]) []

def insertSorted (n : Nat) : List Nat → List Nat
  | [] => [n]
  | h :: r => if n < h then n :: h :: r else if n = h then h :: r else h :: insertSorted n r

/-- The writes of one cycle to one plane word, in sequence order, under the word's rule (R225). -/
def Tile.planeStep (t : Tile) (c word : Nat) (ws : List PlaneWrite) : Tile :=
  let a := t.lay.pb + 4 * word
  let pres := t.pool.nat (t.present a) 4
  let nextA := t.nextCell a
  let started := t.wrt.contains word
  let cur := t.pool.nat nextA 4
  let done : Nat → Tile → Tile := fun v t => { t with pool := t.pool.put nextA 4 v, wrt := insertSorted word t.wrt }
  let (rule, ety) := t.ruleOf word
  match rule with
  | 0 => done ((priWrites 0 ws).foldl (fun acc w => mergeBits acc w.be w.val) (if started then cur else pres)) t
  | 3 =>
    match ws with
    | [] => t
    | w :: r =>
      if started then ws.foldl (fun t _ => t.raise c 0x80 a 0 7) t
      else r.foldl (fun t _ => t.raise c 0x80 a 0 7) (done (mergeBits pres w.be w.val) t)
  | _ =>
    let init : Option Nat := if started then some cur else if rule = 1 then some pres else none
    let r := ws.foldl (fun (acc : Option Nat × Flags) w =>
      match acc.1 with
      | none => (some w.val, acc.2)
      | some x => if ety then let y := fadd32 x w.val; (some y.1, acc.2 ||| y.2) else (some ((x + w.val) % 2 ^ 32), acc.2)) (init, (0 : Flags))
    (done (r.1.getD cur) t).setFlags c r.2

/-- The bytes that a V result writes. -/
def Tile.vBytes (t : Tile) (e : PendWrite 1024) : Bytes :=
  let a := t.lay.vb + 128 * e.idx
  let v := (e.apply e.idx e.avail (BitVec.ofNat 1024 (t.pool.nat a 128))).toNat
  (List.range 128).filterMap fun i => if bitsAt e.mask.toNat (8 * i) 8 = 0 then none else some (a + i, BitVec.ofNat 8 (v / 2 ^ (8 * i)))
/-- The V results to released registers that become available on cycle c: writers behind those of the table, the later-issued first (R218, R347). -/
def Tile.releasedWrites (t : Tile) (c : Nat) : List Bytes :=
  ((t.vp.filter fun e => e.avail == c && t.released e).map t.vBytes).reverse

/-- For each writer, rank 1 first, the elements that are performed: an admitted element of a FAULT word is refused when the word has been written in this step, or a higher-ranked writer writes it (R223, R225, R227). -/
def Tile.performed (t : Tile) (c : Nat) : List Nat → List (WReq × List WrElem × List (Nat × Nat × Nat)) → List (List WrElem)
  | _, [] => []
  | seen, e :: r =>
    let fault : WrElem → Option Nat := fun x =>
      let w := t.planeWord (x.ba / 8)
      if e.1.pool && t.partOf c (x.ba / 8) == .plane && (t.ruleOf w).1 == 3 then some w else none
    let ok := e.2.1.filter fun x => match fault x with | some w => !(t.wrt.contains w || seen.contains w) | none => true
    ok :: Tile.performed t c (seen ++ ok.filterMap fault) r

/-- All the writes of a tile that perform on cycle c (R217 to R219, R225, R227). A write sets flags, and is seen by the watchpoints and the error store, for the elements that it performs; a drain is no CP access (R265, R396). Several collisions raise one 0x82 (log 15, DESIGN CHOICE). -/
def Tile.performWrites (t : Tile) (c : Nat) (reqs : List WReq) : Tile :=
  let rs := ranked reqs
  let adm := rs.map fun r => (r, t.admitted c r)
  -- causes, flags and watchpoints of each writer
  let t := adm.foldl (fun t e => ((t.raiseAll c e.1.slot e.2.2).raiseAll c e.1.slot e.1.pre)) t
  let perf := adm.zip (t.performed c [] adm)
  let t := perf.foldl (fun t e => t.sinkFlags e.1.1.sink c (e.2.foldl (fun f x => f ||| x.fl) 0)) t
  let t := perf.foldl (fun t e => if e.1.1.pool && e.1.1.slot != 0 && e.1.1.sink != .mst then t.watch c e.1.1.iss e.1.1.slot true (e.2.map (·.ba / 8)) else t) t
  -- plain bytes of the pool
  let isPlane : WrElem → Bool := fun x => t.partOf c (x.ba / 8) == .plane
  let plain := adm.filterMap fun e => if e.1.pool then some (plainBytes t.pool (e.2.1.filter fun x => !isPlane x) e.1.run) else none
  let plain := plain ++ t.releasedWrites c
  let opnd := adm.filterMap fun e => if e.1.pool then none else some (plainBytes t.opm e.2.1 none)
  let pool := plain.reverse.foldl writeBytes t.pool
  let opm := opnd.reverse.foldl writeBytes t.opm
  let hit := match collision plain, collision opnd with
    | some a, _ => some a
    | none, o => o
  let pw := adm.flatMap fun e => if e.1.pool then t.planeWrites (e.2.1.filter isPlane) else []
  let t := t.eccWritten (plain.flatMap fun l => l.map (·.1))
  let t := t.eccWritten (perf.flatMap fun e => if e.1.1.pool then (e.2.filter isPlane).map fun x => t.nextCell (t.lay.pb + 4 * t.planeWord (x.ba / 8)) else [])
  let t : Tile := { t with
    pool := pool, opm := opm
    vp := t.vp.filter fun e => !(e.avail == c && t.released e) }
  let t := match hit with | some a => t.raise c 0x82 a 0 7 | none => t
  let words := pw.foldl (fun acc w => insertSorted w.word acc) []
  words.foldl (fun t w => t.planeStep c w (pw.filter fun x => x.word == w)) t

/-- The plane flip of STEP at a level, at the end of its cycle (R224), with the rules that PMODE left pending (R228). -/
def Tile.flipPlanes (t : Tile) (lvl : Nat) : Tile :=
  let inLvl : Nat → Bool := fun word =>
    match t.subRegion (word / 16) with
    | some i => bitsAt (t.ruleWord i) 58 2 == lvl
    | none => false
  let flips := t.wrt.filter inLvl
  { t with
    sel := flips.foldl (fun l w => if l.contains w then l.filter (· != w) else insertSorted w l) t.sel
    wrt := t.wrt.filter fun w => !inLvl w
    rules := t.rules.zipIdx.map fun r =>
      if bitAt (t.ruleWord r.2) 63 && bitsAt (t.ruleWord r.2) 58 2 == lvl then
        match r.1.next with | some (a, b) => ⟨a, b, none⟩ | none => r.1
      else r.1 }

end Sys2Proof.Machine
end

