-- ==== Sys2Proof/Machine/Perform.lean ====
section
/-! DEFINITION. The micro-actions of a tile when their cycle comes: loads, atomics, claims, copy beats, MSQ beats, promotions, drains, and the reads that come at the end of a cycle (R181, R216, R354, R358, R369 to R379). -/

namespace Sys2Proof.Machine

/-! Early reads under the checker (R164, R220). -/

/-- Element positions and places of a beat of 32 elements from linear index `e`. -/
def Tile.places (t : Tile) (r : BufRec) (e : Int) (n : Nat) : List Place := (List.range n).map fun (i : Nat) => t.placeLin r (e + (i : Int))

def CopyJob.sg (j : CopyJob) : Nat :=
  (if j.gate then 1 else 0) + (if j.cvt then 2 else 0) + (if j.xpose then 4 else 0) + (if j.scale then 2 else 0)
/-- Steps of beat k over the levels, innermost first (R181). -/
def levelSteps : List (Nat × Int × Int) → Nat → Int × Int
  | [], _ => (0, 0)
  | (n, ss, ds) :: r, k =>
    let rest := levelSteps r (k / n)
    (((k % n : Nat) : Int) * ss + rest.1, ((k % n : Nat) : Int) * ds + rest.2)
def CopyJob.srcAt (j : CopyJob) (k : Nat) : Int := j.s0 + (levelSteps j.sr.levels k).1
def CopyJob.dstAt (j : CopyJob) (k : Nat) : Int := j.d0 + (levelSteps j.sr.levels k).2
/-- The completion cycle (R181). -/
def CopyJob.completion (j : CopyJob) : Nat := j.c + 4 + j.sg + j.n
/-- WPch at cycle p: beats whose write cycle lies before p (R182). -/
def CopyJob.wp (j : CopyJob) (p : Nat) : Nat := min (p - (j.c + 4 + j.sg)) j.n

/-- Destination of element `e` of a beat at linear index d: with XPOSE, lane L + e of the slot of addr(DREC, d) (R181, R379). -/
def Tile.copyDst (t : Tile) (j : CopyJob) (d : Int) (e : Nat) : Place :=
  if j.xpose then
    match t.placeLin j.dst d with
    | .at_ ba =>
      let lane := ba / 8 / 512 % 32
      if lane + e < 32 then .at_ (ba + 4096 * e)
      else match j.dst.bmode with
        | 0 => .trap (d % (j.dst.iext : Int)) (d / (j.dst.iext : Int))
        | 1 => .at_ (ba + 4096 * (31 - lane))
        | _ => .zero
    | other => other
  else t.placeLin j.dst (d + e)

/-- A span of bytes: pool or operand memory, address, length. -/
abbrev Span := Bool × Nat × Nat
def Tile.blkAddr (t : Tile) (blk : Nat) : Nat := t.lay.ab + 4608 * blk

/-- New value of an atomic, or none when ACAS fails, and its flags. -/
def atomicNew (op : Nat) (fp : Bool) (old v cmp : Word) : Option Word × Flags :=
  match op with
  | 0x08 => if fp then let r := fpAdd old v; (some r.1, r.2) else (some (old + v), 0)
  | 0x09 => if fp then let r := fpMinMax true old v; (some r.1, r.2) else (some (aluMax old v), 0)
  | 0x0A => if fp then let r := fpMinMax false old v; (some r.1, r.2) else (some (aluMin old v), 0)
  | 0x0B => (some v, 0)
  | _ => (if old = cmp then some v else none, 0)

/-- The element of a write to be performed at cycle c, as far as its address, its slot's claim and its width say (R172, R175, R226, R366). -/
def Tile.willWrite (t : Tile) (c : Nat) (pool : Bool) (ba w : Nat) : Bool :=
  if pool then (t.writeCauses c ba w).isEmpty else t.claimedAt (ba / 8 / 16384) c && !misaligned ba w
/-- Whether an atomic that performs on cycle c writes: an ACAS does when it finds its compare value (R371). -/
def Tile.atomWrites (t : Tile) (_c op : Nat) (fp : Bool) (addr : Nat) (v cmp : Word) : Bool :=
  (atomicNew op fp (BitVec.ofNat 32 (t.rdPool addr 4)) v cmp).1.isSome
/-- The bytes of a write's places that will be written on cycle c. -/
def Tile.spansOf (t : Tile) (c : Nat) (pool : Bool) (w : Nat) (l : List Place) : List Span :=
  l.filterMap fun e => match e with
    | .at_ ba => if t.willWrite c pool ba w then some (pool, ba / 8, max 1 (w / 8)) else none
    | _ => none
/-- The causes that refuse the read of a source element of a copy on cycle c (R366). -/
def Tile.srcCauses (t : Tile) (j : CopyJob) (c : Nat) : Place → List (Nat × Nat × Nat)
  | .at_ ba => (if j.src.space != 2 then t.readCauses c ba j.src.width else given 0x28 (misaligned ba j.src.width)).map fun k => (k, ba / 8, 0)
  | .trap i0 i1 => [(0x20, boundsXva j.sr.srec i0 i1, 0)]
  | .zero => []
/-- The bit that gates beat k of a copy, when there is one that may be read (R379). -/
def Tile.gateBit (t : Tile) (j : CopyJob) (k : Nat) : Option Nat :=
  match t.placeLin j.msk (j.g0 + k) with
  | .at_ ba => if (t.readCauses (j.c + 2 + k) ba 1).isEmpty then some ba else none
  | _ => none
/-- The places that beat k of a copy may write: none when no bit can open its gate, and none for an element whose source is refused. -/
def Tile.beatPlaces (t : Tile) (j : CopyJob) (k : Nat) : List Place :=
  if j.gate && (t.gateBit j k).isNone then []
  else (t.places j.src (j.srcAt k) 32).zipIdx.filterMap fun e => if !(t.srcCauses j (j.c + 2 + k) e.1).isEmpty then none else some (t.copyDst j (j.dstAt k) e.2)
/-- The bytes that an action will write at or after cycle p. What is not decided yet, a gate's bit, a claim, an ACAS, counts as a write (log 33, DEDUCED). -/
def Tile.actSpans (t : Tile) (p : Nat) (a : Act) : List Span :=
  match a.k with
  | .write r => if p ≤ a.at_ then (r.els.filter fun e => t.willWrite a.at_ r.pool e.ba e.w).map (fun e => (r.pool, e.ba / 8, max 1 (e.w / 8))) ++ (match r.run with | some (x, bs) => [(true, x, bs.length)] | none => []) else []
  | .atomic op fp addr v cmp _ =>
    if p < a.at_ ∨ p = a.at_ ∧ t.atomWrites a.at_ op fp addr v cmp then if (t.atomCauses a.at_ addr).isEmpty then [(true, addr, 4)] else [] else []
  | .claim (.toM f els) _ =>
    let w := fmtWidth f
    if p ≤ a.at_ + 2 then (els.filterMap (·.2)).filterMap fun ba => if t.willWrite (a.at_ + 2) true ba w then some (true, ba / 8, max 1 (w / 8)) else none else []
  | .promote q => if p ≤ a.at_ then [(true, t.blkAddr q.blk, 4608)] else []
  | .msqBeat => match t.msq with | some j => [(true, t.blkAddr j.blk, 4608)] | none => []
  | .drainRow _ i (r, _) u v _ _ _ _ _ =>
    if p ≤ a.at_ + 1 then t.spansOf (a.at_ + 1) true r.width ((List.range 32).map fun (k : Nat) => t.place r (u + (k : Int)) (v + (i : Int))) else []
  | .copyBeat ch =>
    match t.copies.getD ch none with
    | some j => (List.range j.n).flatMap fun k =>
        if j.k ≤ k && decide (p ≤ j.c + 4 + j.sg + k) then t.spansOf (j.c + 4 + j.sg + k) (j.dst.space != 2) j.dst.width (t.beatPlaces j k) else []
    | none => []
  | _ => []

/-- The granules that a V result writes as memory at or after cycle p: those of its beat in which it has bits (R347). -/
def Tile.vGranules (t : Tile) (p : Nat) (e : PendWrite 1024) : List Nat :=
  if t.released e ∧ p ≤ e.avail then
    (List.range 2).filterMap fun i => if bitsAt e.mask.toNat (512 * i) 512 = 0 then none else some ((t.lay.vb + 128 * e.idx) / 64 + i)
  else []
/-- A write to the granule of byte `a`, issued before the word at `iss`, performs at or after p; plane words are not counted (R164, R220). -/
def Tile.writeAhead (t : Tile) (p iss : Nat) (pool : Bool) (a : Nat) : Bool :=
  (t.acts.any fun x => decide (x.iss < iss) &&
    (t.actSpans p x).any fun s => s.1 == pool && decide (s.2.1 / 64 ≤ a / 64) && decide (a / 64 ≤ (s.2.1 + s.2.2 - 1) / 64))
    || (pool && t.vp.any fun e => decide (e.iss < iss) && (t.vGranules p e).contains (a / 64))
/-- Cause 0x45 for the first early read of an access, with the checker on, which raises it (R164, R220, R243). -/
def Tile.checkRead (t : Tile) (p iss : Nat) (on pool : Bool) (as_ : List Nat) : Tile :=
  if on then
    match as_.find? fun a => !(pool && t.partOf p a == .plane) && t.writeAhead p iss pool a with
    | some a => t.raise p 0x45 a 0 7
    | none => t
  else t

/-! Loads (R305, R369). -/

def Tile.performLoadS (t : Tile) (a : Act) (d addr size : Nat) (sgn : Bool) : Tile :=
  let t := (t.checkRead a.at_ a.iss a.chk true [addr]).eccRead [addr]
  let v := t.rdPool addr size
  let v := if sgn then wrapN 32 (sInt (8 * size) v) else v
  { t with s := { t.s with pend := fillPend t.s.pend a.iss a.slot d (BitVec.allOnes 32) (BitVec.ofNat 32 v) } }

/-- Positions, places and width of a beat, read: values by position, the refused ones, and their causes, each once. -/
def Tile.readBeat (t : Tile) (c w : Nat) (els : List (Nat × Option Nat)) : List (Nat × Nat) × List Nat × List (Nat × Nat × Nat) :=
  let bad : Nat × Option Nat → List (Nat × Nat × Nat) := fun e => match e.2 with
    | some ba => (t.readCauses c ba w).map fun k => (k, ba / 8, 0)
    | none => []
  (els.filterMap fun e => if (bad e).isEmpty then some (e.1, match e.2 with | some ba => t.rdElem true ba w | none => 0) else none,
   els.filterMap fun e => if (bad e).isEmpty then none else some e.1,
   firstOfEach (els.flatMap bad))

/-- The bytes of the elements that a beat reads: those that no cause refuses (R366). -/
def Tile.accessed (t : Tile) (c w : Nat) (els : List (Nat × Option Nat)) : List Nat :=
  (els.filterMap (·.2)).filterMap fun ba => if (t.readCauses c ba w).isEmpty then some (ba / 8) else none
/-- What a read of pool bytes of a CP form or a copy meets: the checker, the watchpoints, the error store (R220, R265, R394). -/
def Tile.meet (t : Tile) (a : Act) (src : Nat) (as_ : List Nat) : Tile :=
  ((t.checkRead a.at_ a.iss a.chk true as_).watch a.at_ a.iss src false as_).eccRead as_

def Tile.performLoadV (t : Tile) (a : Act) (v beat w : Nat) (els : List (Nat × Option Nat)) : Tile :=
  let t := t.meet a a.slot (t.accessed a.at_ w els)
  let r := t.readBeat a.at_ w els
  let mv := packLanes w r.1
  let off := packLanes w (r.2.1.map fun p => (p, 0))
  let t := t.raiseAll a.at_ a.slot r.2.2
  let l := fillPend t.vp a.iss a.slot (4 * v + beat) (BitVec.ofNat 1024 mv.1) (BitVec.ofNat 1024 mv.2)
  { t with vp := unmaskPend l a.iss a.slot (4 * v + beat) (BitVec.ofNat 1024 off.1) }

/-! Atomics (R371, R372). -/

def Tile.performAtomic (t : Tile) (a : Act) (op : Nat) (fp : Bool) (addr : Nat) (v cmp : Word) (d : Nat) : Tile :=
  match t.atomCauses a.at_ addr with
  | k :: l => { t.raiseAll a.at_ a.slot ((k :: l).map fun k => (k, addr, 0)) with s := { t.s with pend := dropPend t.s.pend a.iss a.slot d } }
  | [] =>
    let t := t.meet a a.slot [addr]
    let old := BitVec.ofNat 32 (t.rdPool addr 4)
    let r := atomicNew op fp old v cmp
    let t : Tile := { t with s := { t.s with pend := fillPend t.s.pend a.iss a.slot d (BitVec.allOnes 32) old } }
    let t := t.setFlags (a.at_ + 1) r.2
    match r.1 with
    | some n => t.sched a.at_ phWrite a.iss a.slot a.chk (.write { rank := 2, iss := a.iss, slot := a.slot, pool := true, els := [⟨8 * addr, 32, n.toNat, 0⟩], run := none, sink := .fpst, pre := [] })
    | none => t

/-! Sending from memory and receiving (R374, R376, R377). -/

/-- SENDM's beat: the flit enters the Local input on the next cycle. -/
def Tile.performSendm (t : Tile) (x y : Nat) (a : Act) (port : Option Nat) (w : Nat) (els : List (Nat × Option Nat)) : Tile :=
  let t := t.meet a a.slot (t.accessed a.at_ w els)
  let r := t.readBeat a.at_ w els
  let bad := r.2.1.map fun p => (p, Config.refusedElem x y (t.fv + p))
  let mv := packLanes w (r.1 ++ bad)
  let t := t.raiseAll a.at_ a.slot r.2.2
  { t with
    fv := if bad.isEmpty then t.fv else t.fv + 512
    out := match port with | some p => t.out ++ [.inject (a.at_ + 1) p ⟨BitVec.ofNat 512 mv.2, false⟩] | none => t.out }

/-- A claim: the landed flit if there is one; otherwise a void word and cause 0x48 (R44). Writes of RECVM rank 8 to 12 by source port (R218). -/
def Tile.performClaim (t : Tile) (a : Act) (k : ClaimKind) : Tile :=
  let got := t.landing
  let t := match got with
    | some l => let t : Tile := { t with landing := none }; if l.flit.poison then t.record a.at_ noPc 0x81 else t
    | none => t.raise a.at_ 0x48 0 0 a.slot
  let data : Nat := match got with | some l => l.flit.data.toNat | none => 0
  match k with
  | .toV v beat =>
    let sh := 512 * (beat % 2)
    { t with vp := fillPend t.vp a.iss a.slot (4 * v + beat / 2) (BitVec.ofNat 1024 ((2 ^ 512 - 1) * 2 ^ sh)) (BitVec.ofNat 1024 (data * 2 ^ sh)) }
  | .toS d word => { t with s := { t.s with pend := fillPend t.s.pend a.iss a.slot d (BitVec.allOnes 32) (BitVec.ofNat 32 (data / 2 ^ (32 * word))) } }
  | .toM f els =>
    match got with
    | some l =>
      let w := fmtWidth f
      let ws := els.filterMap fun e => e.2.map fun ba => (⟨ba, w, fmtStore f (laneAt w data e.1), 0⟩ : WrElem)
      t.sched (a.at_ + 2) phWrite a.iss a.slot a.chk (.write { rank := 8 + l.src, iss := a.iss, slot := a.slot, pool := true, els := ws, run := none, sink := .fpst, pre := [] })
    | none => t

/-! Copies (R181, R379). -/

/-- The value of a copied element: SCALE, then CVT (R379). -/
def CopyJob.transform (j : CopyJob) (p : Nat) : Nat × Flags :=
  if j.scale then
    let f := fmtFP32.val j.factor
    let m := fmtFP32.mulV (fmtVal j.src.fmt p) f
    if j.cvt then
      let y := fmtConvert j.dst.fmt (modeOf j.sr.rnd) (fmtFP32.val m.1)
      (y.1, m.2 ||| y.2)
    else m
  else if j.cvt then fmtConvert j.dst.fmt (modeOf j.sr.rnd) (fmtVal j.src.fmt p)
  else (fmtStore j.src.fmt p, 0)

/-- One beat of a copy: its reads now, its writes at c + 4 + sg + k, the next beat on the next cycle. -/
def Tile.performCopyBeat (t : Tile) (a : Act) (ch : Nat) : Tile :=
  match t.copies.getD ch none with
  | none => t
  | some j =>
    let k := j.k
    let t : Tile := { t with copies := t.copies.set ch (some { j with k := k + 1 }) }
    let t := if k + 1 < j.n then t.sched (a.at_ + 1) phRead a.iss a.slot a.chk (.copyBeat ch) else t
    -- the bitmap bit (R379)
    let bitPlace := t.placeLin j.msk (j.g0 + k)
    let gateTrap : List (Nat × Nat × Nat) := match bitPlace with
      | .trap i0 i1 => if j.gate then [(0x20, boundsXva j.sr.mrec i0 i1, 0)] else []
      | _ => []
    let bit := if j.gate then t.gateBit j k else none
    let open_ := match bit with | some ba => t.rdElem true ba 1 == 1 | none => false
    let gateBad : List (Nat × Nat × Nat) := match bitPlace with
      | .at_ ba => if j.gate then (t.readCauses a.at_ ba 1).map fun k => (k, ba / 8, 0) else []
      | _ => []
    let t := (t.meet a 6 (bit.map (· / 8)).toList).raiseAll a.at_ 6 (gateTrap ++ gateBad)
    let s := j.srcAt k
    let d := j.dstAt k
    let srcPool := j.src.space != 2
    let ws := j.src.width
    let srcs := t.places j.src s 32
    let causes := t.srcCauses j a.at_
    let addrs := srcs.filterMap fun p => match p with | .at_ ba => if (causes p).isEmpty then some (ba / 8) else none | _ => none
    let t := if srcPool then t.meet a 6 addrs else t.checkRead a.at_ a.iss a.chk false addrs
    let t := t.raiseAll a.at_ 6 (firstOfEach (srcs.flatMap causes))
    if j.gate && !open_ then t
    else
      let elems := srcs.zipIdx.filterMap fun e =>
        if !(causes e.1).isEmpty then none
        else
          let raw := match e.1 with | .at_ ba => t.rdElem srcPool ba ws | _ => 0
          some (e.2, j.transform raw)
      let dsts := elems.map fun e => (t.copyDst j d e.1, e.2)
      let outs := dsts.filterMap fun e => match e.1 with
        | .at_ ba => some (⟨ba, j.dst.width, e.2.1, e.2.2⟩ : WrElem)
        | _ => none
      let traps := dsts.filterMap fun e => match e.1 with
        | .trap i0 i1 => some (0x20, boundsXva j.sr.drec i0 i1, 1)
        | _ => none
      t.sched (j.c + 4 + j.sg + k) phWrite a.iss 6 a.chk
        (.write { rank := 4 + ch, iss := a.iss, slot := 6, pool := j.dst.space != 2, els := outs, run := none, sink := .fpst, pre := firstOfEach traps })

/-! The matrix engine (R351 to R358). -/

/-- The element that a port returns for index l at K-step k (R351). -/
def Tile.operand (t : Tile) (slot : Nat) (row : Bool) (w k l : Nat) : Nat :=
  let lane := if row then k % 32 else l
  let pos := if row then 32 * (k / 32) + l else k
  t.rdElem false (8 * (16384 * slot + 512 * lane) + pos * w) w

/-- A scale entry as a promotion reads it: a written one, or the undefined contents (R198). -/
def Tile.scaleEntry (t : Tile) (x y bank lane kb : Nat) : Nat :=
  let i := 512 * bank + 16 * lane + kb
  match t.scl.find? fun e => e.1 == i with
  | some e => e.2
  | none => (Config.scaleEntry x y t.sclGen i).toNat

/-- The scales of one side of an interval (R200). -/
def Tile.scales (t : Tile) (x y bank code src k0 : Nat) : List Nat :=
  (List.range 32).map fun l =>
    if src = 0 then 0
    else t.scaleEntry x y bank (if src = 2 then 0 else l) (if isMx code then k0 / 32 else k0 / 128)

/-- One operand read of the MSQ in the engine (R354). -/
def Tile.performMsqBeat (t : Tile) (x y : Nat) (a : Act) : Tile :=
  match t.msq with
  | none => t
  | some j =>
    let r := j.ent.rate
    let i := j.ent.interval
    let wa := fmtWidth j.ent.afmt
    let wb := fmtWidth j.ent.bfmt
    let ks := (List.range r).map fun u => j.q * r + u
    let as_ := ks.map fun k => (List.range 32).map fun l => t.operand j.sa j.ta wa k l
    let bs := ks.map fun k => (List.range 32).map fun l => t.operand j.sb j.tb wb k l
    let t := if a.chk then
        let addr : Nat → Bool → Nat → Nat → Nat → Nat := fun slot row w k l =>
          16384 * slot + 512 * (if row then k % 32 else l) + (if row then 32 * (k / 32) + l else k) * w / 8
        t.checkRead a.at_ a.iss true false (ks.flatMap fun k => (List.range 32).flatMap fun l => [addr j.sa j.ta wa k l, addr j.sb j.tb wb k l])
      else t
    let aAll := j.a ++ as_
    let bAll := j.bb ++ bs
    let closes := ((j.q + 1) * r) % i == 0 || j.q + 1 == j.b
    let k0 := (j.q * r) / i * i
    let next : MsqJob := { j with q := j.q + 1, a := if closes then [] else aAll, bb := if closes then [] else bAll, first := j.first && !closes }
    let t : Tile := { t with msq := if j.q + 1 < j.b then some next else none }
    let t := if closes then
        t.sched (a.at_ + 5) phRead a.iss a.slot a.chk (.promote
          { ent := j.ent, blk := j.blk, fresh := !j.acc && j.first, a := aAll, b := bAll
            sa := t.scales x y 0 j.ent.afmt j.ent.asrc k0, sb := t.scales x y 1 j.ent.bfmt j.ent.bsrc k0 })
      else t
    if j.q + 1 < j.b then t.sched (j.c + (j.q + 1) + ((j.q + 1) * r) / i) phRead a.iss a.slot a.chk .msqBeat else t

/-- C elements of a block. -/
def Tile.blockC (t : Tile) (blk : Nat) : List Nat :=
  let bs := t.pool.bytes (t.blkAddr blk) 4096
  (List.range 1024).map fun i => leAt bs (4 * i) 4

/-- A promotion reads and writes its block on one cycle (R353). -/
def Tile.performPromote (t : Tile) (a : Act) (p : Promo) : Tile :=
  let r := p.run (t.blockC p.blk)
  let t := t.checkRead a.at_ a.iss a.chk true ((List.range 64).map fun i => t.blkAddr p.blk + 64 * i)
  let t := (t.setMst r.2).eccRead ((List.range 1024).map fun i => t.blkAddr p.blk + 4 * i)
  t.sched a.at_ phWrite a.iss a.slot a.chk
    (.write { rank := 3, iss := a.iss, slot := a.slot, pool := true, els := [], run := some (t.blkAddr p.blk, r.1), sink := .mst, pre := [] })

/-- Row i of a drain: read now, written on the next cycle (R358). -/
def Tile.performDrainRow (t : Tile) (a : Act) (blk i : Nat) (r : BufRec) (recNo : Nat) (u v : Int) (mr mc : Option (BitVec 1024)) (zm : Bool) (ofmt ornd : Nat) : Tile :=
  let base := t.blkAddr blk + 128 * i
  let t := (t.checkRead a.at_ a.iss a.chk true [base, base + 64]).eccRead ((List.range 32).map fun j => base + 4 * j)
  let bs := t.pool.bytes base 128
  let masked : Nat → Bool := fun j =>
    match mr, mc with
    | some x, some y => !(x.getLsbD ((v + i) % 1024).toNat) || !(y.getLsbD ((u + j) % 1024).toNat)
    | _, _ => false
  let elems := (List.range 32).map fun (j : Nat) =>
    let val : FVal := if masked j then (if zm then .num ⟨false, 0, 0⟩ else .inf true) else fmtFP32.val (leAt bs (4 * j) 4)
    (t.place r (u + (j : Int)) (v + (i : Int)), fmtConvert ofmt (modeOf ornd) val)
  let outs := elems.filterMap fun e => match e.1 with | .at_ ba => some (⟨ba, r.width, e.2.1, e.2.2⟩ : WrElem) | _ => none
  let traps := elems.filterMap fun e => match e.1 with | .trap i0 i1 => some (0x20, boundsXva recNo i0 i1, 1) | _ => none
  t.sched (a.at_ + 1) phWrite a.iss a.slot a.chk
    (.write { rank := 3, iss := a.iss, slot := a.slot, pool := true, els := outs, run := none, sink := .mst, pre := firstOfEach traps })

/-! The landing register (R44). -/

/-- A flit lands: an unclaimed older flit is discarded with cause 0x47 (R44). Its own window's end is scheduled. -/
def Tile.performLand (t : Tile) (a : Act) (f : Flit) (src : Nat) (expiry : FetchItem) : Tile :=
  let t := match t.landing with
    | some l => t.raise a.at_ 0x47 (t.rel l.at_) 0 7
    | none => t
  let t : Tile := { t with landing := some { flit := f, at_ := a.at_, src := src } }
  t.sched (a.at_ + 4) phExpire a.at_ 7 false (.event expiry)

/-- The end of a flit's window: cause 0x47 for a flit still unclaimed (R44). -/
def Tile.landingExpires (t : Tile) (c : Nat) : Tile :=
  match t.landing with
  | some l => if l.at_ + 4 ≤ c then { t.raise c 0x47 (t.rel l.at_) 0 7 with landing := none } else t
  | none => t

/-- Perform one action other than a write (those perform together) or an event. -/
def Tile.perform (t : Tile) (x y : Nat) (expiry : FetchItem) (a : Act) : Tile :=
  match a.k with
  | .loadS d addr size sgn => t.performLoadS a d addr size sgn
  | .loadV v beat w els => t.performLoadV a v beat w els
  | .atomic op fp addr v cmp d => t.performAtomic a op fp addr v cmp d
  | .write _ => t
  | .sendm port w els => t.performSendm x y a port w els
  | .claim k _ => t.performClaim a k
  | .copyBeat ch => t.performCopyBeat a ch
  | .msqBeat => t.performMsqBeat x y a
  | .promote p => t.performPromote a p
  | .drainRow blk i rec u v mr mc zm ofmt ornd => t.performDrainRow a blk i rec.1 rec.2 u v mr mc zm ofmt ornd
  | .flip lvl => t.flipPlanes lvl
  | .mstat d clr =>
    let t' : Tile := { t with s := { t.s with pend := fillPend t.s.pend a.iss a.slot d (BitVec.allOnes 32) (t.mst.setWidth 32) } }
    if clr then { t' with mst := 0 } else t'
  | .svFpst => { t with svc := t.svc.map fun v => if v.c = a.iss ∧ v.kind = 0 then { v with bytes := v.bytes.take 0x118 ++ leBytes 4 (t.fpstAt a.at_).toNat ++ v.bytes.drop 0x11C } else v }
  | .freeze pc cause => if t.seq.hold = .freezing then t.freezeNext a.at_ pc cause else t
  | .rdFpst d => { t with s := { t.s with pend := fillPend t.s.pend a.iss a.slot d (BitVec.allOnes 32) ((t.fpstAt a.at_).setWidth 32) } }
  | .lost => t.record a.at_ noPc 0x83
  | .land f src => t.performLand a f src expiry
  | .event _ => t

end Sys2Proof.Machine
end

