-- ==== Sys2Proof/Machine/Issue.lean ====
section
/-! DEFINITION. The issue of a word: what the core fetches, which slots act, which precise causes they raise, and the default sequencing with loop back-edges (R160 to R165, R239 to R244, R269 to R272, R307, R314). -/

namespace Sys2Proof.Machine

/-! The registers that a slot reads (R162, R164). -/

/-- A register reference; a V register with its number of beats; a Q register with the cycles after issue at which it is read (R342). -/
inductive RegRef where
  | s (i : Nat) | p (i : Nat) | m (i : Nat) | v (i beats : Nat) | q (i later : Nat) | sp (n : Nat)
  deriving DecidableEq, Repr

/-- ROT: the Q register that a field names (R339). -/
def Tile.qIndex (t : Tile) (c : Nat) (rot : Bool) (f : Nat) : Nat :=
  if rot then ((t.spr c (spLC 0)).toNat + f) % 4 else f % 4

def optB (kb : Bool) (b : BitVec 5) : RegRef := if kb then .sp spK else .s b.toNat
def srReads (mode : Nat) : List RegRef := if mode = 5 then [.sp spSRSEED, .sp spSRCTR] else []

end Sys2Proof.Machine

namespace Sys2Proof
open Machine

def RR.reads2 (o : RR) : List RegRef := [.s o.a.toNat, optB o.kb o.b]
def RR.reads1 (o : RR) : List RegRef := [.s o.a.toNat]
def VxOp.nb (o : VxOp) : Nat := o.beats.toNat + 1
def VxOp.maskRead (o : VxOp) : List RegRef := if o.mask = 0 then [] else [.m o.mask.toNat]
def VxOp.readsVV (o : VxOp) : List RegRef := [.v o.va.toNat o.nb, .v o.vb.toNat o.nb] ++ o.maskRead
def VxOp.readsV (o : VxOp) : List RegRef := [.v o.va.toNat o.nb] ++ o.maskRead
def VMemOp.maskRead (o : VMemOp) : List RegRef := if o.msk = 0 then [] else [.m o.msk.toNat]
def VMemXOp.maskRead (o : VMemXOp) : List RegRef := if o.msk = 0 then [] else [.m o.msk.toNat]

end Sys2Proof

namespace Sys2Proof.Machine

/-- Beats that an index register of `E` 16-bit elements takes. -/
def idxBeats (w nb : Nat) : Nat := (nb * (1024 / w) * 16 + 1023) / 1024
def treeReads (o : TreeOp) : List RegRef :=
  ([o.t0, o.t1, o.t2, o.t3].take (o.last.toNat + 1)).map fun x => .p x.pred.toNat

/-- The registers that an instruction's slot reads, in operand order. -/
def Tile.reads (t : Tile) (c : Nat) (i : Instr) : List RegRef :=
  match i with
  | .add o | .sub o | .andS o | .orS o | .xor o | .andn o | .shl o | .shr o | .sra o | .rol o | .minS o | .maxS o
  | .minu o | .maxu o | .slt o | .sltu o | .seq o | .adds o | .subs o | .mul o | .mulh o | .mulhu o | .div o | .divu o
  | .rem o | .remu o | .fadd o | .fsub o | .fmul o | .fmin o | .fmax o | .frcps o | .frsqs o => o.reads2
  | .absS o | .clz o | .popc o | .brev o | .fabs o | .fneg o | .fcvti o | .icvtf o | .frcp o | .frsq o => o.reads1
  | .selp o => .p o.x.toNat :: o.reads2
  | .ffma o => o.reads2 ++ [.s o.c.toNat]
  | .addi o | .andi o | .ori o | .xori o | .shli o | .shri o | .srai o | .slti o | .sltiu o => [.s o.a.toNat]
  | .seth o => [.s o.d.toNat]
  | .movk _ => [.sp spK]
  | .peq o | .pne o | .plt o | .pltu o | .pge o | .pgeu o | .pflt o | .pfle o | .pfun o => [.s o.a.toNat, optB o.kb o.b]
  | .pand o | .por o | .pxor o => [.p o.pa.toNat, .p o.pb.toNat]
  | .pnot o => [.p o.pa.toNat]
  | .ptos _ => (List.range 8).map .p
  | .rdsp o => let n := o.imm.toNat % 64; if n = spFPST then [] else [.sp n]
  | .wrsp o => [.s o.a.toNat]
  | .ldw o | .ldh o | .ldhu o | .ldb o | .ldbu o => [.s o.a.toNat]
  | .stw o | .sth o | .stb o => [.s o.a.toNat, .s o.d.toNat]
  | .tree o => treeReads o
  | .jmpIndirect r | .callIndirect r => [.s r.toNat]
  | .ret => [.s 31]
  | .loopRegisterCount _ r => [.s r.toNat]
  | .waitc o => [.s o.b.toNat]
  | .rbmark b _ => [.s b.toNat]
  | .xret => let k := t.tlvl c; if k = 0 then [] else [.sp (spXPC k), .sp (spXST k)]
  | .vadd o | .vsub o | .vadds o | .vaddsu o | .vsubs o | .vsubsu o | .vmul o | .vmulh o | .vmulhu o | .vmulw o | .vmulwu o
  | .vand o | .vor o | .vxor o | .vandn o | .vshl o | .vshr o | .vsra o | .vmin o | .vmax o | .vminu o | .vmaxu o | .vavg o
  | .vfadd o | .vfsub o | .vfmul o | .vfmin o | .vfmax o | .vfrcps o | .vfrsqs o | .vfscale o
  | .vceq o | .vclt o | .vcltu o | .vfceq o | .vfclt o | .vfcle o | .vfcun o | .vshuf o | .vzip o | .vunzip o => o.readsVV
  | .vmacw o | .vmacwu o => o.readsVV ++ [.v o.vd.toNat o.nb, .v (o.vd.toNat + 1) o.nb]
  | .vffma o => o.readsVV ++ [.v o.vc.toNat o.nb]
  | .vabs o | .vclz o | .vpopc o | .vshli o | .vshri o | .vsrai o | .vfabs o | .vfneg o | .vfrcp o | .vfrsq o | .vfexp2 o
  | .vmov o | .vwiden o | .vnarrow o | .vnarrowu o | .vqmax o | .vrsum o | .vrsumu o | .vrmax o | .vrmin o | .vfrsum o
  | .vfrmax o | .vfrmin o | .vrev o => o.readsV ++ (match i with | .vqmax o => if o.n 4 4 = 1 then [.sp (spLC 0)] else [] | _ => [])
  | .mand o | .mor o | .mxor o => [.m (o.va.toNat % 8), .m (o.vb.toNat % 8)]
  | .mnot o => [.m (o.va.toNat % 8)]
  | .mpop o | .mfirst o | .mtov o => .m (o.va.toNat % 8) :: o.maskRead
  | .mbit o => [.s (o.va.toNat % 32), .s (o.vb.toNat % 32)]
  | .vsel o => o.readsVV ++ [.m (o.vc.toNat % 8)]
  | .vsplat o => (if o.n 0 0 = 1 then RegRef.sp spK else .s (o.va.toNat % 32)) :: o.maskRead
  | .vext o => if o.n 1 1 = 1 then [.q (o.va.toNat % 4) 0] else [.v o.va.toNat o.nb, .s (o.vb.toNat % 32)] ++ o.maskRead
  | .vins o => [.s (o.va.toNat % 32), .s (o.vb.toNat % 32)]
  | .viota o => .s (o.va.toNat % 32) :: o.maskRead
  | .vzero o => o.maskRead
  | .vcvt o => o.readsV ++ srReads (o.n 2 0)
  | .vqscale o => (if o.n 4 4 = 1 then [.sp (spLC 0)] else []) ++ [.q (t.qIndex c (o.n 4 4 == 1) o.va.toNat) 0]
  | .vqcvt o | .vdeq o => o.readsV ++ (if o.n 4 4 = 1 then [.sp (spLC 0)] else []) ++ [.q (t.qIndex c (o.n 4 4 == 1) o.vb.toNat) 2] ++ srReads (o.n 2 0)
  | .vrot o => o.readsV ++ [.s (o.vb.toNat % 32)]
  | .msqIndexed o => [.sp (spLC o.k.toNat)]
  | .mdrain o => [.s o.x.toNat]
  | .mdrainm o => [.s o.x.toNat, .m o.mr.toNat, .m o.mc.toNat]
  | .mscl o => [.s o.v.toNat]
  | .vld o | .vldb o => .s o.x.toNat :: o.maskRead
  | .vst o => [.v o.v.toNat (o.nb.toNat + 1), .s o.x.toNat] ++ o.maskRead
  | .vldx o => [.s o.x.toNat, .v o.vi.toNat (idxBeats (t.bufRec o.bn.toNat).width (o.nb.toNat + 1))] ++ o.maskRead
  | .vstx o => [.v o.v.toNat (o.nb.toNat + 1), .s o.x.toNat, .v o.vi.toNat (idxBeats (t.bufRec o.bn.toNat).width (o.nb.toNat + 1))] ++ o.maskRead
  | .aadd o | .amax o | .amin o | .axch o => [.s o.x.toNat, .s o.v.toNat]
  | .acas o => [.s o.s.toNat, .s o.x.toNat, .s o.v.toNat]
  | .send o => [.v o.v.toNat ((o.nb.toNat + 2) / 2)]
  | .sends o => [.s o.s.toNat]
  | .sendm o => [.s o.x.toNat]
  | .recvm o => [.s o.x.toNat]
  | .cpy o | .cpym o | .cpyw o => [.s o.s0.toNat, .s o.d0.toNat] ++ copyQ o
  | .cpyg o => [.s o.s0.toNat, .s o.d0.toNat, .s o.g0.toNat] ++ copyQ o
  | .svsave _ => .sp spXSAVE :: ((List.range 32).map .s ++ (List.range 8).map .p ++ (List.range 4).map (fun i => .q i 0) ++ savedSp.map .sp)
  | .svload _ => [.sp spXSAVE]
  | .svmsg o => [.v o.v.toNat ((o.nb.toNat + 2) / 2)]
  | _ => []
where
  /-- Special registers of the trap save area that a word writes: the loop registers, the trap banks, TLVL and those after them; FPST's read is not checked (R164, R248). -/
  savedSp : List Nat := (List.range 16).map (32 + ·) ++ [14, 15, 16, 17, 18, 19, 20, 21, spTLVL, spSRSEED, spSRCTR, spCHKCTL, spK, spXVEC]
  /-- The Q register that a copy's SCALE takes (R379). -/
  copyQ (o : CpyOp) : List RegRef :=
    let ss := (t.seqRec o.q.toNat).ssrc
    if o.st.getLsbD 4 && decide (ss < 4) then [.q ss 0] else []

/-- By how many cycles a reference is read early, and its file's code (R164, R240). -/
def Tile.early (t : Tile) (c : Nat) (r : RegRef) : Nat × Nat :=
  match r with
  | .s i => (earlyBy t.s.pend i c c, 0)
  | .p i => (earlyBy t.p.pend i c c, 1)
  | .m i => (earlyBy t.m.pend i c c, 2)
  | .v i b => ((List.range b).foldl (fun acc k => max acc (earlyBy t.vp (4 * i + k) c c)) 0, 3)
  | .q i l => (earlyBy t.q.pend i (c + l) c, 4)
  | .sp n => (earlyBy t.sp.pend n c c, 5)

/-- A precise cause: code, XVA, SUB. -/
abbrev Cause := Nat × Nat × Nat

/-- Cause 0x44 of a slot, with the checker on: the first register read early (R164). -/
def Tile.earlyCause (t : Tile) (c : Nat) (i : Instr) : List Cause :=
  if t.chk c then
    match (t.reads c i).find? fun r => decide ((t.early c r).1 > 0) with
    | some r => [(0x44, (t.early c r).1, (t.early c r).2)]
    | none => []
  else []

/-- The vector registers that an instruction names, groups included (R327, R369). -/
def vregsOf (i : Instr) : List Nat :=
  match i with
  | .vadd o | .vsub o | .vadds o | .vaddsu o | .vsubs o | .vsubsu o | .vmul o | .vmulh o | .vmulhu o
  | .vand o | .vor o | .vxor o | .vandn o | .vshl o | .vshr o | .vsra o | .vmin o | .vmax o | .vminu o | .vmaxu o | .vavg o
  | .vfadd o | .vfsub o | .vfmul o | .vfmin o | .vfmax o | .vfrcps o | .vfrsqs o | .vfscale o | .vsel o
  | .vshuf o | .vzip o | .vunzip o => [o.vd.toNat, o.va.toNat, o.vb.toNat]
  | .vmulw o | .vmulwu o | .vmacw o | .vmacwu o => [o.vd.toNat, o.vd.toNat + 1, o.va.toNat, o.vb.toNat]
  | .vffma o => [o.vd.toNat, o.va.toNat, o.vb.toNat, o.vc.toNat]
  | .vabs o | .vclz o | .vpopc o | .vshli o | .vshri o | .vsrai o | .vfabs o | .vfneg o | .vfrcp o | .vfrsq o | .vfexp2 o
  | .vmov o | .vnarrow o | .vnarrowu o | .vqcvt o | .vdeq o | .vrot o | .vrev o => [o.vd.toNat, o.va.toNat]
  | .vwiden o => (List.range (if o.n 1 1 = 1 then 4 else 2)).map (o.vd.toNat + ·) ++ [o.va.toNat]
  | .vcvt o => (List.range (max 1 (fmtWidth (o.n 7 3) / tyWidth o.ty))).map (o.vd.toNat + ·) ++ [o.va.toNat]
  | .vceq o | .vclt o | .vcltu o | .vfceq o | .vfclt o | .vfcle o | .vfcun o => [o.va.toNat, o.vb.toNat]
  | .mtov o | .vsplat o | .vins o | .viota o | .vzero o => [o.vd.toNat]
  | .vext o => if o.n 1 1 = 1 then [] else [o.va.toNat]
  | .vqmax o | .vrsum o | .vrsumu o | .vrmax o | .vrmin o | .vfrsum o | .vfrmax o | .vfrmin o => [o.va.toNat]
  | .vld o | .vst o | .vldb o => [o.v.toNat]
  | .vldx o | .vstx o => [o.v.toNat, o.vi.toNat]
  | .send o => [o.v.toNat]
  | .recv o => [o.v.toNat]
  | .svmsg o => [o.v.toNat]
  | _ => []

/-- Cause 0x04: a register at or above the allotment (R170). -/
def Tile.allotCause (t : Tile) (c : Nat) (i : Instr) : List Cause :=
  if (vregsOf i).any fun v => decide (v ≥ t.allotAt c) then [(0x04, 0, 0)] else []

/-! Memory operands of CP instructions (R364, R366). -/

/-- An element of a CP access: its index in the access, its beat, its place. -/
abbrev CpElem := Nat × Nat × Place

/-- Active elements of VLD, VST (stride 1) or VLDB (stride 0). -/
def Tile.vmemElems (t : Tile) (c : Nat) (o : VMemOp) (stride : Nat) : List CpElem :=
  let r := t.bufRec o.bn.toNat
  let n := 1024 / r.width
  let e0 := t.operandBase c o.x o.imm.toInt
  let m := t.maskField c o.msk
  (List.range ((o.nb.toNat + 1) * n)).filterMap fun i =>
    if bitAt m i then some (i, i / n, t.placeLin r (e0 + ((stride * i : Nat) : Int))) else none
/-- Active elements of VLDX, VSTX (R369). -/
def Tile.vmemXElems (t : Tile) (c : Nat) (o : VMemXOp) : List CpElem :=
  let r := t.bufRec o.bn.toNat
  let n := 1024 / r.width
  let base := (t.s32 c o.x.toNat).toInt
  let ix := t.vreg c o.vi.toNat 4
  let m := t.maskField c o.msk
  (List.range ((o.nb.toNat + 1) * n)).filterMap fun i =>
    if bitAt m i then some (i, i / n, t.placeLin r (base + (laneAt 16 ix i : Nat))) else none
/-- Elements of SENDM and RECVM: m = 512 / w in each beat (R374, R377). -/
def Tile.flitElems (t : Tile) (c bn : Nat) (x : BitVec 5) (imm : BitVec 13) (nb : Nat) : List CpElem :=
  let r := t.bufRec bn
  let m := 512 / r.width
  let e0 := t.operandBase c x imm.toInt
  (List.range (nb * m)).map fun i => (i, i / m, t.placeLin r (e0 + (i : Int)))

/-- Cause 0x20 of the first out-of-bounds active element under TRAP (R366). -/
def boundsCause (bn wr : Nat) (l : List CpElem) : List Cause :=
  match l.findSome? fun e => match e.2.2 with | .trap i0 i1 => some (boundsXva bn i0 i1) | _ => none with
  | some x => [(0x20, x, wr)]
  | none => []

/-- The cycles on which a CP instruction's memory accesses perform, as offsets: first, last, and whether it writes pool or operand memory (R230). Every beat counts, and a failing ACAS writes (log 28, DESIGN CHOICE). -/
def Tile.performSpan (t : Tile) (i : Instr) : Option (Nat × Nat × Bool × Nat) :=
  match i with
  | .vld o | .vldb o => some (2, 2 + o.nb.toNat, false, o.cls.toNat)
  | .vldx o => some (2, 2 + o.nb.toNat, false, o.cls.toNat)
  | .vst o => some (3, 3 + o.nb.toNat, true, o.cls.toNat)
  | .vstx o => some (3, 3 + o.nb.toNat, true, o.cls.toNat)
  | .aadd o | .amax o | .amin o | .axch o | .acas o => some (2, 2, true, o.cls.toNat)
  | .sendm o => some (0, o.nb.toNat, false, o.cls.toNat)
  | .recvm o => some (2, 2 + o.nb.toNat, true, o.cls.toNat)
  | .cpy o | .cpym o | .cpyw o | .cpyg o =>
    let n := ((t.seqRec o.q.toNat).levels.foldl (fun acc l => acc * l.1) 1)
    some (2, 4 + n - 1 + (if o.st.getLsbD 7 then 1 else 0) + (if o.st.getLsbD 6 then 2 else 0) + (if o.st.getLsbD 5 then 4 else 0) + (if o.st.getLsbD 4 then 2 else 0), true, o.cls.toNat)
  | _ => none

/-- Cause 0x46 of a CP instruction that breaks the order of its class, with the checker on (R230, R231). -/
def Tile.orderCause (t : Tile) (c : Nat) (i : Instr) : List Cause :=
  match t.performSpan i with
  | some (lo, _, wr, cls) =>
    if t.chk c && cls != 15 && decide (c + lo < (if wr then t.clsAny.getD cls 0 else t.clsWr.getD cls 0)) then [(0x46, 0, cls)] else []
  | none => []
/-- A CP instruction's accesses enter its class's latest perform cycles, kept plus one (R230, R232). -/
def Tile.noteClass (t : Tile) (c : Nat) (i : Instr) : Tile :=
  match t.performSpan i with
  | some (_, hi, wr, cls) =>
    { t with
      clsAny := t.clsAny.modify cls (max · (c + hi + 1))
      clsWr := if wr then t.clsWr.modify cls (max · (c + hi + 1)) else t.clsWr }
  | none => t

/-- Cause 0x46 of a FENCE whose F leaves a masked access performing (R232). -/
def Tile.fenceCause (t : Tile) (c : Nat) (o : FenceOp) : List Cause :=
  if t.chk c then
    match (List.range 15).find? fun k => o.mask.getLsbD k && decide (t.clsAny.getD k 0 > c + 1 + o.f.toNat) with
    | some k => [(0x46, 0, k)]
    | none => []
  else []

/-! Causes of the other slots. -/

/-- A local address (R305). -/
def Tile.localAddr (t : Tile) (c : Nat) (o : RI) : Nat := (t.s32 c o.a.toNat + BitVec.ofInt 32 o.imm.toInt).toNat
/-- Causes of a local load or store (R306); cause 0x87 by the rule in force now (R226; log 15, DESIGN CHOICE). A misaligned access that straddles two parts is judged by the part of its first byte (R172; log 15, DESIGN CHOICE). -/
def Tile.localCause (t : Tile) (c : Nat) (o : RI) (size : Nat) (wr : Bool) : List Cause :=
  let a := t.localAddr c o
  let part := t.partOf c a
  (if wr && t.partialWrite c (8 * a) (8 * size) then [(0x87, a, 0)] else [])
    ++ (if (if wr then part.noWrite else part.noRead) then [(0x27, a, 0)] else [])
    ++ (if a % size != 0 then [(0x28, a, 0)] else [])
    ++ (match t.watchOf c c wr [a] with | some _ => [(0x2B, a, if wr then 1 else 0)] | none => [])

def Tile.divCause (t : Tile) (c : Nat) (o : RR) : List Cause :=
  if (if o.kb then t.kreg c else t.s32 c o.b.toNat) = 0 then [(0x01, 0, 0)] else []
/-- The vector engine is occupied (R165). -/
def Tile.vxBusy (t : Tile) (c : Nat) : List Cause := if t.vxFree > c then [(0x40, 0, 0)] else []
/-- The matrix engine is occupied (R165). -/
def Tile.mxBusy (t : Tile) (c sub : Nat) : List Cause := if t.mxFree > c then [(0x41, 0, sub)] else []

/-- The entry that an indexed MSQ selects (R205). -/
def Tile.msqIndex (t : Tile) (c : Nat) (o : MsqIxOp) : Nat := (4 * o.base.toNat + (t.spr c (spLC o.k.toNat)).toNat) % 16
/-- Causes of an MSQ: 0x60 for an invalid entry, 0x23 for a slot that a read would find released (R352). -/
def Tile.msqCause (t : Tile) (c fe sa sb : Nat) : List Cause :=
  (if (t.fmtEntry fe).v then [] else [(0x60, 0, fe)])
    ++ (if t.claimedAt sa c then (if t.claimedAt sb c then [] else [(0x23, 0, sb)]) else [(0x23, 0, sa)])
def Tile.tagOf (t : Tile) (blk : Nat) : Nat := ((t.tags.find? fun e => e.1 == blk).map (·.2)).getD 0
/-- Cause 0x60 of a drain (R357). -/
def Tile.drainCause (t : Tile) (blk bn : Nat) : List Cause :=
  let fe := t.tagOf blk
  let e := t.fmtEntry fe
  if e.v && e.ofmt == (t.bufRec bn).fmt then [] else [(0x60, 0, fe)]
/-- MCLAIM of a claimed slot; MREL of a released slot, or of one that an MSQ is reading (R175). -/
def Tile.claimCause (t : Tile) (c slot : Nat) (claim : Bool) : List Cause :=
  let now := t.claimedAt slot (c + 1)
  if now == claim || (!claim && t.mxSlots.contains slot && decide (c ≤ t.mxReadTo)) then [(0x23, 0, slot)] else []

/-- Causes of an MX command other than the engine's occupation. -/
def Tile.mxOwn (t : Tile) (c : Nat) (i : Instr) : List Cause :=
  match i with
  | .msq o | .msqTa o | .msqTb o | .msqTab o => t.msqCause c o.fe.toNat o.sa.toNat o.sb.toNat
  | .msqIndexed o => t.msqCause c (t.msqIndex c o) o.sa.toNat o.sb.toNat
  | .mdrain o => t.drainCause o.blk.toNat o.bn.toNat
  | .mdrainm o => t.drainCause o.blk.toNat o.bn.toNat
  | .mclaim s => t.claimCause c s.toNat true
  | .mrel s => t.claimCause c s.toNat false
  | _ => []

/-- Copy channel still in use (R165). -/
def Tile.copyBusy (t : Tile) (c ch : Nat) : List Cause :=
  match t.copies.getD ch none with
  | some j => if c < j.completion then [(0x42, 0, ch)] else []
  | none => []
/-- Causes of a service instruction (R384, R385; none of 0x29 for SVMSG: log 29, DEDUCED). -/
def Tile.svCause (t : Tile) (c : Nat) (addr : Bool) : List Cause :=
  (if addr && (t.spr c spXSAVE).toNat % 64 != 0 then [(0x29, (t.spr c spXSAVE).toNat, 0)] else [])
    ++ (if t.svc.isSome then [(0x2A, 0, 0)] else [])

/-- Count of a counted LOOP above its maximum (R313). -/
def loopCause (n : Nat) (o : LoopOp) (pc : Nat) : List Cause :=
  if n > o.mman.toNat * 2 ^ o.mexp.toNat then [(0x06, pc, o.lvl.toNat)] else []
def dlyCause (cur : Cur) : List Cause := if cur.dly.isSome then [(0x05, 0, 0)] else []

/-- WAITC's target on the tile's counter (R315). -/
def Tile.waitTarget (t : Tile) (c : Nat) (o : WaitOp) : Nat := (t.tstart c + (t.s32 c o.b.toNat).toNat + o.imm.toNat) % 2 ^ 64

/-- Every precise cause that a slot's instruction raises on the cycle it issues (R239, R240). -/
def Tile.causes (t : Tile) (cur : Cur) (i : Instr) : List Cause :=
  let c := cur.c
  let base := t.earlyCause c i ++ t.allotCause c i
  let own : List Cause := match i with
    | .div o | .divu o | .rem o | .remu o => t.divCause c o
    | .ldw o => t.localCause c o 4 false
    | .ldh o | .ldhu o => t.localCause c o 2 false
    | .ldb o | .ldbu o => t.localCause c o 1 false
    | .stw o => t.localCause c o 4 true
    | .sth o => t.localCause c o 2 true
    | .stb o => t.localCause c o 1 true
    | .tree _ => if cur.dly.isSome then [(0x05, 0, 0)] else []
    | .jmp _ | .jmpIndirect _ | .call _ | .callIndirect _ | .ret => dlyCause cur
    | .xret => dlyCause cur ++ (if t.tlvl c = 0 then [(0x09, 0, 0)] else [])
    | .loopCounted o n => loopCause n.toNat o cur.pc
    | .loopRegisterCount o r => loopCause (t.s32 c r.toNat).toNat o cur.pc
    | .trap imm => [(0x07, imm.toNat, 0)]
    | .waitc o => if o.log then [] else if t.gcy c > t.waitTarget c o then [(0x43, t.gcy c - t.waitTarget c o, 0)] else []
    | .msq _ | .msqTa _ | .msqTb _ | .msqTab _ | .msqIndexed _ | .mzero _ | .mdrain _ | .mdrainm _ | .mclaim _ | .mrel _
    | .mscl _ | .mstat _ => t.mxBusy c 0 ++ t.mxOwn c i
    | .vld o => boundsCause o.bn.toNat 0 (t.vmemElems c o 1)
    | .vldb o => boundsCause o.bn.toNat 0 (t.vmemElems c o 0)
    | .vst o => boundsCause o.bn.toNat 1 (t.vmemElems c o 1)
    | .vldx o => boundsCause o.bn.toNat 0 (t.vmemXElems c o)
    | .vstx o => boundsCause o.bn.toNat 1 (t.vmemXElems c o)
    | .aadd o | .amax o | .amin o | .axch o | .acas o =>
      boundsCause o.bn.toNat 1 [(0, 0, t.placeLin (t.bufRec o.bn.toNat) (t.operandBase c o.x o.imm.toInt))]
    | .sendm o => boundsCause o.bn.toNat 0 (t.flitElems c o.bn.toNat o.x o.imm (o.nb.toNat + 1))
    | .recvm o => boundsCause o.bn.toNat 1 (t.flitElems c o.bn.toNat o.x o.imm (o.nb.toNat + 1))
    | .cpy o | .cpym o | .cpyg o | .cpyw o => t.copyBusy c o.ch.toNat
    | .fence o => t.fenceCause c o
    | .svsave _ | .svload _ => t.svCause c true
    | .svmsg _ => t.svCause c false
    | _ => []
  let vx := if cur.slot = 2 then t.vxBusy c else []
  base ++ own ++ vx ++ t.orderCause c i

/-- The lowest code of a list of causes (R244). -/
def lowest (l : List Cause) : Option Cause :=
  l.foldl (fun b e => match b with | some x => if e.1 < x.1 then some e else some x | none => some e) none

/-- The causes whose word acts (R239). -/
def wordActs (code : Nat) : Bool := code == 0x07 || code == 0x43

/-! Which slots of a word act (R270 to R272). -/

/-- The target that TREE selects, 1 to 4, or 5 (R309). -/
def Tile.treeSel (t : Tile) (c : Nat) (o : TreeOp) : Nat :=
  let tests := [o.t0, o.t1, o.t2, o.t3].take (o.last.toNat + 1)
  match tests.zipIdx.find? fun e => t.pr c e.1.pred.toNat != e.1.neg with
  | some e => e.2 + 1
  | none => 5
/-- A path tag's condition (R271). -/
def tagActs (sel tag : Nat) : Bool := tag == 0 || tag == sel || (tag == 6 && decide (1 ≤ sel ∧ sel ≤ 4))

/-- The slots of a control word: class, bits, tag; SA first, CT last (R162). -/
def slotsOf (w : Nat) : List (SlotCls × Nat × Nat) :=
  [(.sa, bitsAt w 208 32, bitsAt w 253 3), (.sb, bitsAt w 176 32, bitsAt w 250 3), (.vx, bitsAt w 128 48, bitsAt w 247 3),
   (.mx, bitsAt w 96 32, bitsAt w 244 3), (.cp, bitsAt w 48 48, bitsAt w 241 3), (.ct, bitsAt w 0 48, 0)]
/-- The channel on which one of the slots starts a copy (R182). -/
def startsCopy (l : List (FetchItem × Instr)) : Option Nat :=
  l.findSome? fun e => match e.2 with
    | .cpy o | .cpym o | .cpyg o | .cpyw o => some o.ch.toNat
    | _ => none
/-- The code of a slot class in XST's SRC (R243). -/
def slotCode : SlotCls → Nat
  | .sa => 0 | .sb => 1 | .vx => 2 | .mx => 3 | .cp => 4 | .ct => 5 | .word => 7 | .ev => 7
def isTree (d : Decoded) : Option TreeOp := match d with | .instr (.tree o) => some o | _ => none
def isCpym (d : Decoded) : Bool := match d with | .instr (.cpym _) => true | _ => false

/-- The acting slots of a control word, decoded. -/
def Tile.acting (t : Tile) (c w : Nat) : List (FetchItem × Instr) :=
  let ct := decodeCt (bitsAt w 0 48)
  let sel := match isTree ct with | some o => t.treeSel c o | none => 0
  let chains := isCpym (decodeCp (bitsAt w 48 48))
  (slotsOf w).filterMap fun s =>
    if !tagActs sel s.2.2 || (chains && s.1 == .mx) then none
    else match decodeItem ⟨s.1, s.2.1⟩ with
      | .instr i => some (⟨s.1, s.2.1⟩, i)
      | _ => none

/-! Sequencing (R160, R307, R314). -/

/-- A loop register's fields (R312). -/
def lsAct (v : BitVec 64) : Bool := v.getLsbD 31
def lsMode (v : BitVec 64) : Bool := v.getLsbD 16
def lsPk (v : BitVec 64) : Nat := bitsAt v.toNat 17 3

/-- Back-edges of the active levels that end on this word, latest LOOP first, until one does not exit (R314). -/
def Tile.backEdges (t : Tile) (c pc : Nat) : List Nat → Tile
  | [] => t
  | k :: r =>
    let ls := t.spr c (spLS k)
    if lsAct ls && (t.spr c (spLE k)).toNat == pc then
      let lc := ((t.spr c (spLC k)).toNat + 1) % 2 ^ 32
      let lm := (t.spr c (spLM k)).toNat
      let exit := if lsMode ls then t.pr c (lsPk ls) else decide (lm ≤ lc)
      let t := t.pushRW c 5 (rwSp (spLC k) 1 (BitVec.ofNat 64 lc))
      if exit then
        Tile.backEdges (t.pushRW c 5 (rwSp (spLS k) 1 (ls &&& 0x7FFFFFFF#64))) c pc r
      else
        let start := ls.toNat % 65536
        { t with seq := { t.seq with
            pc := start
            loopTrap := (if lsMode ls && decide (lm ≤ lc) then [(start, k, t.tlvl c)] else []) ++ t.seq.loopTrap } }
    else Tile.backEdges t c pc r

/-- The word at `pc` is the START at which a back-edge has raised cause 0x06 (R314). -/
def Tile.exhausted (t : Tile) (c : Nat) : Bool := t.seq.loopTrap.any fun e => e.1 == t.seq.pc && e.2.2 == t.tlvl c

/-- A word that is a taken transfer (R307). -/
def Tile.transfers (t : Tile) (c : Nat) (i : Instr) : Bool :=
  match i with
  | .tree o => decide (t.treeSel c o ≤ 4)
  | .jmp _ | .jmpIndirect _ | .call _ | .callIndirect _ | .ret => true
  | _ => false

/-- The default sequencing of a word of `len` halfwords that issues at c: the next word, or the pending target after a delay slot; the back-edges of a word that neither transfers nor stands in a delay slot (R160, R307, R314). -/
def Tile.advance (t : Tile) (c pc len dueAt : Nat) (transfers : Bool) : Tile :=
  match t.seq.xfer with
  | some tgt => { t with seq := { t.seq with pc := tgt, xfer := none, due := some dueAt, afterLit := decide (len = 3), waitPc := none } }
  | none =>
    let t : Tile := { t with seq := { t.seq with pc := pc + len, due := some dueAt, afterLit := decide (len = 3), waitPc := none } }
    let latest := t.seq.order.map fun k => k.val
    if transfers then t else t.backEdges c pc (latest ++ (List.range 4).filter fun k => !latest.contains k)

/-! Traps that fall due instead of a word (R163, R244, R314). -/

/-- The trap to be taken at cycle u where a word would issue: the oldest pending cause that may be taken, then cause 0x06 of an exhausted loop, then a PC beyond the code half, with SRC 5 (log 15, DESIGN CHOICE). -/
def Tile.trapDue (t : Tile) (u : Nat) : Option TrapInfo :=
  let lvl := t.tlvl u
  let old := if t.seq.afterLit then none else t.pendc.find? fun e => decide (e.raise < u) && (lvl == 0 || urgent e.cause)
  match old with
  | some e => some { cause := e.cause, pre := false, raise := e.raise, xva := e.xva, sub := e.sub, src := e.src, dtgt := t.seq.xfer, xpc := t.seq.pc, dfr := e.dfr }
  | none =>
    match t.seq.loopTrap.find? fun e => e.1 == t.seq.pc && e.2.2 == lvl with
    | some (start, k, _) => some { cause := 0x06, pre := true, raise := u, xva := (start + 2 ^ 64 - 1) % 2 ^ 64, sub := k, src := 5, dtgt := t.seq.xfer, xpc := start, dfr := false }
    | none =>
      if t.seq.pc ≥ t.codeLen then
        some { cause := 0x08, pre := true, raise := u, xva := t.seq.pc, sub := 0, src := 5, dtgt := t.seq.xfer, xpc := t.seq.pc, dfr := false }
      else none

/-- The trap is taken and leaves its set (R244, R245). -/
def Tile.takeDue (t : Tile) (u : Nat) : Tile :=
  match t.trapDue u with
  | none => t
  | some i =>
    let t : Tile :=
      if i.pre then { t with seq := { t.seq with loopTrap := t.seq.loopTrap.filter fun e => !(i.cause == 0x06 && e.1 == i.xpc && e.2.2 == t.tlvl u) } }
      else { t with pendc := t.pendc.eraseP fun e => e.cause == i.cause && e.raise == i.raise && e.xva == i.xva && e.sub == i.sub && e.src == i.src }
    t.takeTrap u i

/-- The unit that raises a precise cause of a slot, as XST's SRC names it: the checker for 0x44 and 0x46, else the slot (R164, R243). -/
def causeSource (cause slot : Nat) : Nat := if cause = 0x44 ∨ cause = 0x46 then 7 else slot
/-- A precise cause of a slot is taken at its word (R239, R246). -/
def Tile.takePrecise (t : Tile) (cur : Cur) (e : Cause) : Tile :=
  t.takeTrap cur.c { cause := e.1, pre := true, raise := cur.c, xva := e.2.1, sub := e.2.2, src := causeSource e.1 cur.slot, dtgt := cur.dly, xpc := cur.pc, dfr := false }

/-! Trace (R266). -/

/-- P0 to P7 as a byte. -/
def Tile.preds (t : Tile) (c : Nat) : Nat := (List.range 8).foldl (fun acc i => acc + (if t.pr c i then 2 ^ i else 0)) 0
/-- A trace record at the issue of an ITB-marked word, or of PREEMPTPT. -/
def Tile.traceRec (t : Tile) (c pc : Nat) : Tile :=
  let open_ := match t.captureTo with | some e => decide (c ≤ e) | none => true
  if t.dbg.getLsbD 2 && open_ then
    let r := leBytes 4 (t.rel c) ++ leBytes 2 pc ++ leBytes 1 (t.preds c) ++ leBytes 1 (t.tlvl c)
      ++ (List.range 4).flatMap fun k => leBytes 2 (t.spr c (spLC k)).toNat
    { t with ring := (t.ring ++ [r]).drop (t.ring.length + 1 - 256) }
  else t

/-! The issue of a word. -/

/-- An SVSAVE or SVLOAD in progress keeps every word from issuing (R385). -/
def Tile.served (t : Tile) : Bool := match t.svc with | some v => v.kind != 2 | none => false

/-- What an issue cycle of a tile hands to execution. -/
structure Issued where
  tile : Tile
  items : List FetchItem
  cur : Cur
  deriving DecidableEq, Repr

def rowTrapTake : Nat := 71
def rowDebugStop : Nat := 87
def rowDebugResume : Nat := 88

/-- The word of a tile that is due at cycle c: a trap or a debug stop in its place, or its acting slots, the default sequencing done (R160 to R162, R239, R244, R267, R268 to R272). A LIT that a transfer reaches with its literal beyond the code half reads the bytes of the pool that follow there (log 15, DESIGN CHOICE). Where two slots raise the same lowest code, the trap is that of the first of them in the order SA to CT (R244; log 15, DESIGN CHOICE). Where an imprecise cause falls due at an ITB-marked word with a stop request, the trap is taken, and the stop lands on a later ITB-marked word (R244, R267; log 15, DESIGN CHOICE). -/
def Tile.issueWord (t : Tile) (x y c : Nat) : Issued :=
  let pc := t.seq.pc
  let cur : Cur := { x := x, y := y, c := c, pc := pc, wait := 0, slot := 7, dly := t.seq.xfer, itb := false, mx := 0, starts := none, trapped := false }
  let held : Tile := { t with seq := { t.seq with due := none } }
  if t.served then ⟨{ held with seq := { held.seq with hold := .service } }, [], cur⟩
  else if c < t.seq.minDue then ⟨{ held with seq := { held.seq with due := some t.seq.minDue } }, [], cur⟩
  else if (t.trapDue c).isSome then ⟨t, [eventItem rowTrapTake ⟨[x, y], []⟩], cur⟩
  else
    let hw := t.half pc
    let wait := hw % 16
    let idx := bitsAt hw 4 9
    let guard := t.pr c (bitsAt hw 13 3)
    let cw := if idx = 0 ∨ idx = 511 then 0 else t.ctlWord idx
    let itb := bitAt cw 240
    let cur : Cur := { cur with wait := wait, itb := itb, mx := bitsAt cw 96 32 }
    let stops := itb && t.stopReq.any fun r => decide (r ≤ c)
    if stops then ⟨held, [eventItem rowDebugStop ⟨[x, y], []⟩], cur⟩
    else
      let low : Bool := t.tlvl c == 0
      let t : Tile := { t with seq := { t.seq with skipIss := (if low ∧ t.seq.noWatch = some pc then [c] else []) ++ t.seq.skipIss } }
      let t := t.noteReturn c
      let t := if itb then t.traceRec c pc else t
      let still : Tile := { t with seq := { t.seq with due := none } }
      let t : Tile := { t with seq := { t.seq with noWatch := if low then none else t.seq.noWatch } }
      if idx = 0 then ⟨t, [⟨.word, hw⟩], cur⟩
      else if idx = 511 then
        let lit := t.pool.nat (t.codeBase + 2 * pc + 2) 4
        if guard then ⟨t, [⟨.word, 0x1FF0 + wait + lit * 2 ^ 16⟩], cur⟩
        else ⟨t.advance c pc 3 (c + 3 + wait) false, [], cur⟩
      else if !guard then ⟨t, [⟨.word, bitsAt hw 13 3 * 2 ^ 13 + wait⟩], cur⟩
      else
        let slots := t.acting c cw
        let raised := slots.map fun s => (s.1, s.2, t.causes { cur with slot := slotCode s.1.cls } s.2)
        match lowest (raised.flatMap fun r => r.2.2) with
        | some e =>
          if wordActs e.1 then
            let keep := raised.filter fun r => r.2.2.isEmpty || r.1.cls == .ct
            ⟨t.advance c pc 1 (c + 1 + wait) true, keep.map (·.1), { cur with starts := startsCopy (keep.map fun r => (r.1, r.2.1)) }⟩
          else
            let bad := raised.filter fun r => r.2.2.any fun k => k.1 == e.1
            ⟨still, (bad.take 1).map (·.1), cur⟩
        | none =>
          let transfers := slots.any fun s => t.transfers c s.2
          ⟨t.advance c pc 1 (c + 1 + wait) transfers, slots.map (·.1), { cur with starts := startsCopy slots }⟩

end Sys2Proof.Machine
end

