-- ==== Sys2Proof/Machine/Module.lean ====
section
/-! DEFINITION. The operations that the module's events share: tiles and what falls due, notifications and packets, the Roving line, the Ply tree, DRAM and translation, and draining what a tile hands over. -/

namespace Sys2Proof.Machine

/-! Tiles. -/

def tileKey (x y : Nat) : Nat := 256 * y + x
def findTile (k : Nat) : List (Nat × Tile) → Option Tile
  | [] => none
  | (i, t) :: r => if i = k then some t else findTile k r
/-- A tile; one not listed is as power-up leaves it. -/
def State.tile (s : State) (x y : Nat) : Tile := (findTile (tileKey x y) s.tiles).getD Tile.powerUp
def insertTile (k : Nat) (t : Tile) : List (Nat × Tile) → List (Nat × Tile)
  | [] => [(k, t)]
  | (i, u) :: r => if k < i then (k, t) :: (i, u) :: r else if k = i then (k, t) :: r else (i, u) :: insertTile k t r
def State.setTile (s : State) (x y : Nat) (t : Tile) : State := { s with tiles := insertTile (tileKey x y) t s.tiles }
def State.onTile (s : State) (x y : Nat) (f : Tile → Tile) : State := s.setTile x y (f (s.tile x y))

/-- Markhor takes addresses, lists, clock groups and debug requests over the management port in the states that accept more than firmware (R27; log 31, DESIGN CHOICE). -/
def State.managed (s : State) : Bool := s.mode != .reset && s.mode != .recovery

/-! What falls due (log 5, DEDUCED). -/

/-- Row numbers of the events that the machine itself schedules. -/
def rowDispatch : Nat := 42
def rowConfigLoadComplete : Nat := 44
def rowTstartFix : Nat := 45
def rowPlaneSwap : Nat := 46
def rowLaunchStart : Nat := 47
def rowIterationStart : Nat := 48
def rowDrainPoint : Nat := 49
def rowLaunchRetire : Nat := 50
def rowSwitchAdvance : Nat := 51
def rowFlitArrival : Nat := 52
def rowWindowExpiry : Nat := 53
def rowAlignPoint : Nat := 54
def rowAlignSample : Nat := 55
def rowAlignCompare : Nat := 56
def rowUpstream : Nat := 57
def rowDownstream : Nat := 58
def rowBarrierRelease : Nat := 60
def rowStepSkew : Nat := 61
def rowRoving : Nat := 62
def rowLaunchStop : Nat := 64
def rowCheckpoint : Nat := 65
def rowCheckpointConfirm : Nat := 66
def rowResumeStart : Nat := 68
def rowContextKill : Nat := 70
def rowFetchStart : Nat := 72
def rowFetchArrival : Nat := 73
def rowStagingInject : Nat := 74
def rowStagingLanding : Nat := 75
def rowCommitDecision : Nat := 76
def rowCommitComplete : Nat := 77
def rowBridgeSend : Nat := 79
def rowBridgeInject : Nat := 80
def rowWaitcRelease : Nat := 82
def rowAlignResume : Nat := 83
def rowBarwTimeout : Nat := 84
def rowChained : Nat := 86

/-- Phases of a cycle beside those of a tile: the dispatch decision comes first, then module events; routing comes last, Local inputs before the others (R42, R108; log 5, DEDUCED). -/
def phDispatch : Nat := 0
def phModule : Nat := 1
def phRouteLocal : Nat := 11
def phRouteIn : Nat := 12
/-- After everything else, when it is known whether a launch has stopped on the cycle. -/
def phLate : Nat := 13

def insertDue (d : Due) : List Due → List Due
  | [] => [d]
  | h :: r => if d.at_ < h.at_ ∨ (d.at_ = h.at_ ∧ d.ph < h.ph) then d :: h :: r else h :: insertDue d r
/-- Enter an event that falls due at a cycle and phase, after those already due there. -/
def State.post (s : State) (at_ ph : Nat) (item : FetchItem) : State := { s with agenda := insertDue ⟨at_, ph, item⟩ s.agenda }
def State.postEv (s : State) (at_ ph row : Nat) (n : List Nat) : State := s.post at_ ph (eventItem row ⟨n, []⟩)
/-- The wafer's common alignment exchange at a cycle of the reference count, entered once (R49). -/
def State.postPoint (s : State) (c : Nat) : State :=
  if s.agenda.any fun d => d.at_ == c && d.item == eventItem rowAlignPoint ⟨[], []⟩ then s else s.postEv c phModule rowAlignPoint []
/-- An event that is executed next. -/
def State.nowEv (s : State) (row : Nat) (n : List Nat) : State := { s with fetch := s.fetch ++ [eventItem row ⟨n, []⟩] }

/-- The dispatch unit looks again on the next cycle. -/
def State.wake (s : State) : State :=
  if s.agenda.any fun d => d.ph == phDispatch && decide (d.at_ ≤ s.now + 1) && decide (s.now < d.at_) then s
  else s.postEv (s.now + 1) phDispatch rowDispatch []

/-! Packets and notifications (R94 to R99, R109 to R112). -/

/-- SACK: bit i is set when packet ACK + 1 + i is held (R95). -/
def Session.sack (e : Session) : Nat :=
  (List.range 64).foldl (fun acc i => if e.held.any fun p => p.seq == (e.rxNext + 1 + i) % 2 ^ 32 then acc + 2 ^ i else acc) 0
/-- A Chital packet from the device on a session, with its header and its UDP checksum (R94, R95). -/
def Session.pkt (e : Session) (typ seq : Nat) (first last : Bool) (bytes : List Byte) : TxPkt :=
  let p : Packet := { typ := typ, sid := e.sid, seq := seq, ack := e.rxNext, sack := e.sack, first := first, last := last, bytes := bytes }
  { port := e.port, kind := .chital typ, src := e.own, sport := chitalPort, addr := e.addr, udp := e.udp, vlan := e.vlan
    sum := udpSum e.own e.addr chitalPort e.udp p.wire, head := p.header, sid := e.sid, seq := seq, ack := e.rxNext
    sack := e.sack, first := first, last := last, bytes := bytes }
def State.session (s : State) (sid : Nat) : Option Session := s.sessions.find? fun e => e.sid == sid
def State.setSession (s : State) (e : Session) : State := { s with sessions := s.sessions.map fun o => if o.sid = e.sid then e else o }
def State.send (s : State) (p : TxPkt) : State := { s with tx := s.tx ++ [p] }

/-- Move waiting DATA packets into the window of 64 and send them (R98). -/
def fillWindow : Nat → Session → List TxPkt → Session × List TxPkt
  | 0, e, acc => (e, acc)
  | n + 1, e, acc =>
    match e.wait with
    | [] => (e, acc)
    | p :: r =>
      if e.out.length < 64 then fillWindow n { e with wait := r, out := e.out ++ [p], unacked := 0 } (acc ++ [e.pkt 0x01 p.seq p.first p.last p.bytes])
      else (e, acc)
def State.pump (s : State) (sid : Nat) : State :=
  match s.session sid with
  | some e =>
    let r := fillWindow e.wait.length e []
    { s.setSession r.1 with tx := s.tx ++ r.2 }
  | none => s

/-- The payloads of a message, 8,192 bytes each. -/
def chunks : Nat → List Byte → List (List Byte)
  | 0, _ => []
  | n + 1, l => if l.length ≤ 8192 then [l] else l.take 8192 :: chunks n (l.drop 8192)
/-- Send a message on a session as DATA packets (R98, R99). -/
def State.sendMessage (s : State) (sid : Nat) (bytes : List Byte) : State :=
  match s.session sid with
  | none => s
  | some e =>
    let cs := chunks (bytes.length / 8192 + 1) bytes
    let pk := cs.zipIdx.map fun c => ({ seq := (e.txNext + c.2) % 2 ^ 32, first := c.2 == 0, last := c.2 + 1 == cs.length, bytes := c.1, retries := 0 } : DataPkt)
    (s.setSession { e with txNext := (e.txNext + cs.length) % 2 ^ 32, wait := e.wait ++ pk }).pump sid

def insertNote (n : Note) : List Note → List Note
  | [] => [n]
  | h :: r =>
    if n.event < h.event ∨ (n.event = h.event ∧ (n.ctx < h.ctx ∨ (n.ctx = h.ctx ∧ n.queue < h.queue))) then n :: h :: r
    else h :: insertNote n r
/-- The notifications of a cycle go out when it ends (R112). -/
def State.flushNotes (s : State) : State :=
  s.outbox.foldl (fun s n => n.dests.foldl (fun s sid => s.sendMessage sid n.bytes) s) { s with outbox := [] }

/-- A context. -/
def State.ctx (s : State) (c : Nat) : Context := s.contexts.getD c Context.closed
def State.setCtx (s : State) (c : Nat) (k : Context) : State := { s with contexts := s.contexts.set c k }
def State.onCtx (s : State) (c : Nat) (f : Context → Context) : State := s.setCtx c (f (s.ctx c))

/-- Sessions that receive a notification: the owner, and subscribers of its kind (R112, R126); none for what its lost session was to hear of a context that closes for want of it (R121). A subscription to CTX 0xFF copies each notification of its kinds that carries CTX 0xFF, whoever's it is (log 22, DESIGN CHOICE). -/
def State.recipients (s : State) (owner : Option Nat) (ctx nkind : Nat) : List Nat :=
  if ctx < 16 ∧ (s.ctx ctx).closing = true ∧ (s.ctx ctx).closeCmd.isNone = true ∧ owner = some (s.ctx ctx).owner then [] else
  let subs := (s.sessions.filter fun e => e.subs.any fun u => u.1 == ctx && bitAt u.2 (nkind - 0x81)).map (·.sid)
  match owner with
  | some o => o :: subs.filter (· != o)
  | none => subs

/-- A notification (R109, R110): kind, status, cause, command, W0, W1, body; EVENT is the current cycle. -/
def State.notify (s : State) (nkind ctx queue status cause tag w0 w1 : Nat) (body : List Byte) (owner : Option Nat) : State :=
  let hdr := leBytes 1 nkind ++ leBytes 1 ctx ++ leBytes 1 queue ++ leBytes 1 status ++ leBytes 1 cause ++ leBytes 3 0
    ++ leBytes 4 (48 + body.length) ++ leBytes 4 0 ++ leBytes 8 tag ++ leBytes 8 s.now ++ leBytes 8 w0 ++ leBytes 8 w1
  { s with outbox := insertNote { event := s.now, ctx := ctx, queue := queue, dests := s.recipients owner ctx nkind, bytes := hdr ++ body } s.outbox }

/-- State codes of a fault record and of QUERY (R110). -/
def modCode : ModState → Nat
  | .reset => 0 | .recovery => 1 | .serviceOnly => 2 | .ready => 3 | .thermalHalt => 4

def State.faultBytes (s : State) (r : FaultRec) : List Byte :=
  leBytes 2 r.x ++ leBytes 2 r.y ++ leBytes 1 r.engine ++ leBytes 1 (modCode s.mode) ++ leBytes 2 0 ++ leBytes 4 r.entry
    ++ leBytes 4 r.xpc ++ leBytes 8 r.xva ++ leBytes 4 r.xst ++ leBytes 4 0

/-- Status codes (R111). -/
def stDone : Nat := 0x00
def stCancelled : Nat := 0x01
def stCancelledRunning : Nat := 0x02
def stClosed : Nat := 0x03
def stDepFailed : Nat := 0x04
def stNoEffect : Nat := 0x05
def stFaulted : Nat := 0x10
def stKilled : Nat := 0x11
def stRefusedState : Nat := 0x12
def stRefusedFormat : Nat := 0x13
def stRefusedContext : Nat := 0x14
def stRefusedTag : Nat := 0x15
def stRefusedResource : Nat := 0x16
def stRefusedImage : Nat := 0x17
def stRefusedSku : Nat := 0x18
def stRefusedLevel : Nat := 0x19
def stRefusedPrivilege : Nat := 0x1A
def stLateStart : Nat := 0x1B

/-- The one final notification of a command (R111, R112): a COMPLETION for statuses up to 0x07, else a FAULT_REPORT. It goes to the session that sent the command, also where another owns the context (log 22, DESIGN CHOICE). -/
def State.final (s : State) (cmd : Cmd) (status cause w0 w1 : Nat) (body : List Byte) (r : FaultRec) : State :=
  if status ≤ 7 then s.notify 0x81 cmd.ctx cmd.queue status cause cmd.tag w0 w1 body (some cmd.sess)
  else s.notify 0x82 cmd.ctx cmd.queue status cause cmd.tag w0 w1 (s.faultBytes r) (some cmd.sess)
/-- A refusal (R103 to R106, R28). -/
def State.refuse (s : State) (cmd : Cmd) (status : Nat) : State := s.final cmd status 0 0 0 [] {}

/-- An accepted command's tag is kept with its final status (R104). A tag that has been used again counts twice among the 4,096 (log 22, DESIGN CHOICE). -/
def State.keepTag (s : State) (cmd : Cmd) (status : Nat) : State :=
  if cmd.ctx < 16 then s.onCtx cmd.ctx fun k => { k with kept := ((cmd.tag, status) :: k.kept).take 4096 } else s
def removeTag (tag : Nat) (q : List Cmd) : List Cmd := q.filter fun c => c.tag != tag

/-- A dependence is complete: no queued command waits for it any more (R104). -/
def Context.satisfy (k : Context) (tag : Nat) : Context :=
  { k with queues := k.queues.map fun q => q.map fun c => { c with deps := c.deps.filter (· != tag) } }
/-- End a command whose final status is given now: what depends on it ends DEP_FAILED unless it is DONE, and so on down the chain (R104). -/
def failDeps : Nat → State → Nat → List Nat → State
  | 0, s, _, _ => s
  | n + 1, s, ctx, tags =>
    match tags with
    | [] => s
    | tag :: rest =>
      let bad := (s.ctx ctx).queues.flatMap fun q => q.filter fun c => c.deps.contains tag
      let s := s.onCtx ctx fun k => { k with queues := k.queues.map fun q => q.filter fun c => !(c.deps.contains tag) }
      let s := bad.foldl (fun s c => (s.keepTag c stDepFailed).final c stDepFailed 0 0 0 [] {}) s
      failDeps n s ctx (rest ++ bad.map (·.tag))
/-- End an accepted command (R104, R112). -/
def State.endCmd (s : State) (cmd : Cmd) (status cause w0 w1 : Nat) (body : List Byte) (r : FaultRec) : State :=
  let s := (s.keepTag cmd status).final cmd status cause w0 w1 body r
  let s := if cmd.ctx ≥ 16 then s else if status = stDone then s.onCtx cmd.ctx fun k => k.satisfy cmd.tag else failDeps 5000 s cmd.ctx [cmd.tag]
  s.wake
def State.endDone (s : State) (cmd : Cmd) : State := s.endCmd cmd stDone 0 0 0 [] {}

/-- A MODULE_EVENT (R110): 1 state change, 2 clock change, 3 thermal. -/
def State.moduleEvent (s : State) (ev : Nat) : State :=
  s.notify 0x85 0xFF 0 0 0 0 s.now 0 (leBytes 1 ev ++ leBytes 1 (modCode s.mode) ++ leBytes 1 s.n ++ leBytes 5 0) none

/-! DRAM and translation (R73 to R77, R236). -/

/-- Installed DRAM (R73). -/
def dramTop : Nat := 48 * 2 ^ 36

/-- The page of a flit is pinned for writing by a launch in flight (R93). -/
def State.pinnedWr (s : State) (pa : Nat) : Bool :=
  s.launches.any fun l => !(l.phase == .killed || l.phase == .retired) && l.scripts.any fun c => c.pins.any fun p =>
    decide (p.2.2 ≤ pa) && decide (pa < p.2.2 + p.2.1) && c.writes.any fun w => decide (w.va < p.1 + p.2.1) && decide (p.1 < w.va + 64 * w.n)
/-- Reads of a flit by READ_DRAM commands that the free choice puts before a write to it (R122). -/
def readsBefore (dram : Mem) (pa : Nat) : Nat → List HostJob → List HostJob
  | _, [] => []
  | fv, j :: r =>
    (if !j.write && Config.straddle fv then
      { j with pend := j.pend.filter (fun e => e.2.1 != pa)
               got := j.got ++ (j.pend.filter fun e => e.2.1 == pa).map fun e => (e.1, dram.bytes pa 64) }
     else j) :: readsBefore dram pa (fv + 1) r
/-- Flits of fetches that the free choice puts before a write to them (R236). -/
def fetchesBefore (dram : Mem) (pa : Nat) : Nat → List PendRead → List PendRead
  | _, [] => []
  | fv, r :: l =>
    (if r.pa = pa ∧ r.got.isNone ∧ Config.straddle fv = true then { r with got := some (dram.bytes pa 64) } else r) :: fetchesBefore dram pa (fv + 1) l
/-- A write of bytes within one flit of DRAM. -/
def State.writeDram (s : State) (pa : Nat) (bs : List Byte) : State :=
  let base := pa / 64 * 64
  let s : State := if s.reads.any fun r => r.pa == base then
      { s with reads := fetchesBefore s.dram base s.fv s.reads, fv := s.fv + s.reads.length } else s
  let open_ := s.jobs.any fun j => !j.write && j.pend.any fun e => e.2.1 == base
  let s := if open_ then { s with jobs := readsBefore s.dram base s.fv s.jobs, fv := s.fv + s.jobs.length } else s
  { s with dram := s.dram.write pa bs }
/-- The pending flits of host writes to a flit's address that the free choice says have been performed: the jobs that are left, and the bytes in order (R236; log 8, DESIGN CHOICE). -/
def settleJobs (fv pa : Nat) : List HostJob → List HostJob × List (List Byte)
  | [] => ([], [])
  | j :: r =>
    let rest := settleJobs (fv + 1) pa r
    if j.write && Config.straddle fv then
      ({ j with pend := j.pend.filter fun e => e.2.1 != pa } :: rest.1, ((j.pend.filter fun e => e.2.1 == pa).map (·.2.2)) ++ rest.2)
    else (j :: rest.1, rest.2)
/-- The same for commits; of one launch, an earlier interval's flit goes first (log 33, DESIGN CHOICE). -/
def settleCommits (fv pa : Nat) : List CommitJob → List CommitJob × List (List Byte)
  | [] => ([], [])
  | j :: r =>
    let rest := settleCommits (fv + 1) pa r
    let after := r.zipIdx.any fun e => e.1.launch == j.launch && (e.1.pend.any fun q => q.1 == pa) && Config.straddle (fv + 1 + e.2)
    if Config.straddle fv || after then
      ({ j with pend := j.pend.filter fun e => e.1 != pa } :: rest.1, ((j.pend.filter fun e => e.1 == pa).map fun e => leBytes 64 e.2.toNat) ++ rest.2)
    else (j :: rest.1, rest.2)
/-- A write none of whose flits has been performed, all of them among those that a read has just found so: its first one comes no earlier than now (R122). -/
def HostJob.unseen (pas : List Nat) (j : HostJob) : HostJob :=
  if j.write && 64 * j.pend.length + 8 == j.cmd.body.length && j.pend.all fun e => pas.contains e.2.1 then { j with lo := none } else j
/-- A read of the flit at `pa`: writes to it that are in progress may or may not have been performed, and each other access to it that is in its span came before or after them (R236). Of several found performed, host writes go first, in the order of their jobs, then commits (log 8, DESIGN CHOICE). -/
def State.readFlit (s : State) (pa : Nat) : State × List Byte :=
  let open_ := s.jobs.any (fun j => j.write && j.pend.any fun e => e.2.1 == pa) || s.commits.any fun j => j.pend.any fun e => e.1 == pa
  if open_ then
    let a := if s.pinnedWr pa then (s.jobs, []) else settleJobs s.fv pa s.jobs
    let b := settleCommits (s.fv + s.jobs.length) pa s.commits
    let s : State := { s with jobs := a.1, commits := b.1, fv := s.fv + s.jobs.length + s.commits.length }
    let s := (a.2 ++ b.2).foldl (fun s bs => s.writeDram pa bs) s
    let s : State := { s with jobs := s.jobs.map (HostJob.unseen [pa]) }
    (s, s.dram.bytes pa 64)
  else (s, s.dram.bytes pa 64)
/-- A read of every flit that a test picks: those of the writes in progress may or may not have been performed (R122, R236). -/
def State.readFlits (s : State) (p : Nat → Bool) : State :=
  let pas := (((s.jobs.filter (·.write)).flatMap fun j => j.pend.map (·.2.1)) ++ s.commits.flatMap fun j => j.pend.map (·.1)).filter p |>.eraseDups
  let s := pas.foldl (fun s pa => (s.readFlit pa).1) s
  { s with jobs := s.jobs.map (HostJob.unseen pas) }

/-- A page-table entry, decoded (R74): base, length, physical base, readable, writable, service. -/
structure Pte where
  va : Nat
  len : Nat
  pa : Nat
  rd : Bool
  wr : Bool
  sv : Bool
  deriving DecidableEq, Repr
/-- The valid entries of a table in order, or none when the table is invalid (R74): alignment, order, overlap. -/
def readTable (m : Mem) (base : Nat) : Nat → Option (List Pte)
  | 0 => some []
  | k + 1 =>
    match readTable m base k with
    | none => none
    | some l =>
      let w := m.nat (base + 16 * k) 16
      if !(bitAt w 123) then some l
      else
        let len := 4096 * 4 ^ (bitsAt w 124 4)
        let va := bitsAt w 76 36 * 4096
        let pa := bitsAt w 46 30 * 4096
        let ok := va % len == 0 && pa % len == 0 && (match l.getLast? with | some e => decide (e.va + e.len ≤ va) | none => true)
        if ok then some (l ++ [⟨va, len, pa, bitAt w 122, bitAt w 121, bitAt w 120⟩]) else none
/-- The table of a context (R74). -/
def State.table (s : State) (c : Nat) : Option (List Pte) := let k := s.ctx c; readTable s.dram k.ptBase k.ptCount
/-- The entry of a virtual address (R75). -/
def findPte (l : List Pte) (va : Nat) : Option Pte := l.find? fun e => decide (e.va ≤ va) && decide (va < e.va + e.len)
/-- A virtual address through a context's table: its entry and physical address (R75). -/
def State.translate (s : State) (c va : Nat) : Option (Pte × Nat) :=
  match s.table c with
  | none => none
  | some l => (findPte l va).map fun e => (e, e.pa + (va - e.va))
/-- A run of bytes at a virtual address, page by page within flits; unmapped bytes read as zero. -/
def State.readVirt (s : State) (c va n : Nat) : List Byte :=
  match s.table c with
  | none => List.replicate n 0
  | some l => (List.range ((n + 63) / 64)).flatMap fun i =>
      let k := min 64 (n - 64 * i)
      match findPte l (va + 64 * i) with
      | some e => s.dram.bytes (e.pa + (va + 64 * i - e.va)) k
      | none => List.replicate k 0

/-- The physical spans of a run of virtual addresses: first byte, and the byte after the last. -/
def physSpans (l : List Pte) (va len : Nat) : List (Nat × Nat) :=
  l.filterMap fun e =>
    let lo := max e.va va
    let hi := min (e.va + e.len) (va + len)
    if lo < hi then some (e.pa + (lo - e.va), e.pa + (hi - e.va)) else none
/-- A span holds a byte of the flit at `pa`. -/
def touches (pa : Nat) (sp : Nat × Nat) : Bool := decide (sp.1 < pa + 64) && decide (pa < sp.2)
/-- The spans of the images that a context has registered (R123). -/
def State.imageSpans (s : State) (c : Nat) : List (Nat × Nat) :=
  if (s.ctx c).images.isEmpty then [] else match s.table c with
    | none => []
    | some l => (s.ctx c).images.flatMap fun i => physSpans l i.va i.len
/-- What the dispatch unit and Markhor read in passing: page tables and registered images. Flits of writes in progress to them may have been performed with each cycle that ends (R122, R236). -/
def State.readPassing (s : State) : State :=
  if s.jobs.isEmpty && s.commits.isEmpty then s
  else
    let spans := (List.range 16).flatMap fun c =>
      let k := s.ctx c
      if k.opening = 0 then [] else (k.ptBase, k.ptBase + 16 * k.ptCount) :: s.imageSpans c
    s.readFlits fun pa => spans.any (touches pa)

/-! The Roving line (R67 to R69). -/

def rovTrig : Nat := 1
def rovAlert : Nat := 2
def rovThermal : Nat := 3
def rovStart : Nat := 4

/-- The 144 fields. -/
def allFields : List (Nat × Nat) := (List.range 144).map fun i => (i % 12, i / 12)
/-- Send a message from a field; it waits for the field's injection (R69). -/
def State.rove (s : State) (fx fy slot : Nat) (m : RovMsg) : State := { s with roving := s.roving ++ [⟨fx, fy, slot, m⟩] }
/-- ALERT and THERMAL before TRIG, then the origin's slot (R69). -/
def RovPend.before (a b : RovPend) : Bool :=
  let pa := if a.msg.kind = rovTrig then 1 else 0
  let pb := if b.msg.kind = rovTrig then 1 else 0
  decide (pa < pb) || (pa == pb && decide (a.slot < b.slot))
def postRove (s : State) (at_ fx fy : Nat) (m : RovMsg) : State :=
  s.postEv at_ phModule rowRoving [fx, fy, m.stamp, m.kind, m.cause, m.ox, m.oy]
def apart (a b : Nat) : Nat := (a - b) + (b - a)
/-- A message injected now reaches every field at its own latency (R69). -/
def State.inject (s : State) (p : RovPend) : State :=
  allFields.foldl (fun s f => postRove s (s.now + 4 + 3 * max (apart f.1 p.fx) (apart f.2 p.fy)) f.1 f.2 p.msg) s
/-- The injections of the cycle that ends: one for each field (R69). -/
def State.injectAll (s : State) : State :=
  let fields := (s.roving.map fun p => (p.fx, p.fy)).eraseDups
  fields.foldl (fun s f =>
    let mine := s.roving.filter fun p => p.fx == f.1 && p.fy == f.2
    match mine.foldl (fun (b : Option RovPend) p => match b with | none => some p | some q => if p.before q then some p else b) none with
    | some p => ({ s with roving := s.roving.erase p }).inject p
    | none => s) s
/-- A message from Markhor reaches every field at STAMP + 6 (R69). -/
def State.roveMarkhor (s : State) (kind cause : Nat) : State :=
  allFields.foldl (fun s f => postRove s (s.now + 6) f.1 f.2 ⟨s.now, kind, cause, 0xFF, 0xFF⟩) s

/-- A unit meets a kind-H error (R256): the ALERT goes out, dispatch stops until the resume, and the self-test is owed. A tile stamps it with its own counter (R67). A unit that is no tile has no Distaff slot: it is ordered as slot 272, after the tiles; a group node sends from its centre field, the root node from field (5, 5) (R69; log 32, DESIGN CHOICE). -/
def State.alert (s : State) (cause unitKind a b : Nat) : State :=
  let ox := if unitKind = 0 then a else 0xFF
  let oy := if unitKind = 0 then b else 0xFF
  let f := match unitKind with
    | 0 => (s.fieldX a, fieldY b)
    | 1 => engineField a
    | 4 => (3 * a + 1, 3 * b + 1)
    | 5 => (5, 5)
    | _ => (a, b)
  let slot := if unitKind = 0 then a % 16 + 16 * (b % 16) else 272
  let stamp := if unitKind = 0 then (s.tile a b).gcy s.now else s.now
  let owed := s.halts.any fun h => h.cause == cause && h.unitKind == unitKind && h.a == a && h.b == b
  { s.rove f.1 f.2 slot ⟨stamp, rovAlert, cause, ox, oy⟩ with
    halted := true
    halts := if owed then s.halts else s.halts ++ [⟨stamp, cause, unitKind, a, b, if unitKind = 0 then (s.phys a b).1 else 0, false⟩] }

/-! The Ply tree (R59 to R66, R392, R398). -/

/-- The band of a segment (R62). -/
def State.band (s : State) (g : Segment) : Nat :=
  let fs := (g.members.map fun m => (s.fieldX m.x, fieldY m.y)).eraseDups
  if fs.length ≤ 1 then 0
  else if s.sku = 0 ∧ (fs.map fun f => (f.1 / 3, f.2 / 3)).eraseDups.length ≤ 1 then 1
  else 2
def bandLat (band : Nat) : Nat := match band with | 0 => 6 | 1 => 14 | _ => 24
/-- Skew of a field under a band (R64). -/
def State.skew (s : State) (band fx fy : Nat) : Nat :=
  let gx := fx / 3
  let gy := fy / 3
  let one' := max (apart fx (3 * gx + 1)) (apart fy (3 * gy + 1))
  match band with
  | 0 => 0
  | 1 => one'
  | _ => if s.sku = 1 then 2 else one' + (if 1 ≤ gx ∧ gx ≤ 2 ∧ 1 ≤ gy ∧ gy ≤ 2 then 0 else 1)
/-- The cycle at which a release or a skew report for latest event T reaches a member (R64). -/
def State.releaseAt (s : State) (g : Segment) (t : Nat) (m : Member) : Nat :=
  let b := s.band g
  t + bandLat b + s.skew b (s.fieldX m.x) (fieldY m.y)

/-- Every member has arrived or is excused (R63). -/
def Segment.complete (g : Segment) : Bool := g.members.all fun m => m.exc || m.arrived.isSome
/-- T of R64: the greatest arrival event of the non-excused members. -/
def Segment.latest (g : Segment) : Nat := g.members.foldl (fun acc m => if m.exc then acc else max acc (m.arrived.getD 0)) 0
/-- The next barrier begins; a member that has ENDed stays arrived (R63). -/
def Segment.nextBarrier (g : Segment) : Segment :=
  { g with members := g.members.map fun m => if m.ended then m else { m with arrived := none } }
/-- Release a complete segment: every member's release at its own D (R64). -/
def State.tryRelease (s : State) (i : Nat) (floor : Nat) : State :=
  match s.segs[i]? with
  | none => s
  | some g =>
    if g.complete then
      let t := max g.latest floor
      let s := g.members.foldl (fun s m => s.postEv (s.releaseAt g t m) phRelease rowBarrierRelease [m.x, m.y, g.lvl]) s
      { s with segs := s.segs.set i g.nextBarrier }
    else s
def Segment.has (g : Segment) (x y : Nat) : Bool := g.members.any fun m => m.x == x && m.y == y
def Segment.onMember (g : Segment) (x y : Nat) (f : Member → Member) : Segment :=
  { g with members := g.members.map fun m => if m.x = x ∧ m.y = y then f m else m }
/-- The index of the segment of a tile at a level. -/
def State.segOf (s : State) (x y lvl : Nat) : Option Nat := s.segs.findIdx? fun g => g.lvl == lvl && g.has x y
/-- A BARA's arrival at a level (R63); without a record the tile is a barrier alone, in band 0. -/
def State.arrive (s : State) (x y lvl : Nat) : State :=
  match s.segOf x y lvl with
  | none => s.postEv (s.now + 6) phRelease rowBarrierRelease [x, y, lvl]
  | some i =>
    let s : State := { s with segs := s.segs.modify i fun g => g.onMember x y fun m => { m with arrived := m.arrived <|> some s.now } }
    s.tryRelease i 0

/-- The strobes of count m, from 1 on, that the non-excused members have driven (R66). -/
def Segment.strobesOf (g : Segment) (m : Nat) : List Nat := (g.members.filter fun k => !k.exc).filterMap fun k => k.strobes[m - 1]?
/-- A member's report of skew for count m, of a launch's run, falls due at a cycle, in place of one that has not been delivered. -/
def State.postSkew (s : State) (at_ lvl m : Nat) (k : Member) : State :=
  let item := eventItem rowStepSkew ⟨[k.x, k.y, lvl, m], []⟩
  { s with agenda := s.agenda.filter fun d => d.item != item }.post at_ phRelease item
/-- A STEP strobe (R66). Strobes of one count that differ are reported at the cycle of R64 for the latest of them. The node cannot know that a further strobe of the count will come: one that comes moves a report that is still on its way, and makes a new one after that (log 32, DEDUCED). -/
def State.strobe (s : State) (x y lvl : Nat) : State :=
  match s.segOf x y lvl with
  | none => s
  | some i =>
    let s : State := { s with segs := s.segs.modify i fun g => g.onMember x y fun m => { m with strobes := m.strobes ++ [s.now] } }
    match s.segs[i]? with
    | none => s
    | some g =>
      match g.members.find? fun k => k.x == x && k.y == y with
      | none => s
      | some me =>
        let m := me.strobes.length
        if me.exc || (g.strobesOf m).all (· == s.now) then s
        else g.members.foldl (fun s k => s.postSkew (s.releaseAt g s.now k) lvl m k) s
/-- A tile's final END, or its freeze: it has arrived at every barrier of the launch from now on (R63, R252, R392). -/
def State.memberEnds (s : State) (x y : Nat) : State :=
  [1, 2, 3].foldl (fun s lvl =>
    match s.segOf x y lvl with
    | none => s
    | some i =>
      let s : State := { s with segs := s.segs.modify i fun g => g.onMember x y fun m => { m with arrived := m.arrived <|> some s.now, ended := true } }
      s.tryRelease i 0) s

/-! Launches. -/

def State.launchOf (s : State) (id : Nat) : Option Launch := s.launches.find? fun l => l.id == id
def State.setLaunch (s : State) (l : Launch) : State := { s with launches := s.launches.map fun o => if o.id = l.id then l else o }
def State.onLaunch (s : State) (id : Nat) (f : Launch → Launch) : State := { s with launches := s.launches.map fun o => if o.id = id then f o else o }

/-- The tiles of a region in row-major order (R147). -/
def Lnr.tiles (r : Lnr) : List (Nat × Nat) := (List.range (r.w * r.h)).map fun p => (r.x0 + p % r.w, r.y0 + p / r.w)
def Lnr.area (r : Lnr) : Nat := r.w * r.h
/-- N: the product of the counts (R147). -/
def Lnr.total (r : Lnr) : Nat := r.cnt.foldl (· * ·) 1
def Lnr.covers (r : Lnr) (x y : Nat) : Bool := decide (r.x0 ≤ x) && decide (x < r.x0 + r.w) && decide (r.y0 ≤ y) && decide (y < r.y0 + r.h)
/-- Position p of a tile in its region (R147). -/
def Lnr.pos (r : Lnr) (x y : Nat) : Nat := (x - r.x0) + r.w * (y - r.y0)
/-- start(n), on the TSTART register (R147, R158). -/
def Launch.startOf (l : Launch) (n : Nat) : Nat := l.tstart + n / l.lnr.area * l.lnr.period
/-- Do something on every tile of a launch. -/
def State.onRegion (s : State) (l : Launch) (f : Nat → Nat → Tile → Tile) : State :=
  l.lnr.tiles.foldl (fun s p => s.onTile p.1 p.2 (f p.1 p.2)) s
/-- The running launch whose region holds a tile. -/
def State.runningAt (s : State) (x y : Nat) : Option Launch :=
  s.launches.find? fun l => (l.phase == .running) && l.lnr.covers x y
/-- A launch-level log entry (R263). -/
def Launch.addLog (l : Launch) (c cause kind lost : Nat) : Launch :=
  let e : DevEntry := { pc := noPc, cause := cause, kind := kind, rx := 0xFF, ry := 0xFF, lost := sat32u lost, cyc := (c - l.tstart) % 2 ^ 32 }
  { l with log := if l.log.length < 32 then l.log ++ [e] else l.log, logCount := l.logCount + 1
           logLost := if kind = 3 ∨ kind = 6 then l.logLost else l.logLost + sat32u lost }

/-! The alignment exchange (R49, R52). -/

/-- The tile's next alignment point at or after a cycle, on its own counter and as a cycle (R49). -/
def Tile.nextPoint (t : Tile) (c : Nat) : Nat × Nat :=
  let g := max 65536 ((t.gcy c + 65535) / 65536 * 65536 % 2 ^ 64)
  (g, t.cycleOf g)
/-- An exchange at point g is due at a tile and its neighbours, each by its own counter. Tiles whose counters and whose neighbours' counters read the reference take part in the wafer's common exchange (log 11, DEDUCED). -/
def State.postExchange (s : State) (x y g : Nat) : State :=
  let ts := (x, y) :: (List.range 4).filterMap fun d => s.neighbour x y d
  ts.foldl (fun s p =>
    let at_ := (s.tile p.1 p.2).cycleOf g
    let item := eventItem rowAlignPoint ⟨[p.1, p.2], []⟩
    if at_ < s.now ∨ s.agenda.any (fun d => d.at_ == at_ && d.item == item) then s else s.post at_ phModule item) s

/-- The cycle of the exchange a tile makes next: that of its next own point, the current cycle's included unless its exchange has begun with it (R49). -/
def State.nextExchange (s : State) (x y : Nat) : Nat :=
  ((s.tile x y).nextPoint (if (s.tile x y).align.any fun e => e.at_ == s.now then s.now + 1 else s.now)).2
/-- A tile and its neighbours each make their next exchange at their own next point, whichever of their counters is adrift (R49). -/
def State.postPoints (s : State) (x y : Nat) : State :=
  let ts := (x, y) :: (List.range 4).filterMap fun d => s.neighbour x y d
  ts.foldl (fun s p =>
    let at_ := s.nextExchange p.1 p.2
    let item := eventItem rowAlignPoint ⟨[p.1, p.2], []⟩
    if s.agenda.any (fun d => d.at_ == at_ && d.item == item) then s else s.post at_ phModule item) s

/-! What a tile hands over. -/

/-- The first own Distaff slot of a tile after a cycle (R54). The ring counts slots on the wafer's reference, also for a tile whose own counter is adrift (log 32, DEDUCED). -/
def nextSlot (x y c : Nat) : Nat :=
  let slot := x % 16 + 16 * (y % 16)
  c + 1 + (slot + 288 - (c + 1) % 288) % 288

/-- A flit as event operands. -/
def Flit.arg (f : Flit) : List Nat := [f.data.toNat, if f.poison then 1 else 0]

/-- One thing that a tile handed over. -/
def State.emitted (s : State) (x y : Nat) (e : Emit) : State :=
  match e with
  | .inject at_ port f => s.postEv at_ phRouteLocal rowFlitArrival ([x, y, 4] ++ f.arg ++ [port])
  | .arrive lvl => s.arrive x y lvl
  | .strobe lvl => s.strobe x y lvl
  | .trig => s.rove (s.fieldX x) (fieldY y) (x % 16 + 16 * (y % 16)) ⟨(s.tile x y).gcy s.now, rovTrig, 0, x, y⟩
  | .froze _ => s.memberEnds x y
  | .ended => s.memberEnds x y
  | .service =>
    let t := s.tile x y
    let who := ((t.launch.bind s.launchOf).map fun l => (l.cmd.ctx, l.cmd.queue, l.cmd.tag)).getD (0, 0, 0)
    (s.setTile x y { t with svc := t.svc.map fun v => { v with who := who } }).postEv (nextSlot x y s.now) phEnd
      (if (t.svc.map (·.kind)) == some 1 then rowDownstream else rowUpstream) [x, y]
  | .align => s.postExchange x y (((s.tile x y).nextPoint (s.now + 16)).1)
  | .alert cause => s.alert cause 0 x y
/-- What is known of when the first flit of each host access is performed: not while every flit waits for a launch that has pinned its page, not after one has been seen (R93, R122). -/
def State.markJobs (s : State) : State :=
  let mark : HostJob → HostJob := fun j =>
    let may := !j.write || j.pend.any fun e => !s.pinnedWr e.2.1
    let seen := if j.write then decide (64 * j.pend.length + 8 < j.cmd.body.length) else !j.got.isEmpty
    { j with lo := j.lo <|> (if may || seen then some s.now else none), hi := j.hi <|> (if seen then some s.now else none) }
  if s.jobs.isEmpty then s else { s with jobs := s.jobs.map mark }
/-- Drain what the tiles handed over. -/
def State.drainOut (s : State) : State :=
  let todo := s.tiles.flatMap fun e => e.2.out.map fun o => (e.1 % 256, e.1 / 256, o)
  match todo with
  | [] => s
  | _ =>
    let s : State := { s with tiles := s.tiles.map fun e => if e.2.out.isEmpty then e else (e.1, { e.2 with out := [] }) }
    todo.foldl (fun s e => s.emitted e.1 e.2.1 e.2.2) s
/-- What follows an item or an action within its step. -/
def State.absorb (s : State) : State := s.drainOut.markJobs

/-! Time. -/

/-- The cycle ends: notifications and Roving messages go out, and the cycle becomes `c`. -/
def State.advanceTo (s : State) (c : Nat) : State :=
  if c ≤ s.now then s else { s.flushNotes.injectAll.readPassing with now := c }

end Sys2Proof.Machine
end

