-- ==== Sys2Proof/Machine/Exec.lean ====
section
/-! DEFINITION. The form that every slot instruction's meaning has: on the tile and cycle of the word in execution, its own precise causes first, then its effect (R239, R246). -/

namespace Sys2Proof.Machine

/-- How a meaning ends. -/
abbrev Res := Host.Outcome State Fault Refusal

/-- The tile of the word in execution. -/
def State.curTile (s : State) : Tile := s.tile s.cur.x s.cur.y
def State.setCur (s : State) (t : Tile) : State := s.setTile s.cur.x s.cur.y t

/-- The precise cause that keeps an instruction from acting: the lowest it raises, unless its word acts (R239, R244). -/
def Tile.stops (t : Tile) (cur : Cur) (i : Instr) : Option Cause :=
  match lowest (t.causes cur i) with
  | some e => if wordActs e.1 then none else some e
  | none => none

/-- A slot instruction: it traps in place of acting (R239), or acts. -/
def slotOp (i : Instr) (s : State) (eff : Tile → Tile) : Res :=
  match s.curTile.stops s.cur i with
  | some e => .next (s.setCur (s.curTile.takePrecise s.cur e))
  | none => .next (s.setCur (eff s.curTile))

/-- Operand b of a scalar instruction: K with KB, else S[b] (R291). -/
def Tile.opB (t : Tile) (c : Nat) (kb : Bool) (b : BitVec 5) : Word := if kb then t.kreg c else t.s32 c b.toNat

/-- Write a scalar result available at c + lat. -/
def Tile.putS (t : Tile) (cur : Cur) (d : BitVec 5) (lat : Nat) (v : Word) : Tile := t.pushRW cur.c cur.slot (rwS d.toNat lat v)
/-- Write a predicate result available at c + 1. -/
def Tile.putP (t : Tile) (cur : Cur) (d : BitVec 3) (v : Bool) : Tile := t.pushRW cur.c cur.slot (rwP d.toNat 1 v)

/-- d = f(a, b), available at c + lat (R291, R292). -/
def Tile.rr (t : Tile) (cur : Cur) (o : RR) (lat : Nat) (f : Word → Word → Word) : Tile :=
  t.putS cur o.d lat (f (t.s32 cur.c o.a.toNat) (t.opB cur.c o.kb o.b))
/-- d = f(a). -/
def Tile.r1 (t : Tile) (cur : Cur) (o : RR) (lat : Nat) (f : Word → Word) : Tile := t.putS cur o.d lat (f (t.s32 cur.c o.a.toNat))
/-- d = f(a, b) with flags at the result cycle (R291, R295). -/
def Tile.fp2 (t : Tile) (cur : Cur) (o : RR) (lat : Nat) (f : Word → Word → Word × Flags) : Tile :=
  let r := f (t.s32 cur.c o.a.toNat) (t.opB cur.c o.kb o.b)
  (t.putS cur o.d lat r.1).setFlags (cur.c + lat) r.2
def Tile.fp1 (t : Tile) (cur : Cur) (o : RR) (lat : Nat) (f : Word → Word × Flags) : Tile :=
  let r := f (t.s32 cur.c o.a.toNat)
  (t.putS cur o.d lat r.1).setFlags (cur.c + lat) r.2
/-- d = f(a) of an immediate form (R294). -/
def Tile.ri (t : Tile) (cur : Cur) (o : RI) (f : Word → Word) : Tile := t.putS cur o.d 1 (f (t.s32 cur.c o.a.toNat))
/-- pd = f(a, b) (R300). -/
def Tile.pc2 (t : Tile) (cur : Cur) (o : PC) (f : Word → Word → Bool) : Tile :=
  t.putP cur o.pd (f (t.s32 cur.c o.a.toNat) (t.opB cur.c o.kb o.b))
/-- pd = f(a, b) with flags (R300). -/
def Tile.pcf (t : Tile) (cur : Cur) (o : PC) (f : Word → Word → Bool × Flags) : Tile :=
  let r := f (t.s32 cur.c o.a.toNat) (t.opB cur.c o.kb o.b)
  (t.putP cur o.pd r.1).setFlags (cur.c + 1) r.2
/-- pd = f(pa, pb) (R301). -/
def Tile.pl2 (t : Tile) (cur : Cur) (o : PL) (f : Bool → Bool → Bool) : Tile :=
  t.putP cur o.pd (f (t.pr cur.c o.pa.toNat) (t.pr cur.c o.pb.toNat))

/-- A local load of `size` bytes at c + 1, available at c + 3 (R305). -/
def Tile.localLoad (t : Tile) (cur : Cur) (o : RI) (size : Nat) (sgn : Bool) : Tile :=
  (t.putS cur o.d 3 0).sched (cur.c + 1) phRead cur.c cur.slot (t.chk cur.c) (.loadS o.d.toNat (t.localAddr cur.c o) size sgn)
/-- A local store of `size` bytes at c + 2 (R305): rank 1 (R218). -/
def Tile.localStore (t : Tile) (cur : Cur) (o : RI) (size : Nat) : Tile :=
  t.sched (cur.c + 2) phWrite cur.c cur.slot (t.chk cur.c)
    (.write { rank := 1, iss := cur.c, slot := cur.slot, pool := true
              els := [⟨8 * t.localAddr cur.c o, 8 * size, (t.s32 cur.c o.d.toNat).toNat % 2 ^ (8 * size), 0⟩]
              run := none, sink := .fpst, pre := [] })

end Sys2Proof.Machine
end

