-- ==== Sys2Proof/Machine/Control.lean ====
section
/-! DEFINITION. The issue words NOP and LIT and the CT slot: transfers, loops, waits, barriers, steps, traps, END and SYS (R160, R161, R307 to R323). -/

namespace Sys2Proof.Machine

/-! Issue words. -/

/-- NOP: no slot acts; the next word follows after 1 + WAIT cycles, with the back-edges of the word (R160, R314). -/
def execNop (o : IssueWord) (s : State) : Res :=
  .next (s.setCur (s.curTile.advance s.cur.c s.cur.pc 1 (s.cur.c + 1 + o.wait.toNat) false))

/-- LIT: K is written for words that issue at c + 3 or later, and the next word issues at c + 3 + WAIT (R161). -/
def execLit (o : IssueWord) (lit : BitVec 32) (s : State) : Res :=
  .next (s.setCur ((s.curTile.advance s.cur.c s.cur.pc 3 (s.cur.c + 3 + o.wait.toNat) false).pushRW s.cur.c 7
    (rwSp spK 3 (lit.setWidth 64))))

/-! Transfers (R307 to R310). -/

/-- The word that follows is the delay slot of a transfer to `tgt`. -/
def Tile.takeTransfer (t : Tile) (tgt : Nat) : Tile := { t with seq := { t.seq with xfer := some tgt } }
/-- S[r][15:0] (R310). -/
def Tile.indirect (t : Tile) (c r : Nat) : Nat := (t.s32 c r).toNat % 65536
/-- S31 receives the address of the word after the delay slot (R310). -/
def Tile.link (t : Tile) (cur : Cur) : Tile :=
  let lit := bitsAt (t.half (cur.pc + 1)) 4 9 == 511
  t.putS cur 31 1 (BitVec.ofNat 32 (cur.pc + if lit then 4 else 2))

/-- TREE: the first test that holds selects its target; none leaves the words sequential (R309). -/
def execTree (o : TreeOp) (s : State) : Res :=
  slotOp (.tree o) s fun t =>
    match t.treeSel s.cur.c o with
    | 1 => t.takeTransfer (t.target o.t0.target.toNat)
    | 2 => t.takeTransfer (t.target o.t1.target.toNat)
    | 3 => t.takeTransfer (t.target o.t2.target.toNat)
    | 4 => t.takeTransfer (t.target o.t3.target.toNat)
    | _ => t
/-- JMP t (R310). -/
def execJmp (i : BitVec 6) (s : State) : Res := slotOp (.jmp i) s fun t => t.takeTransfer (t.target i.toNat)
/-- JMP Sn (R310). -/
def execJmpIndirect (r : BitVec 5) (s : State) : Res := slotOp (.jmpIndirect r) s fun t => t.takeTransfer (t.indirect s.cur.c r.toNat)
/-- CALL t (R310). -/
def execCall (i : BitVec 6) (s : State) : Res := slotOp (.call i) s fun t => (t.takeTransfer (t.target i.toNat)).link s.cur
/-- CALL Sn (R310). -/
def execCallIndirect (r : BitVec 5) (s : State) : Res :=
  slotOp (.callIndirect r) s fun t => (t.takeTransfer (t.indirect s.cur.c r.toNat)).link s.cur
/-- RET (R310). -/
def execRet (s : State) : Res := slotOp .ret s fun t => t.takeTransfer (t.indirect s.cur.c 31)

/-! Loops (R311 to R314). -/

/-- LS as a LOOP writes it (R312). -/
def lsWord (act : Bool) (pk : Nat) (mode : Bool) (start : Nat) : BitVec 64 :=
  BitVec.ofNat 64 ((if act then 2 ^ 31 else 0) + pk % 8 * 2 ^ 17 + (if mode then 2 ^ 16 else 0) + start % 65536)
/-- The registers that a LOOP writes, available at c + 1; its level becomes the latest (R313). -/
def Tile.loopRegs (t : Tile) (cur : Cur) (o : LoopOp) (act mode : Bool) (pk lm : Nat) : Tile :=
  let k := o.lvl.toNat
  let w : Nat → BitVec 64 → Tile → Tile := fun n v t => t.pushRW cur.c cur.slot (rwSp n 1 v)
  let t := w (spLS k) (lsWord act pk mode (cur.pc + 1)) t
  let t := w (spLE k) (BitVec.ofNat 64 ((cur.pc + o.fin.toNat) % 65536)) t
  let t := w (spLM k) (BitVec.ofNat 64 (lm % 2 ^ 32)) (w (spLC k) 0 t)
  { t with seq := { t.seq with order := o.lvl.toFin :: t.seq.order.filter (· != o.lvl.toFin) } }
/-- A counted LOOP (R313): a count of zero skips the body, unless a back-edge of its own word raises cause 0x06 at START (R314; log 16, DEDUCED). -/
def Tile.loopCount (t : Tile) (cur : Cur) (o : LoopOp) (n : Nat) : Tile :=
  let t := t.loopRegs cur o (n != 0) false 0 n
  if n = 0 ∧ cur.dly.isNone ∧ !t.exhausted cur.c then { t with seq := { t.seq with pc := cur.pc + o.fin.toNat + 1 } } else t

/-- LOOP Lk, n (R313). -/
def execLoopCounted (o : LoopOp) (cnt : BitVec 13) (s : State) : Res := slotOp (.loopCounted o cnt) s fun t => t.loopCount s.cur o cnt.toNat
/-- LOOP Lk, Sn (R313). -/
def execLoopRegisterCount (o : LoopOp) (r : BitVec 5) (s : State) : Res :=
  slotOp (.loopRegisterCount o r) s fun t => t.loopCount s.cur o (t.s32 s.cur.c r.toNat).toNat
/-- LOOP.U Lk, Pj (R313). -/
def execLoopUntil (o : LoopOp) (pk : BitVec 3) (s : State) : Res :=
  slotOp (.loopUntil o pk) s fun t => t.loopRegs s.cur o true true pk.toNat (o.mman.toNat * 2 ^ o.mexp.toNat)

/-! Waits and barriers (R315 to R317). -/

/-- The word of the tile holds issue until an event ends it (R244, R315). -/
def Tile.holdIssue (t : Tile) (cur : Cur) (h : Hold) : Tile :=
  { t with seq := { t.seq with due := none, hold := h, waitPc := some (cur.pc, cur.dly) } }
/-- A precise cause whose word acts, taken at its issue cycle: XPC names the next word (R242, R319). -/
def Tile.takeActing (t : Tile) (cur : Cur) (cause xva : Nat) : Tile :=
  t.takeTrap cur.c { cause := cause, pre := true, raise := cur.c, xva := xva, sub := 0, src := 5, dtgt := none, xpc := t.seq.pc, dfr := false }

/-- WAITC: on time it holds issue until the tile's GCY reads the target; late it logs, or raises 0x43 (R251, R315). -/
def execWaitc (o : WaitOp) (s : State) : Res :=
  slotOp (.waitc o) s fun t =>
    let g := t.gcy s.cur.c
    let tgt := t.waitTarget s.cur.c o
    if g ≤ tgt then
      let r := max tgt (g + 1 + s.cur.wait) % 2 ^ 64
      (t.holdIssue s.cur (.waitc tgt r)).sched (t.cycleOf r) phRelease s.cur.c s.cur.slot false
        (.event (eventItem rowWaitcRelease ⟨[s.cur.x, s.cur.y], []⟩))
    else if o.log then t.addLog s.cur.c s.cur.pc 0x43 0 (g - tgt)
    else t.takeActing s.cur 0x43 (g - tgt)

/-- BARA: the arrival wire is set; while it is set already, nothing happens (R63, R316). -/
def execBara (lvl : BitVec 2) (s : State) : Res :=
  slotOp (.bara lvl) s fun t =>
    let k := lvl.toNat - 1
    if t.arr.getD k false then t else { t with arr := t.arr.set k true, out := t.out ++ [.arrive lvl.toNat] }

/-- BARW: a set latch is consumed; otherwise issue is held until the release, or until c + MAXW (R317). -/
def execBarw (o : BarwOp) (s : State) : Res :=
  slotOp (.barw o) s fun t =>
    let k := o.lvl.toNat - 1
    if t.latch.getD k false then { t with latch := t.latch.set k false }
    else
      (t.holdIssue s.cur (.barw o.lvl.toNat s.cur.c o.maxw.toNat o.bound.toNat (s.cur.c + 1 + s.cur.wait))).sched (s.cur.c + o.maxw.toNat) phEnd
        s.cur.c s.cur.slot false (.event (eventItem rowBarwTimeout ⟨[s.cur.x, s.cur.y], []⟩))

/-- ALIGN: issue is held, and the tile takes part in the next exchange at or after c + 16 (R52, R321). -/
def execAlign (d : BitVec 5) (s : State) : Res :=
  slotOp (.align d) s fun t =>
    { t.holdIssue s.cur (.align d.toNat s.cur.c s.cur.wait) with out := t.out ++ [.align] }

/-! Steps, traps and ends (R318 to R320). -/

/-- STEP: the plane flip at the end of c, and with the checker on the strobe (R224, R318). -/
def execStep (lvl : BitVec 2) (s : State) : Res :=
  slotOp (.step lvl) s fun t =>
    let t := t.sched s.cur.c phEnd s.cur.c s.cur.slot false (.flip lvl.toNat)
    if t.chk s.cur.c then { t with out := t.out ++ [.strobe lvl.toNat] } else t

/-- TRAP: cause 0x07 with XVA the immediate; XPC names the next word (R319). -/
def execTrap (imm : BitVec 16) (s : State) : Res := slotOp (.trap imm) s fun t => t.takeActing s.cur 0x07 imm.toNat
/-- XRET (R247). -/
def execXret (s : State) : Res := slotOp .xret s fun t => t.trapReturn s.cur.c (s.cur.c + 2 + s.cur.wait)

/-- The first cycle at or after c at which the channels and the matrix engine are idle and every SEND beat has entered the Local input, as far as it is known (R149). -/
def Tile.drainCycle (t : Tile) (c : Nat) : Nat :=
  let cp := t.copies.foldl (fun acc j => match j with
    | some j => max acc j.completion
    | none => acc) c
  t.localIn.foldl max (t.chains.foldl (fun acc e => max acc e.1) (max cp t.mxFree))
/-- A drain point is due (R149). -/
def Tile.postDrain (t : Tile) (x y c : Nat) : Tile :=
  t.sched (t.drainCycle c) phEnd c 5 false (.event (eventItem rowDrainPoint ⟨[x, y], []⟩))
/-- The tile's iteration retires: nothing is fetched until its next start; the final END sets the arrival wires (R63, R149, R320). -/
def Tile.retireIter (t : Tile) (x y c : Nat) : Tile :=
  let fin := t.iterLeft == 0
  let t : Tile := { t with
    seq := { t.seq with mode := .between, due := none, xfer := none, hold := .none, waitPc := none, loopTrap := [] }
    draining := true, finalEnd := fin
    arr := if fin then [true, true, true] else t.arr
    out := if fin then t.out ++ [.ended] else t.out }
  t.postDrain x y c
/-- END (R149, R320). -/
def execEndS (s : State) : Res := slotOp .endS s fun t => t.retireIter s.cur.x s.cur.y s.cur.c

/-- RBMARK (R322). -/
def execRbmark (b : BitVec 5) (imm : BitVec 39) (s : State) : Res :=
  slotOp (.rbmark b imm) s fun t =>
    t.pushRW s.cur.c s.cur.slot (rwSp spRBNEXT 1 (t.spr s.cur.c spTSTART + (t.s32 s.cur.c b.toNat).setWidth 64 + imm.setWidth 64))

/-! SYS (R323). -/

/-- A stop request from a cycle on; each request stays until it lands (R267). -/
def Tile.requestStop (t : Tile) (from_ : Nat) : Tile := { t with stopReq := t.stopReq ++ [from_] }
/-- HALTDBG (R323, R267). -/
def execHaltdbg (s : State) : Res := slotOp .haltdbg s fun t => t.requestStop (s.cur.c + 1)
/-- TRIG: sent on the Roving line with STAMP c (R323). -/
def execTrig (s : State) : Res := slotOp .trig s fun t => { t with out := t.out ++ [.trig] }
/-- PREEMPTPT: a trace record, as an ITB-marked word would write; nothing else (R323, R266). A word that is itself ITB-marked writes one record in all (log 15, DESIGN CHOICE). -/
def execPreemptpt (s : State) : Res := slotOp .preemptpt s fun t => if s.cur.itb then t else t.traceRec s.cur.c s.cur.pc
/-- CHKON: the checker is on for words issued at c + 1 or later (R323). -/
def execChkon (s : State) : Res := slotOp .chkon s fun t => t.pushRW s.cur.c s.cur.slot (rwSp spCHKCTL 1 1)
/-- CHKOFF (R323). -/
def execChkoff (s : State) : Res := slotOp .chkoff s fun t => t.pushRW s.cur.c s.cur.slot (rwSp spCHKCTL 1 0)

end Sys2Proof.Machine
end

