-- ==== Sys2Proof/Machine/Image.lean ====
section
/-! DEFINITION. Launch images in DRAM: header, sections, loop-nest records, scripts, and what a launch loads into each tile (R78 to R80, R129, R132, R135 to R139, R400). -/

namespace Sys2Proof.Machine

/-! Image bytes. -/

/-- The bytes from `va` of a context as a memory from 0; unmapped bytes read as zero. -/
def imageCells (l : List Pte) (va len : Nat) (dram : Mem) : Mem :=
  l.flatMap fun e =>
    let lo := max e.va va
    let hi := min (e.va + e.len) (va + len)
    if lo < hi then
      ((dram.from (e.pa + (lo - e.va))).takeWhile fun c => decide (c.1 < e.pa + (hi - e.va))).map fun c => (c.1 - e.pa + e.va - va, c.2)
    else []
def State.imageMem (s : State) (c va len : Nat) : Mem :=
  match s.table c with
  | some l => imageCells l va len s.dram
  | none => []
/-- A registered image of a context, as memory. -/
def State.imageOf (s : State) (c id : Nat) : Option Mem :=
  ((s.ctx c).images.find? fun i => i.id == id).map fun i => s.imageMem c i.va i.len

/-- A range of a registered image's bytes holds a byte of the flit at `pa` (R123). -/
def State.imageFlit (s : State) (pa : Nat) : Bool :=
  (List.range 16).any fun c => (s.imageSpans c).any (touches pa)
/-- A section entry (R400). -/
structure Sec where
  ty : Nat
  cset : Nat
  rx0 : Nat
  ry0 : Nat
  rx1 : Nat
  ry1 : Nat
  lnr : Nat
  off : Nat
  len : Nat
  addr : Nat
  rsv : Nat
  deriving DecidableEq, Repr
def secAt (m : Mem) (i : Nat) : Sec :=
  let b := m.bytes (0x40 + 32 * i) 32
  { ty := leAt b 0 1, cset := leAt b 1 1, rx0 := leAt b 2 1, ry0 := leAt b 3 1, rx1 := leAt b 4 1, ry1 := leAt b 5 1, lnr := leAt b 6 2
    off := leAt b 8 8, len := leAt b 16 8, addr := leAt b 24 4, rsv := leAt b 28 4 }
def imgNsec (m : Mem) : Nat := m.nat 0x10 4
def imgNlnr (m : Mem) : Nat := m.nat 0x14 4
def imgSecs (m : Mem) : List Sec := (List.range (imgNsec m)).map (secAt m)
/-- A section of a type and set serves a relative position. -/
def Sec.serves (e : Sec) (ty cset rx ry : Nat) : Bool :=
  e.ty == ty && e.cset == cset && decide (e.rx0 ≤ rx) && decide (rx ≤ e.rx1) && decide (e.ry0 ≤ ry) && decide (ry ≤ e.ry1)

/-- A loop-nest record (R132). -/
def lnrOf (b : List Byte) : Lnr :=
  { img := leAt b 0 8, x0 := leAt b 8 1, y0 := leAt b 9 1, w := leAt b 0xA 1, h := leAt b 0xB 1
    cnt := [leAt b 0xC 4, leAt b 0x10 4, leAt b 0x14 4, leAt b 0x18 4]
    ndim := leAt b 0x1C 1, order := leAt b 0x1D 1, preload := leAt b 0x1E 2, period := leAt b 0x20 4, param := leAt b 0x24 4
    dom := leAt b 0x28 4, seed := leAt b 0x2C 4, rbsp := leAt b 0x30 4, pper := leAt b 0x34 4, entry := leAt b 0x38 2
    cset := leAt b 0x3A 1, level := leAt b 0x3B 1, psave := leAt b 0x3C 4 }
def imgLnr (m : Mem) (secs : List Sec) (i : Nat) : Lnr :=
  match secs.find? fun e => e.ty == 1 with
  | some e => lnrOf (m.bytes (e.off + 64 * i) 64)
  | none => lnrOf []

/-! Scripts (R78 to R80, R129). -/

/-- A script's header, with what follows it. -/
structure ScriptHdr where
  magic : Nat
  ver : Nat
  unit : Nat
  sku : Nat
  img : Nat
  lead : Nat
  nrd : Nat
  nwr : Nat
  rsv : Bool
  deriving DecidableEq, Repr
def hdrAt (m : Mem) (a : Nat) : ScriptHdr :=
  let b := m.bytes a 64
  { magic := leAt b 0 4, ver := leAt b 4 2, unit := leAt b 6 1, sku := leAt b 7 1, img := leAt b 8 8, lead := leAt b 16 4
    nrd := leAt b 20 4, nwr := leAt b 24 4, rsv := (slice b 28 36).all (· == 0) }
def readEntAt (m : Mem) (a : Nat) : ReadEnt :=
  let b := m.bytes a 32
  { va := leAt b 0 8, t0 := leAt b 8 6, n := leAt b 14 2, iv := leAt b 16 2, slot := leAt b 18 1, link := leAt b 19 1, ofs := leAt b 20 2
    reuse := bitAt (leAt b 22 2) 0 }
def writeEntAt (m : Mem) (a : Nat) : WriteEnt :=
  let b := m.bytes a 32
  { va := leAt b 0 8, l0 := leAt b 8 6, n := leAt b 14 2, iv := leAt b 16 2, link := leAt b 19 1 }
def bridgeEntAt (m : Mem) (a : Nat) : BridgeEnt :=
  let b := m.bytes a 32
  let send := leAt b 0 1 == 1
  { send := send, link := leAt b 1 1, n := leAt b 2 2, t0 := leAt b 4 6, iv := leAt b 10 2, msg := leAt b 12 4
    peer := if send then leAt b 16 8 else 0, peerPort := if send then leAt b 24 1 else 0
    sent := if send then 0 else leAt b 16 8, slack := if send then 0 else leAt b 28 4 }
/-- The unit of a staging script's engine number; one above 47 is no unit, and stands beyond the ports (R89). -/
def stageUnit (k : Nat) : Nat := if k < 48 then k else 304 + k
/-- The scripts of a loop-nest record, as the image holds them; a staging script's unit is its engine, a bridge script's 48 + port. The counts of a bridge script's header give its entries between them (R129; log 21, DEDUCED). -/
def imgScripts (m : Mem) (secs : List Sec) (lnr : Nat) : List (Sec × ScriptHdr × Script) :=
  (secs.filter fun e => (e.ty == 5 || e.ty == 6) && e.lnr == lnr).map fun e =>
    let h := hdrAt m e.off
    let at_ : Nat → Nat := fun k => e.off + 64 + 32 * k
    (e, h,
      if e.ty = 5 then
        { unit := stageUnit h.unit, lead := h.lead, reads := (List.range h.nrd).map fun k => readEntAt m (at_ k)
          writes := (List.range h.nwr).map fun k => writeEntAt m (at_ (h.nrd + k)), ents := [], pins := [], ready := none }
      else
        { unit := 48 + h.unit, lead := 0, reads := [], writes := []
          ents := (List.range (h.nrd + h.nwr)).map fun k => bridgeEntAt m (at_ k), pins := [], ready := none })

/-! What a launch loads (R136 to R139, R390). -/

/-- The contents of the tag for a relative position, valid (R136). -/
def tagBytes (img cset rx ry : Nat) : List Byte := leBytes 8 img ++ leBytes 1 cset ++ leBytes 1 rx ++ leBytes 1 ry ++ [1, 0, 0, 0, 0]
def tagMatches (cfg : Mem) (img cset rx ry : Nat) : Bool := cfg.bytes offTag 16 == tagBytes img cset rx ry
/-- Where a tile's configuration lies for a launch: its active plane, its shadow plane, or neither (R137). -/
inductive Resident where
  | active | shadow | absent
  deriving DecidableEq, Repr
def Tile.resident (t : Tile) (img cset rx ry : Nat) : Resident :=
  if tagMatches t.cfg img cset rx ry then .active else if tagMatches t.shadow img cset rx ry then .shadow else .absent

/-- The plane section of a position, as a plane memory. -/
def planeOf (m : Mem) (secs : List Sec) (cset rx ry : Nat) : Mem :=
  match secs.find? fun e => e.serves 2 cset rx ry with
  | some e => Mem.write [] 0 (m.bytes e.off planeBytes)
  | none => []
/-- A tile that holds a plane, to read its tables. -/
def planeTile (p : Mem) : Tile := { Tile.powerUp with cfg0 := p }
/-- The code half of a position, filled with empty issue words (R268). -/
def codeOf (m : Mem) (secs : List Sec) (cset rx ry half : Nat) : List Byte :=
  let bs := match secs.find? fun e => e.serves 3 cset rx ry with | some e => m.bytes e.off (min e.len half) | none => []
  bs ++ List.replicate (half - bs.length) 0

/-- A block of a load: item 0 plane, 1 code half, 2 parameters, 3 + k the data section that is the image's section k; its place in the item's space, and its bytes (R138). -/
structure Block where
  item : Nat
  addr : Nat
  bytes : List Byte
  deriving DecidableEq, Repr
/-- Bytes divided into blocks of 32, at most `fuel`. -/
def blocksOf (item : Nat) : Nat → Nat → List Byte → List Block
  | 0, _, _ => []
  | _, _, [] => []
  | n + 1, a, l => ⟨item, a, l.take 32⟩ :: blocksOf item n (a + 32) (l.drop 32)
def itemBlocks (item a : Nat) (l : List Byte) : List Block := blocksOf item (l.length / 32 + 1) a l
/-- The 4,096 bytes of the parameter block (R145, R390). -/
def paramBlock (l : List Byte) : List Byte := l ++ List.replicate (4096 - l.length) 0
/-- Every block that a launch writes into the tile at a relative position, in the order of R138; the plane and the code half only when they are not resident. -/
def launchBlocks (m : Mem) (secs : List Sec) (r : Lnr) (params : List Byte) (rx ry : Nat) (absent : Bool) : List Block :=
  let p := planeOf m secs r.cset rx ry
  let half := (planeTile p).lay.cb / 2
  (if absent then itemBlocks 0 0 (p.bytes 0 planeBytes) ++ itemBlocks 1 0 (codeOf m secs r.cset rx ry half) else [])
    ++ ((secs.zipIdx.filter fun e => e.1.serves 4 r.cset rx ry).flatMap fun e => itemBlocks (3 + e.2) e.1.addr (m.bytes e.1.off e.1.len))
    ++ itemBlocks 2 r.param (paramBlock params)
/-- The first byte of the half of the code region that the shadow plane's code lies in (R139). -/
def Tile.shadowHalf (t : Tile) (half : Nat) : Nat := if t.second then 0 else half
/-- A write into the pool from outside the tile; it ends the errors of the words that it touches (R394). -/
def Tile.loadPool (t : Tile) (a : Nat) (l : List Byte) : Tile :=
  { t with pool := t.pool.write a l, upsets := if t.upsets.isEmpty then [] else t.upsets.filter fun u => !(decide (a < u + 4) && decide (u < a + l.length)) }
/-- The shadow plane's tag is cleared (R137). -/
def Tile.clearTag (t : Tile) : Tile :=
  if t.second then { t with cfg0 := t.cfg0.clear offTag 16 } else { t with cfg1 := t.cfg1.clear offTag 16 }
/-- Write one block into the shadow plane, its code half or the pool. -/
def Tile.putBlock (t : Tile) (half : Nat) (b : Block) : Tile :=
  match b.item with
  | 0 =>
    if t.second then { t with cfg0 := t.cfg0.write b.addr b.bytes } else { t with cfg1 := t.cfg1.write b.addr b.bytes }
  | 1 => t.loadPool (t.shadowHalf half + b.addr) b.bytes
  | _ => t.loadPool b.addr b.bytes
/-- Set the shadow plane's tag (R137). -/
def Tile.putTag (t : Tile) (tag : List Byte) : Tile :=
  if t.second then { t with cfg0 := t.cfg0.write offTag tag } else { t with cfg1 := t.cfg1.write offTag tag }

end Sys2Proof.Machine
end

