-- ==== Sys2Proof/Machine/Scalar.lean ====
section
/-! DEFINITION. The scalar instructions of SA and SB: integer, immediate, predicate, special-register, local memory (R291 to R306). -/

namespace Sys2Proof.Machine

/-- d = wrap32(a + b) (R292). -/
def execAdd (o : RR) (s : State) : Res := slotOp (.add o) s fun t => t.rr s.cur o 1 (fun a b => a + b)

/-- d = wrap32(a - b) (R292). -/
def execSub (o : RR) (s : State) : Res := slotOp (.sub o) s fun t => t.rr s.cur o 1 (fun a b => a - b)

/-- d = a & b (R292). -/
def execAndS (o : RR) (s : State) : Res := slotOp (.andS o) s fun t => t.rr s.cur o 1 (fun a b => a &&& b)

/-- d = a | b (R292). -/
def execOrS (o : RR) (s : State) : Res := slotOp (.orS o) s fun t => t.rr s.cur o 1 (fun a b => a ||| b)

/-- d = a ^ b (R292). -/
def execXor (o : RR) (s : State) : Res := slotOp (.xor o) s fun t => t.rr s.cur o 1 (fun a b => a ^^^ b)

/-- d = a & ~b (R292). -/
def execAndn (o : RR) (s : State) : Res := slotOp (.andn o) s fun t => t.rr s.cur o 1 (fun a b => a &&& ~~~b)

/-- d = a << b[4:0] (R292). -/
def execShl (o : RR) (s : State) : Res := slotOp (.shl o) s fun t => t.rr s.cur o 1 (fun a b => a <<< shCount b)

/-- d = u(a) >> b[4:0] (R292). -/
def execShr (o : RR) (s : State) : Res := slotOp (.shr o) s fun t => t.rr s.cur o 1 (fun a b => a >>> shCount b)

/-- d = s(a) >> b[4:0] (R292). -/
def execSra (o : RR) (s : State) : Res := slotOp (.sra o) s fun t => t.rr s.cur o 1 (fun a b => a.sshiftRight (shCount b))

/-- Rotate left by b[4:0] (R292). -/
def execRol (o : RR) (s : State) : Res := slotOp (.rol o) s fun t => t.rr s.cur o 1 aluRol

/-- Signed minimum (R292). -/
def execMinS (o : RR) (s : State) : Res := slotOp (.minS o) s fun t => t.rr s.cur o 1 aluMin

/-- Signed maximum (R292). -/
def execMaxS (o : RR) (s : State) : Res := slotOp (.maxS o) s fun t => t.rr s.cur o 1 aluMax

/-- Unsigned minimum (R292). -/
def execMinu (o : RR) (s : State) : Res := slotOp (.minu o) s fun t => t.rr s.cur o 1 aluMinu

/-- Unsigned maximum (R292). -/
def execMaxu (o : RR) (s : State) : Res := slotOp (.maxu o) s fun t => t.rr s.cur o 1 aluMaxu

/-- d = s(a) < s(b) (R292). -/
def execSlt (o : RR) (s : State) : Res := slotOp (.slt o) s fun t => t.rr s.cur o 1 (fun a b => bool32 (a.slt b))

/-- d = u(a) < u(b) (R292). -/
def execSltu (o : RR) (s : State) : Res := slotOp (.sltu o) s fun t => t.rr s.cur o 1 (fun a b => bool32 (a.ult b))

/-- d = a == b (R292). -/
def execSeq (o : RR) (s : State) : Res := slotOp (.seq o) s fun t => t.rr s.cur o 1 (fun a b => bool32 (a == b))

/-- d = sat32(s(a) + s(b)) (R292). -/
def execAdds (o : RR) (s : State) : Res := slotOp (.adds o) s fun t => t.rr s.cur o 1 (fun a b => sat32 (a.toInt + b.toInt))

/-- d = sat32(s(a) - s(b)) (R292). -/
def execSubs (o : RR) (s : State) : Res := slotOp (.subs o) s fun t => t.rr s.cur o 1 (fun a b => sat32 (a.toInt - b.toInt))

/-- d = wrap32(|s(a)|) (R292). -/
def execAbsS (o : RR) (s : State) : Res := slotOp (.absS o) s fun t => t.r1 s.cur o 1 aluAbs

/-- Leading zeros (R292). -/
def execClz (o : RR) (s : State) : Res := slotOp (.clz o) s fun t => t.r1 s.cur o 1 aluClz

/-- One bits (R292). -/
def execPopc (o : RR) (s : State) : Res := slotOp (.popc o) s fun t => t.r1 s.cur o 1 aluPopc

/-- d[i] = a[31 - i] (R292). -/
def execBrev (o : RR) (s : State) : Res := slotOp (.brev o) s fun t => t.r1 s.cur o 1 aluBrev

/-- Low half of the product, at c + 3 (R292). -/
def execMul (o : RR) (s : State) : Res := slotOp (.mul o) s fun t => t.rr s.cur o 3 aluMul

/-- High half of the signed product, at c + 3 (R292). -/
def execMulh (o : RR) (s : State) : Res := slotOp (.mulh o) s fun t => t.rr s.cur o 3 aluMulh

/-- High half of the unsigned product, at c + 3 (R292). -/
def execMulhu (o : RR) (s : State) : Res := slotOp (.mulhu o) s fun t => t.rr s.cur o 3 aluMulhu

/-- Signed quotient toward zero, at c + 18; divisor zero is cause 0x01 (R293). -/
def execDiv (o : RR) (s : State) : Res := slotOp (.div o) s fun t => t.rr s.cur o 18 aluDiv

/-- Unsigned quotient, at c + 18 (R293). -/
def execDivu (o : RR) (s : State) : Res := slotOp (.divu o) s fun t => t.rr s.cur o 18 aluDivu

/-- Signed remainder, at c + 18 (R293). -/
def execRem (o : RR) (s : State) : Res := slotOp (.rem o) s fun t => t.rr s.cur o 18 aluRem

/-- Unsigned remainder, at c + 18 (R293). -/
def execRemu (o : RR) (s : State) : Res := slotOp (.remu o) s fun t => t.rr s.cur o 18 aluRemu

/-- d = P[x] ? a : b (R292). -/
def execSelp (o : RR) (s : State) : Res := slotOp (.selp o) s fun t => t.rr s.cur o 1 (fun a b => if t.pr s.cur.c o.x.toNat then a else b)

/-- d = wrap32(a + sext(imm15)) (R294). -/
def execAddi (o : RI) (s : State) : Res := slotOp (.addi o) s fun t => t.ri s.cur o (fun a => a + o.imm.signExtend 32)

/-- d = a & zext(imm15) (R294). -/
def execAndi (o : RI) (s : State) : Res := slotOp (.andi o) s fun t => t.ri s.cur o (fun a => a &&& o.imm.setWidth 32)

/-- d = a | zext(imm15) (R294). -/
def execOri (o : RI) (s : State) : Res := slotOp (.ori o) s fun t => t.ri s.cur o (fun a => a ||| o.imm.setWidth 32)

/-- d = a ^ zext(imm15) (R294). -/
def execXori (o : RI) (s : State) : Res := slotOp (.xori o) s fun t => t.ri s.cur o (fun a => a ^^^ o.imm.setWidth 32)

/-- As SHL with sh = n (R294). -/
def execShli (o : RI) (s : State) : Res := slotOp (.shli o) s fun t => t.ri s.cur o (fun a => a <<< (o.imm.toNat % 32))

/-- As SHR with sh = n (R294). -/
def execShri (o : RI) (s : State) : Res := slotOp (.shri o) s fun t => t.ri s.cur o (fun a => a >>> (o.imm.toNat % 32))

/-- As SRA with sh = n (R294). -/
def execSrai (o : RI) (s : State) : Res := slotOp (.srai o) s fun t => t.ri s.cur o (fun a => a.sshiftRight (o.imm.toNat % 32))

/-- d = s(a) < sext(imm15) (R294). -/
def execSlti (o : RI) (s : State) : Res := slotOp (.slti o) s fun t => t.ri s.cur o (fun a => bool32 (a.slt (o.imm.signExtend 32)))

/-- d = u(a) < u(sext(imm15)) (R294). -/
def execSltiu (o : RI) (s : State) : Res := slotOp (.sltiu o) s fun t => t.ri s.cur o (fun a => bool32 (a.ult (o.imm.signExtend 32)))

/-- d = sext(imm20) (R294). -/
def execMovi (o : LI) (s : State) : Res := slotOp (.movi o) s fun t => t.putS s.cur o.d 1 (o.imm.signExtend 32)

/-- d = cat(imm16, d[15:0]) (R294). -/
def execSeth (o : LI) (s : State) : Res := slotOp (.seth o) s fun t => t.putS s.cur o.d 1 ((o.imm.setWidth 16 ++ (t.s32 s.cur.c o.d.toNat).setWidth 16 : BitVec 32))

/-- d = K (R294). -/
def execMovk (o : LI) (s : State) : Res := slotOp (.movk o) s fun t => t.putS s.cur o.d 1 (t.kreg s.cur.c)

/-- pd = a == b (R300). -/
def execPeq (o : PC) (s : State) : Res := slotOp (.peq o) s fun t => t.pc2 s.cur o (fun a b => a == b)

/-- pd = a != b (R300). -/
def execPne (o : PC) (s : State) : Res := slotOp (.pne o) s fun t => t.pc2 s.cur o (fun a b => a != b)

/-- pd = s(a) < s(b) (R300). -/
def execPlt (o : PC) (s : State) : Res := slotOp (.plt o) s fun t => t.pc2 s.cur o (fun a b => a.slt b)

/-- pd = u(a) < u(b) (R300). -/
def execPltu (o : PC) (s : State) : Res := slotOp (.pltu o) s fun t => t.pc2 s.cur o (fun a b => a.ult b)

/-- pd = s(a) >= s(b) (R300). -/
def execPge (o : PC) (s : State) : Res := slotOp (.pge o) s fun t => t.pc2 s.cur o (fun a b => !(a.slt b))

/-- pd = u(a) >= u(b) (R300). -/
def execPgeu (o : PC) (s : State) : Res := slotOp (.pgeu o) s fun t => t.pc2 s.cur o (fun a b => !(a.ult b))

/-- pd = a < b in FP32; INV if either is NaN (R300). -/
def execPflt (o : PC) (s : State) : Res := slotOp (.pflt o) s fun t => t.pcf s.cur o (fpCompare 1)

/-- pd = a <= b in FP32; INV if either is NaN (R300). -/
def execPfle (o : PC) (s : State) : Res := slotOp (.pfle o) s fun t => t.pcf s.cur o (fpCompare 2)

/-- pd = either is NaN; INV for a signalling one (R300). -/
def execPfun (o : PC) (s : State) : Res := slotOp (.pfun o) s fun t => t.pcf s.cur o (fpCompare 3)

/-- pd = pa & pb (R301). -/
def execPand (o : PL) (s : State) : Res := slotOp (.pand o) s fun t => t.pl2 s.cur o (fun a b => a && b)

/-- pd = pa | pb (R301). -/
def execPor (o : PL) (s : State) : Res := slotOp (.por o) s fun t => t.pl2 s.cur o (fun a b => a || b)

/-- pd = pa ^ pb (R301). -/
def execPxor (o : PL) (s : State) : Res := slotOp (.pxor o) s fun t => t.pl2 s.cur o (fun a b => a != b)

/-- pd = !pa (R301). -/
def execPnot (o : PL) (s : State) : Res := slotOp (.pnot o) s fun t => t.pl2 s.cur o (fun a _ => !a)

/-- pd = v (R301). -/
def execPset (o : PL) (s : State) : Res := slotOp (.pset o) s fun t => t.putP s.cur o.pd (o.pb.getLsbD 0)

/-- d = zext(cat(P7, ..., P0)) (R301). -/
def execPtos (o : RR) (s : State) : Res := slotOp (.ptos o) s fun t => t.putS s.cur o.d 1 (BitVec.ofNat 32 (t.preds s.cur.c))

/-! Special registers (R302 to R304). -/

/-- RDCYC, and RDSP of GCY: the low half latches the high half; the high half is the latch, or that of TSTART before the first (R304). -/
def Tile.rdcyc (t : Tile) (cur : Cur) (d : BitVec 5) (hi : Bool) : Tile :=
  let g := BitVec.ofNat 64 (t.gcy cur.c)
  if hi then t.putS cur d 1 (t.cycLatch.getD ((t.spr cur.c spTSTART).extractLsb' 32 32))
  else { t with cycLatch := some (g.extractLsb' 32 32) }.putS cur d 1 (g.setWidth 32)

/-- WPch at p: of the channel's copy, or with none what the register holds, from the start of the launch or its resume (R156, R182, R259). -/
def Tile.wp (t : Tile) (p ch : Nat) : Nat :=
  match t.copies.getD ch none with
  | some j => j.wp p
  | none => (t.spr p (spWP ch)).toNat

/-- WPch as a word reads it at its issue: 0 on the channel on which the word itself starts a copy, whichever of its slots reads (R182). -/
def Tile.wpNow (t : Tile) (cur : Cur) (ch : Nat) : Nat := if cur.starts = some ch then 0 else t.wp cur.c ch

/-- One half of a 64-bit value. -/
def half32 (v : BitVec 64) (hi : Bool) : Word := if hi then v.extractLsb' 32 32 else v.setWidth 32

/-- The special register that RDSP reads (R302). FPST's flags of the cycle come at its end, so its read is made there. -/
def Tile.rdspEff (t : Tile) (cur : Cur) (d : BitVec 5) (n : Nat) (hi : Bool) : Tile :=
  if n = spGCY then t.rdcyc cur d hi
  else if spWP 0 ≤ n ∧ n ≤ spWP 3 then t.putS cur d 1 (if hi then 0 else BitVec.ofNat 32 (t.wpNow cur (n - spWP 0)))
  else if n = spFPST then
    if hi then t.putS cur d 1 0 else (t.putS cur d 1 0).sched cur.c phEnd cur.c cur.slot (t.chk cur.c) (.rdFpst d.toNat)
  else if n = spPART then t.putS cur d 1 (half32 (BitVec.ofNat 64 t.partWord) hi)
  else if 27 ≤ n ∧ n ≤ 31 then t.putS cur d 1 0
  else t.putS cur d 1 (half32 (t.spr cur.c n) hi)

/-- RDSP (R302). -/
def execRdsp (o : RI) (s : State) : Res := slotOp (.rdsp o) s fun t => t.rdspEff s.cur o.d (o.imm.toNat % 64) (o.imm.getLsbD 6)

/-- The bits that WRSP writes: the named half, less reserved bits (R303). -/
def wrspMask (n : Nat) (hi : Bool) : BitVec 64 := spMask n &&& (if hi then 0xFFFFFFFF00000000 else 0x00000000FFFFFFFF)
/-- WRSP's effect (R303): a register marked R is left as it is. A level whose ACT is set by WRSP joins the active ones last. -/
def Tile.wrspEff (t : Tile) (cur : Cur) (n : Nat) (hi : Bool) (a : Word) : Tile :=
  if spWritable n then
    let v : BitVec 64 := if hi then a.setWidth 64 <<< 32 else a.setWidth 64
    t.pushRW cur.c cur.slot ⟨.sp, n, 1, (wrspMask n hi).toNat, v.toNat⟩
  else t
/-- WRSP (R303). -/
def execWrsp (o : RI) (s : State) : Res :=
  slotOp (.wrsp o) s fun t => t.wrspEff s.cur (o.imm.toNat % 64) (o.imm.getLsbD 6) (t.s32 s.cur.c o.a.toNat)

/-- RDCYC (R304). -/
def execRdcyc (o : RI) (s : State) : Res := slotOp (.rdcyc o) s fun t => t.rdcyc s.cur o.d (o.imm.getLsbD 0)

/-- RDWP (R304). -/
def execRdwp (o : RI) (s : State) : Res :=
  slotOp (.rdwp o) s fun t => t.putS s.cur o.d 1 (BitVec.ofNat 32 (t.wpNow s.cur (o.imm.toNat % 4)))

/-! Local memory (R305). -/

/-- Load a word (R305). -/
def execLdw (o : RI) (s : State) : Res := slotOp (.ldw o) s fun t => t.localLoad s.cur o 4 false

/-- Load a halfword, sign-extended (R305). -/
def execLdh (o : RI) (s : State) : Res := slotOp (.ldh o) s fun t => t.localLoad s.cur o 2 true

/-- Load a halfword, zero-extended (R305). -/
def execLdhu (o : RI) (s : State) : Res := slotOp (.ldhu o) s fun t => t.localLoad s.cur o 2 false

/-- Load a byte, sign-extended (R305). -/
def execLdb (o : RI) (s : State) : Res := slotOp (.ldb o) s fun t => t.localLoad s.cur o 1 true

/-- Load a byte, zero-extended (R305). -/
def execLdbu (o : RI) (s : State) : Res := slotOp (.ldbu o) s fun t => t.localLoad s.cur o 1 false

/-- Store a word (R305). -/
def execStw (o : RI) (s : State) : Res := slotOp (.stw o) s fun t => t.localStore s.cur o 4

/-- Store a halfword (R305). -/
def execSth (o : RI) (s : State) : Res := slotOp (.sth o) s fun t => t.localStore s.cur o 2

/-- Store a byte (R305). -/
def execStb (o : RI) (s : State) : Res := slotOp (.stb o) s fun t => t.localStore s.cur o 1

end Sys2Proof.Machine
end

