-- ==== Sys2Proof/Machine/Service.lean ====
section
/-! DEFINITION. Service transfers and the Distaff payloads that carry them, configuration, saves and restores (R54 to R58, R77, R138, R156, R157, R248, R249, R384 to R387). -/

namespace Sys2Proof.Machine

/-! The save layouts (R156, R248). -/

/-- Bytes of S0 to S31. -/
def Tile.scalarBytes (t : Tile) (c : Nat) : List Byte := (List.range 32).flatMap fun i => leBytes 4 (t.s32 c i).toNat
/-- Offsets 0x00 to 0xDF of both layouts: scalars, predicates, scale and loop registers. -/
def Tile.coreBytes (t : Tile) (c : Nat) : List Byte :=
  t.scalarBytes c ++ leBytes 1 (t.preds c) ++ leBytes 15 0 ++ (List.range 4).flatMap (fun i => leBytes 4 (t.q32 c i))
    ++ (List.range 16).flatMap fun i => leBytes 4 (t.spr c (32 + i)).toNat
/-- The trap save area, as read at c (R248). -/
def Tile.trapArea (t : Tile) (c : Nat) : List Byte :=
  let sp : Nat → Nat → List Byte := fun n k => leBytes k (t.spr c n).toNat
  t.coreBytes c ++ sp 14 4 ++ sp 15 4 ++ sp 16 8 ++ sp 17 4 ++ sp 18 4 ++ sp 19 4 ++ leBytes 4 0 ++ sp 20 8 ++ sp 21 4 ++ sp 13 4
    ++ sp 6 4 ++ sp 7 4 ++ leBytes 4 (t.fpstAt c).toNat ++ sp 9 4 ++ sp 26 4 ++ sp 11 4 ++ sp 12 8 ++ leBytes 8 (t.gcy c) ++ leBytes 200 0
/-- What SVLOAD restores at E, available at E + 1 (R385). -/
def Tile.restoreArea (t : Tile) (e : Nat) (b : List Byte) : Tile :=
  let w : Tile → RW → Tile := fun t r => t.pushRW e 4 r
  let t := (List.range 32).foldl (fun t i => w t (rwS i 1 (BitVec.ofNat 32 (leAt b (4 * i) 4)))) t
  let t := (List.range 8).foldl (fun t i => w t (rwP i 1 (bitAt (leAt b 0x80 1) i))) t
  let t := (List.range 4).foldl (fun t i => w t (rwQ i 1 (leAt b (0x90 + 4 * i) 4))) t
  let sp : Tile → Nat × Nat → Tile := fun t n => w t (rwSp n.1 1 (BitVec.ofNat 64 (leAt b n.2 4) &&& spMask n.1))
  (((List.range 16).map fun i => (32 + i, 0xA0 + 4 * i)) ++ [(6, 0x110), (7, 0x114), (8, 0x118), (26, 0x120)]).foldl sp t

/-! The instructions (R384, R385, R387). -/

/-- A transfer begins: its payloads move in the tile's own slots. -/
def Tile.startService (t : Tile) (cur : Cur) (kind d va total : Nat) (bytes : List Byte) : Tile :=
  { t with
    svc := some { kind := kind, c := cur.c, pc := cur.pc, d := d, wait := cur.wait, va := va, bytes := bytes, moved := 0, done := 0, total := total, failed := none, launch := t.launch.getD 0, who := (0, 0, 0) }
    seq := if kind = 2 then t.seq else { t.seq with waitPc := some (cur.pc, cur.dly) }
    out := t.out ++ [.service] }
/-- SVSAVE: the trap save area, with its values read at c (R385); FPST holds every flag set at or before c, as RDSP of it does (R164). -/
def execSvsave (o : SvOp) (s : State) : Res :=
  slotOp (.svsave o) s fun t =>
    (t.startService s.cur 0 o.s.toNat (t.spr s.cur.c spXSAVE).toNat 16 (t.trapArea s.cur.c)).sched s.cur.c phEnd s.cur.c s.cur.slot false .svFpst
/-- SVLOAD (R385). -/
def execSvload (o : SvOp) (s : State) : Res :=
  slotOp (.svload o) s fun t => t.startService s.cur 1 o.s.toNat (t.spr s.cur.c spXSAVE).toNat 16 []
/-- SVMSG: Vs is read at c (R387). -/
def execSvmsg (o : SvmsgOp) (s : State) : Res :=
  slotOp (.svmsg o) s fun t =>
    let n := 64 * (o.nb.toNat + 1)
    t.startService s.cur 2 0 0 (n / 32) (leBytes n (t.vreg s.cur.c o.v.toNat 2))

/-! Payloads (R55). -/

def kindConfig : Nat := 1
def kindSave : Nat := 2
def kindMessage : Nat := 3
/-- The sideband of payload k of a transfer of n: KIND, FIRST and LAST; reserved bits zero (R55). -/
def sideband (kind k n : Nat) : BitVec 8 := BitVec.ofNat 8 (64 * kind + (if k = 0 then 32 else 0) + (if k + 1 = n then 16 else 0))
/-- Payload k of a transfer of n; bytes beyond those that it carries are zero. -/
def payload (kind k n : Nat) (bs : List Byte) : Payload := ⟨sideband kind k n, (bs ++ List.replicate 32 0).take 32⟩

/-- The service path's check of a 32-byte access (R77): 0 and the physical address, 1 translation fault, 2 permission fault; the first of the two where both hold (log 33, DESIGN CHOICE). -/
def State.svcAccess (s : State) (ctx va : Nat) (wr : Bool) : Nat × Nat :=
  match s.translate ctx va with
  | none => (1, 0)
  | some (e, pa) => if pa + 32 > dramTop then (1, 0) else if !e.sv || !(if wr then e.wr else e.rd) then (2, 0) else (0, pa)
/-- This cycle is a tile's own slot (R54). -/
def State.ownSlot (s : State) (x y : Nat) : Bool := s.now % 288 == x % 16 + 16 * (y % 16)

/-- The virtual address of payload k of a launch's save area for a tile (R156). -/
def Launch.saveVa (l : Launch) (x y k : Nat) : Nat := l.lnr.psave * 65536 + 20480 * l.lnr.pos x y + 32 * k
/-- Payloads of a pre-emption save (R157). -/
def savePayloads : Nat := 560
/-- The bytes that a tile saves at the stop (R156): its checkpoint, then its control-word table. -/
def Tile.saveBytes (t : Tile) (id off k : Nat) : List Byte :=
  if k < 48 then slice (((t.ckpts.find? fun e => e.launch == id && e.off == off).map (·.bytes)).getD []) (32 * k) 32 else t.cfg.bytes (32 * (k - 48)) 32
/-- The stop of a launch being saved. -/
def Launch.stopAt (l : Launch) : Option Nat := l.stop.bind (·.b)
/-- The launch that a tile is being saved for, and its stop. -/
def State.savingAt (s : State) (x y : Nat) : Option (Launch × Nat) :=
  (s.launches.find? fun l => (l.phase == .saving) && l.lnr.covers x y).bind fun l => l.stopAt.map fun p => (l, p)

/-! Upstream (R56, R57, R157, R385, R387). -/

/-- What leaves a tile in its slot: the payload, and what Markhor is to make of it. A save goes first, then the service path of SVSAVE and SVMSG; a save that has failed goes no further. -/
def State.nextUp (s : State) (x y : Nat) : Option UpMsg :=
  let t := s.tile x y
  let msg : Payload → Bool → Nat → Nat → Option Service → UpMsg := fun p pre own k m =>
    { x := x, y := y, at_ := 0, p := p, pre := pre, own := own, k := k, bad := 0, msg := m }
  let service : Option UpMsg := t.svc.bind fun v =>
    if v.kind ≠ 1 ∧ v.failed.isNone ∧ v.moved < v.total ∧ v.c < s.now then
      some (msg (payload (if v.kind = 0 then kindSave else kindMessage) v.moved v.total (slice v.bytes (32 * v.moved) 32)) false v.c v.moved
        (if v.kind = 2 ∧ v.moved + 1 = v.total then some v else none))
    else none
  match s.savingAt x y with
  | some (l, p) =>
    if t.saved < savePayloads ∧ p < s.now ∧ !(s.up.any fun u => u.pre && u.own == l.id && u.bad != 0) then
      some (msg (payload kindSave t.saved savePayloads (t.saveBytes l.id (p - l.tstart) t.saved)) true l.id t.saved none)
    else service
  | none => service
/-- A payload leaves a tile: the transfer it belongs to has moved it, and an SVMSG is over with its last (R387). -/
def Tile.sent (t : Tile) (now : Nat) (u : UpMsg) : Tile :=
  let t : Tile := { t with upAt := some (now, u.p) }
  if u.pre then { t with saved := t.saved + 1 }
  else if u.msg.isSome then { t with svc := none }
  else { t with svc := t.svc.map fun v => { v with moved := v.moved + 1 } }
/-- The cycle at which a payload that leaves now reaches Markhor: it is at the field controller at t + 24, and the path beyond is dynamic; payloads of a tile stay in order (R56, R57; log 10, DESIGN CHOICE). -/
def State.upArrival (s : State) (x y : Nat) : Nat :=
  (s.up.filter fun u => u.x == x && u.y == y).foldl (fun a u => max a u.at_) (s.now + 24 + Config.freeNat s.fv)
/-- A payload is sent: it is on its way, and the tile's next slot comes a frame later. -/
def State.sendUp (s : State) (u : UpMsg) : State :=
  let u : UpMsg := { u with at_ := s.upArrival u.x u.y }
  let s := { s with up := s.up ++ [u], fv := s.fv + 1 }.onTile u.x u.y fun t => t.sent s.now u
  (s.postEv u.at_ phEnd rowUpstream [u.x, u.y, 1]).postEv (s.now + 288) phEnd rowUpstream [u.x, u.y]
/-- A launch's SVMSGs are still on their way to the host (R112, R387). -/
def State.messagesOf (s : State) (id : Nat) : Bool :=
  (s.tiles.any fun e => e.2.svc.any fun v => v.kind == 2 && v.launch == id) || s.up.any fun u => u.msg.any fun v => v.launch == id
/-- The SERVICE_MESSAGE of a tile (R387): W0 is its send cycle, and EVENT the cycle on which Markhor has the message (R109; log 22, DESIGN CHOICE). -/
def State.serviceMessage (s : State) (x y : Nat) (v : Service) : State :=
  s.notify 0x83 v.who.1 v.who.2.1 0 0 v.who.2.2 v.c 0
    (leBytes 2 x ++ leBytes 2 y ++ leBytes 4 v.pc ++ leBytes 4 v.bytes.length ++ leBytes 4 0 ++ v.bytes) (some (s.ctx v.who.1).owner)
/-- A message of a launch has been delivered; one that has ended and waits for its last message goes on with its final notification (R112). -/
def State.messageOut (s : State) (id : Nat) : State :=
  if (s.ending.any fun e => e.launch == id) && !s.messagesOf id then s.nowEv rowCommitComplete [id, 0] else s
/-- Markhor translates and checks a payload that has reached it, and writes its bytes; a failure ends its transfer. A payload of a transfer that is over is abandoned (R157, R385, R386). -/
def State.markhorTakes (s : State) (u : UpMsg) : State :=
  let t := s.tile u.x u.y
  if u.pre then
    match s.savingAt u.x u.y with
    | some (l, _) =>
      if l.id ≠ u.own ∨ (s.up.any fun o => o.pre && o.own == u.own && o.bad != 0) = true then s
      else
        let a := s.svcAccess l.cmd.ctx (l.saveVa u.x u.y u.k) true
        if a.1 = 0 then s.writeDram a.2 u.p.data else { s with up := { u with bad := a.1 } :: s.up }
    | none => s
  else match u.msg with
    | some v => (s.serviceMessage u.x u.y v).messageOut v.launch
    | none =>
      match t.svc with
      | some v =>
        if v.kind ≠ 0 ∨ v.c ≠ u.own ∨ v.failed.isSome then s
        else
          let va := v.va + 32 * u.k
          let a := s.svcAccess v.who.1 va true
          if a.1 = 0 then (s.writeDram a.2 u.p.data).setTile u.x u.y { t with svc := some { v with done := v.done + 1 } }
          else s.setTile u.x u.y { t with svc := some { v with failed := some (a.1, va) } }
      | none => s
/-- DISTAFF_UPSTREAM_PAYLOAD: the next payload leaves in the tile's own slot (R56, R57); or, with operand 1, the oldest payload of the tile that is due reaches Markhor. -/
def execDistaffUpstreamPayload (s : State) : Res :=
  let x := s.arg.nat 0
  let y := s.arg.nat 1
  .next (if s.arg.nat 2 = 1 then
      match s.up.find? fun u => u.x == x && u.y == y && u.bad == 0 && decide (u.at_ ≤ s.now) with
      | some u => { s with up := s.up.erase u }.markhorTakes u
      | none => s
    else if !s.ownSlot x y ∨ ((s.tile x y).upAt.map (·.1)) = some s.now then s
    else match s.nextUp x y with
      | some u => s.sendUp u
      | none => s)

/-! Loads (R138, R139). -/

/-- The staged launch of a tile, while its load is not complete. -/
def State.loadingAt (s : State) (x y : Nat) : Option Launch :=
  s.launches.find? fun l => (l.phase == .staged) && l.lf.isNone && l.lnr.covers x y
/-- The launch is to go on from its save areas (R158). -/
def Launch.restores (l : Launch) : Bool := l.resume.isSome && l.stopped.any fun st => st.cause == 0
/-- The launch is to be replayed after a halt (R258). -/
def Launch.replays (l : Launch) : Bool := l.resume.isSome && !l.restores

/-- The region-free cycle, once every tile of the region is free (R142); a replay holds its region (R258). -/
def State.regionFree (s : State) (l : Launch) : Option Nat :=
  if l.replays then some 0
  else l.lnr.tiles.foldl (fun acc p => match acc, (s.tile p.1 p.2).freeAt with | some a, some b => some (max a b) | _, _ => none) (some 0)
def State.regionFreeNow (s : State) (l : Launch) : Bool := match s.regionFree l with | some r => decide (r ≤ s.now) | none => false
/-- The image of a launch and its sections. -/
def State.launchImage (s : State) (l : Launch) : Mem × List Sec :=
  let m := (s.imageOf l.cmd.ctx l.image).getD []
  (m, imgSecs m)
/-- The half of the code region that a launch uses on a position. -/
def Launch.halfOf (l : Launch) (img : Mem × List Sec) (rx ry : Nat) : Nat := (planeTile (planeOf img.1 img.2 l.lnr.cset rx ry)).lay.cb / 2
/-- The blocks of a launch for a tile: those of the plane and the code half while its plane is being loaded, or lies in neither place (R137, R138). -/
def State.tileBlocks (s : State) (l : Launch) (img : Mem × List Sec) (x y : Nat) : List Block :=
  let rx := x - l.lnr.x0
  let ry := y - l.lnr.y0
  let t := s.tile x y
  launchBlocks img.1 img.2 l.lnr l.params rx ry (t.fill == some l.id || t.resident l.lnr.img l.lnr.cset rx ry == .absent)
/-- The tiles of a launch in a logical field. -/
def Launch.inField (l : Launch) (fx fy : Nat) : List (Nat × Nat) := l.lnr.tiles.filter fun p => p.1 / 16 == fx && p.2 / 16 == fy
/-- A block goes in the broadcast slots: every tile of the field that receives the item receives the same bytes at the same offset (R138). The plane is one item for all tiles, and so is the code half; all tiles that receive the parameter block or a data section receive the same bytes. -/
def broadcasts (all : List (List Block)) (b : Block) : Bool :=
  decide (2 ≤ b.item) || all.all fun l => l.contains b || l.all fun o => o.item != b.item
/-- The blocks of the tiles of a launch in a field. -/
def State.fieldBlocks (s : State) (l : Launch) (img : Mem × List Sec) (fx fy : Nat) : List (List Block) :=
  (l.inField fx fy).map fun p => s.tileBlocks l img p.1 p.2
/-- The blocks of the broadcast slots, in order. -/
def sharedBlocks (all : List (List Block)) : List Block := (all.flatMap fun bs => bs.filter (broadcasts all)).eraseDups
/-- The blocks of a tile's own slot, in order. -/
def ownBlocks (all : List (List Block)) (mine : List Block) : List Block := mine.filter fun b => !broadcasts all b
/-- A block may be written now: the shadow half while a task runs only beside a plane of the same size, data and parameters only in a free region (R139). -/
def State.mayLoad (s : State) (l : Launch) (t : Tile) (half : Nat) (b : Block) : Bool :=
  b.item == 0 || s.regionFreeNow l || (b.item == 1 && t.lay.cb / 2 == half)
/-- Every byte of the plane and of the code half has landed in a tile. -/
def Tile.landed (t : Tile) (all : List (List Block)) (mine : List Block) : Bool :=
  let mineNow : Block → Bool := fun b => decide (b.item < 2) && mine.contains b
  ((ownBlocks all mine).drop t.loaded).all (fun b => !mineNow b) && ((sharedBlocks all).drop t.loadedB).all fun b => !mineNow b
/-- A block of a load is written into a tile. The first one of a plane or a code half clears the shadow plane's tag; the last sets it (R137). -/
def Tile.takeBlock (t : Tile) (l : Launch) (img : Mem × List Sec) (all : List (List Block)) (mine : List Block) (x y : Nat) (own : Bool) (b : Block) : Tile :=
  let rx := x - l.lnr.x0
  let ry := y - l.lnr.y0
  let t : Tile := if b.item < 2 ∧ t.fill ≠ some l.id then { t.clearTag with fill := some l.id } else t
  let t := t.putBlock (l.halfOf img rx ry) b
  let t : Tile := if own then { t with loaded := t.loaded + 1 } else { t with loadedB := t.loadedB + 1 }
  if b.item < 2 ∧ t.landed all mine = true then t.putTag (tagBytes l.lnr.img l.lnr.cset rx ry) else t
/-- The next block of the tile's own slot. -/
def State.configPayload (s : State) (x y : Nat) (l : Launch) : Option State :=
  let t := s.tile x y
  let img := s.launchImage l
  let all := s.fieldBlocks l img (x / 16) (y / 16)
  let mine := s.tileBlocks l img x y
  let own := ownBlocks all mine
  (own[t.loaded]?).bind fun b =>
    if s.mayLoad l t (l.halfOf img (x - l.lnr.x0) (y - l.lnr.y0)) b then
      some (s.setTile x y { t.takeBlock l img all mine x y true b with downAt := some (s.now, payload kindConfig t.loaded own.length b.bytes) })
    else none
/-- Bytes of an area that a launch was saved in come into a tile: into its checkpoint, and then the control-word table, which waits in the tile until the load is complete (R156, R158; log 19, DEDUCED). -/
def Tile.restored (t : Tile) (l : Launch) (off k : Nat) (bs : List Byte) : Tile :=
  if k < 48 then
    let ck := if t.ckpts.any fun e => e.launch == l.id && e.off == off then t.ckpts
      else t.ckpts ++ [{ launch := l.id, off := off, bytes := List.replicate 1536 0 }]
    { t with ckpts := ck.map fun e => if e.launch = l.id ∧ e.off = off then { e with bytes := e.bytes.take (32 * k) ++ bs ++ e.bytes.drop (32 * k + 32) } else e }
  else { t with tbl := t.tbl.take (32 * (k - 48)) ++ bs }
/-- The load of a launch that resumes is complete: the table that was restored goes into the plane that the launch will use (R158; log 19, DEDUCED). -/
def Tile.takeTable (t : Tile) (l : Launch) (x y : Nat) : Tile :=
  let act := t.resident l.lnr.img l.lnr.cset (x - l.lnr.x0) (y - l.lnr.y0) == .active
  if act == t.second then { t with restd := 0, tbl := [], cfg1 := t.cfg1.write 0 t.tbl } else { t with restd := 0, tbl := [], cfg0 := t.cfg0.write 0 t.tbl }
/-- The next restore payload of a launch that was pre-empted (R158): Markhor reads it, and it comes in. One that Markhor cannot read leaves its slot to what comes after it (R57; log 33). -/
def State.restorePayload (s : State) (x y : Nat) (l : Launch) (off : Nat) : Option State :=
  let t := s.tile x y
  let k := t.restd
  let a := s.svcAccess l.cmd.ctx (l.saveVa x y k) false
  if savePayloads ≤ k ∨ a.1 ≠ 0 then none
  else
    let r := s.readFlit (a.2 / 64 * 64)
    let bs := slice r.2 (a.2 % 64) 32
    some (r.1.setTile x y { t.restored l off k bs with restd := k + 1, downAt := some (s.now, payload kindSave k savePayloads bs) })
/-- The next payload of an SVLOAD: Markhor reads it, or it fails and ends the transfer (R385). The access counts as made on the slot's cycle (log 33, DESIGN CHOICE). -/
def State.svloadPayload (s : State) (x y : Nat) (v : Service) : Option State :=
  let t := s.tile x y
  let va := v.va + 32 * v.moved
  if v.kind ≠ 1 ∨ v.failed.isSome ∨ v.total ≤ v.moved ∨ s.now ≤ v.c then none
  else
    let a := s.svcAccess v.who.1 va false
    if a.1 ≠ 0 then some (s.setTile x y { t with svc := some { v with failed := some (a.1, va) } })
    else
      let r := s.readFlit (a.2 / 64 * 64)
      let bs := slice r.2 (a.2 % 64) 32
      some (r.1.setTile x y { t with
        svc := some { v with moved := v.moved + 1, done := v.done + 1, bytes := v.bytes ++ bs }
        downAt := some (s.now, payload kindSave v.moved v.total bs) })
/-- The payloads of a message from Markhor. -/
def SvcIn.total (m : SvcIn) : Nat := (m.bytes.length + 31) / 32
/-- The bits of the debug control word that are kept (R264). -/
def dbgMask : BitVec 32 := 0xFFFF000F
/-- 16-byte records of a ring's bytes. -/
def ringOf : Nat → List Byte → List (List Byte)
  | 0, _ => []
  | _, [] => []
  | n + 1, l => l.take 16 :: ringOf n (l.drop 16)
/-- A message from Markhor has come in whole and is written (R264). A ring that is written is no longer held (log 10, DESIGN CHOICE). -/
def Tile.debugWrite (t : Tile) (m : SvcIn) : Tile :=
  match m.kind with
  | 0 => { t with dbg := BitVec.ofNat 32 (leNat m.bytes) &&& dbgMask }
  | 1 => { t with filt := BitVec.ofNat 4096 (leNat m.bytes) }
  | _ => { t with ring := ringOf 256 m.bytes, captureTo := none }
/-- The next payload of the oldest message from Markhor; the last one writes it (R57, R264; log 33, DESIGN CHOICE). -/
def State.messagePayload (s : State) (x y : Nat) : Option State :=
  let t := s.tile x y
  match t.svcIn with
  | [] => none
  | m :: r =>
    let t : Tile := { t with downAt := some (s.now, payload kindMessage m.moved m.total (slice m.bytes (32 * m.moved) 32)) }
    some (s.setTile x y (if m.moved + 1 < m.total then { t with svcIn := { m with moved := m.moved + 1 } :: r } else { t.debugWrite m with svcIn := r }))
/-! Planes (R137, R140). -/

/-- A launch holds a tile's planes: halted, or prepared for its replay (R258). -/
def Launch.holdsPlanes (l : Launch) : Bool := l.phase == .halted || ((l.phase == .staged || l.phase == .fixed) && l.replays)
/-- A plane swap is due: no launch runs on the tile, is being saved there or is to be replayed there, its switch program has ended, and the shadow plane alone matches the staged launch (R140). -/
def State.swapDue (s : State) (x y : Nat) : Bool :=
  let t := s.tile x y
  (s.runningAt x y).isNone && (!t.router.on || decide (t.router.upto < s.now)) && !(t.seq.mode == .run)
    && !(s.launches.any fun l => (l.holdsPlanes || l.phase == .saving) && l.lnr.covers x y) &&
    match s.launches.find? fun l => (l.phase == .staged || l.phase == .fixed) && l.lnr.covers x y with
    | some l => t.resident l.lnr.img l.lnr.cset (x - l.lnr.x0) (y - l.lnr.y0) == .shadow
    | none => false
/-- PLANE_SWAP (R140); the vector results that are available have reached the pool, and later ones land by the new plane's partition word (log 33, DESIGN CHOICE). -/
def execPlaneSwap (s : State) : Res :=
  let x := s.arg.nat 0
  let y := s.arg.nat 1
  .next (if s.swapDue x y then s.onTile x y fun t => { t.flushV s.now with second := !t.second } else s)
/-- Swaps that are due now, of the tiles of a region. -/
def State.postSwaps (s : State) (ps : List (Nat × Nat)) : State :=
  ps.foldl (fun s p => if s.swapDue p.1 p.2 then s.nowEv rowPlaneSwap [p.1, p.2] else s) s

/-! Downstream (R57, R58). -/

/-- What comes into a tile in its slot: a restore, then configuration, then a service message (R57). -/
def State.nextDown (s : State) (x y : Nat) : Option State :=
  let staged := s.loadingAt x y
  ((s.tile x y).svc.bind (s.svloadPayload x y))
    <|> (staged.bind fun l => if l.restores then l.resume.bind (s.restorePayload x y l) else none)
    <|> (staged.bind (s.configPayload x y))
    <|> s.messagePayload x y
/-- DISTAFF_DOWNSTREAM_PAYLOAD: one payload comes in, in the tile's own slot; what Markhor sends to a running tile goes on in its next slot (R56, R57). -/
def execDistaffDownstreamPayload (s : State) : Res :=
  let x := s.arg.nat 0
  let y := s.arg.nat 1
  .next (if !s.ownSlot x y ∨ ((s.tile x y).downAt.map (·.1)) = some s.now then s
    else match s.nextDown x y with
      | some u =>
        let t := u.tile x y
        let u := u.postSwaps [(x, y)]
        if !t.svcIn.isEmpty ∨ (t.svc.any fun v => v.kind == 1 && v.failed.isNone && decide (v.moved < v.total)) = true then
          u.postEv (s.now + 288) phEnd rowDownstream [x, y]
        else u
      | none => s)

/-- The launches whose load is in progress in a field. -/
def State.loadingIn (s : State) (fx fy : Nat) : List Launch := s.launches.filter fun l => (l.phase == .staged) && l.lf.isNone && !(l.inField fx fy).isEmpty
/-- How many broadcast blocks of a launch a field has had. -/
def State.hadBlocks (s : State) (l : Launch) (fx fy : Nat) : Nat := (l.inField fx fy).foldl (fun acc p => max acc (s.tile p.1 p.2).loadedB) 0
/-- The next broadcast block of a launch in a field, when every tile of it may take the block. -/
def State.nextShared (s : State) (l : Launch) (fx fy : Nat) : Option Block :=
  let img := s.launchImage l
  ((sharedBlocks (s.fieldBlocks l img fx fy))[s.hadBlocks l fx fy]?).filter fun b =>
    (l.inField fx fy).all fun p => s.mayLoad l (s.tile p.1 p.2) (l.halfOf img (p.1 - l.lnr.x0) (p.2 - l.lnr.y0)) b
/-- A broadcast block comes into the tiles of a launch in a field: those that receive it take it, and all have passed it. -/
def State.shareBlock (s : State) (l : Launch) (fx fy : Nat) (b : Block) : State :=
  let img := s.launchImage l
  let all := s.fieldBlocks l img fx fy
  let k := s.hadBlocks l fx fy
  let p := payload kindConfig k (sharedBlocks all).length b.bytes
  ((l.inField fx fy).zip all).foldl (fun u e => u.onTile e.1.1 e.1.2 fun t =>
    if e.2.contains b then { { t with loadedB := k }.takeBlock l img all e.2 e.1.1 e.1.2 false b with downAt := some (s.now, p) }
    else { t with loadedB := k + 1 }) s
/-- DISTAFF_BROADCAST_PAYLOAD: in a slot from 272 on, the next block of a load in the field, into every tile whose loader awaits that block of the same image id (R58, R138; log 33, DESIGN CHOICE). -/
def execDistaffBroadcastPayload (s : State) : Res :=
  let fx := s.arg.nat 0
  let fy := s.arg.nat 1
  .next (if s.now % 288 < 272 then s
    else
      let ls := s.loadingIn fx fy
      match ls.findSome? fun l => (s.nextShared l fx fy).map fun b => (l.lnr.img, b) with
      | none => s
      | some (img, b) =>
        let dest := ls.filter fun l => l.lnr.img == img && s.nextShared l fx fy == some b
        (dest.foldl (fun u l => u.shareBlock l fx fy b) s).postSwaps (dest.flatMap fun l => l.inField fx fy))

/-! The end of a transfer (R249, R385, R386). -/

/-- The transfer's end on this cycle: SVLOAD's registers, the status, the cause, and the next word at E + 1 + WAIT. -/
def Tile.endService (t : Tile) (e res : Nat) (v : Service) : Tile :=
  let t := if v.kind = 1 ∧ res = 0 then t.restoreArea e v.bytes else t
  let t := t.pushRW e 4 (rwS v.d 1 (BitVec.ofNat 32 (256 * v.done + res)))
  let t := match v.failed with | some (r, va) => t.raise e (if r = 1 then 0x21 else 0x22) va 0 4 | none => t
  let next := e + 1 + v.wait
  -- the word no longer waits in the transfer; a CPYW or FENCE of the same word may hold it further
  let seq : Seq := { t.seq with minDue := max next t.seq.minDue, waitPc := if t.seq.minDue ≤ e + 1 then none else t.seq.waitPc }
  { t with
    svc := none
    seq := match t.seq.hold with | .service => { seq with hold := .none, due := some seq.minDue } | _ => seq }
/-- SERVICE_TRANSFER_END: Markhor's answer to the last payload, or to the one that failed, reaches the tile; its cycle is dynamic (R56, R57, R385). -/
def execServiceTransferEnd (s : State) : Res :=
  let x := s.arg.nat 0
  let y := s.arg.nat 1
  let res := s.arg.nat 2
  let t := s.tile x y
  .next (match t.svc with
    | some v =>
      let fits : Bool := match v.failed with | some f => f.1 == res | none => res == 0 && v.done == v.total
      if v.kind ≠ 2 ∧ fits = true then s.setTile x y (t.endService s.now res v) else s
    | none => s)
/-- A transfer that is in progress at a stop cycle, or at a freeze, is abandoned. An SVSAVE or an SVLOAD then has no end cycle: the tile's issue stays held (R386; log 33, DESIGN CHOICE). -/
def Tile.abandon (t : Tile) : Tile :=
  match t.svc with
  | none => t
  | some v =>
    if v.kind = 2 then { t with svc := none }
    else { t with svc := none, seq := if t.seq.mode = .run then { t.seq with due := none, hold := .service } else t.seq }

end Sys2Proof.Machine
end

