-- ==== Sys2Proof/Machine/Fabric.lean ====
section
/-! DEFINITION. The Weft: switch programs, routing, arrival and the landing register (R34 to R46, R81, R82). -/

namespace Sys2Proof.Machine

/-! Switch entries (R36, R37). -/

def swHold (w : Nat) : Nat := bitsAt w 33 16
def swAct (w : Nat) : Nat := bitsAt w 31 2
def swTgt (w : Nat) : Nat := bitsAt w 22 9
def swCnt (w : Nat) : Nat := bitsAt w 10 12
/-- The source code of output o: 0 N, 1 E, 2 S, 3 W, 4 Local. -/
def swSource (w o : Nat) : Nat := bitsAt w (61 - 3 * o) 3

/-- Entry e comes into force at cycle c (R38). -/
def Router.enter (r : Router) (c e hold : Nat) : Router := { r with on := true, entry := e, from_ := c, upto := c + hold }
/-- Entry e of a tile's program comes into force at cycle c. -/
def Tile.enterSwitch (t : Tile) (c e : Nat) : Tile := { t with router := t.router.enter c e (swHold (t.switchWord e)) }
/-- The first entry of a program for a region comes into force (R39, R40). -/
def Tile.startRouter (t : Tile) (c : Nat) (r : Lnr) : Tile := { t with router := { Router.off with region := some (r.x0, r.y0, r.w, r.h) } }.enterSwitch c 0
/-- A LOOP entry at the end of its span (R38): its holder and count afterwards, the entry that follows, and whether cause 0x84 is raised. -/
def Router.loopEnd (r : Router) (cnt tgt : Nat) : Option (Nat × Nat) × Nat × Bool :=
  match r.loop with
  | some (h, k) =>
    if h ≠ r.entry then (r.loop, r.entry + 1, true)
    else if k ≠ 0 then (some (h, k - 1), tgt, false)
    else (none, r.entry + 1, false)
  | none => if cnt ≠ 0 then (some (r.entry, cnt - 1), tgt, false) else (none, r.entry + 1, false)
/-- The router moves on at cycle c (R38). Past entry 511 the word after the program is read as an entry (log 32, DESIGN CHOICE). -/
def Tile.moveSwitch (t : Tile) (c : Nat) : Tile :=
  let w := t.switchWord t.router.entry
  match swAct w with
  | 0 => t.enterSwitch c (t.router.entry + 1)
  | 1 => t.enterSwitch c (swTgt w)
  | 2 =>
    let r := t.router.loopEnd (swCnt w) (swTgt w)
    let t := if r.2.2 then t.raise c 0x84 t.router.entry 0 7 else t
    { t with router := { t.router with loop := r.1 } }.enterSwitch c r.2.1
  | _ => { t with router := { t.router with on := false } }
/-- The event at which a tile's router moves on. -/
def State.postSwitch (s : State) (x y : Nat) : State :=
  let r := (s.tile x y).router
  if r.on then s.postEv (r.upto + 1) phModule rowSwitchAdvance [x, y] else s

/-- SWITCH_ENTRY_ADVANCE, at the end of the span of the entry in force, while the launch runs (R38, R39). -/
def execSwitchEntryAdvance (s : State) : Res :=
  let x := s.arg.nat 0
  let y := s.arg.nat 1
  let t := s.tile x y
  .next (if t.router.on && s.now == t.router.upto + 1 && (s.runningAt x y).isSome then
    (s.setTile x y (t.moveSwitch s.now)).postSwitch x y else s)

/-! Routing (R41, R42, R45). -/

/-- The source of output o on cycle c; nothing outside a program (R39). -/
def Tile.sourceOf (t : Tile) (c o : Nat) : Nat :=
  if t.router.on && decide (t.router.from_ ≤ c) && decide (c ≤ t.router.upto) then swSource (t.switchWord t.router.entry) o else 0
/-- The outputs on which a flit on input i leaves on cycle c: those whose entry selects i; a SEND flit takes its port from any other input. -/
def Tile.outputs (t : Tile) (c i : Nat) (port : Option Nat) : List Nat :=
  (List.range 5).filter fun o =>
    if i = 4 then port == some o || t.sourceOf c o == 5
    else t.sourceOf c o == i + 1 && t.router.sent != some (o, c)
/-- A flit leaves a tile on an output (R41, R46, R82). -/
def State.leave (s : State) (x y i o : Nat) (f : Flit) : State :=
  if o = 4 then s.onTile x y fun t => t.sched (s.now + 1) phLand s.now 7 false (.land f i)
  else match s.neighbour x y o with
    | some n => s.postEv (s.now + s.retimed x y n.1 n.2 (hopCost x y n.1 n.2)) phRouteIn rowFlitArrival ([n.1, n.2, opposite o] ++ f.arg)
    | none =>
      match s.edgeOf x y o with
      | some e => s.postEv (s.now + s.edgeCost e.1) phModule rowFlitArrival ([x, y, 5 + o] ++ f.arg)
      | none => s
/-- An output leads to a tile of the region whose program the router runs or has run last, to the tile itself or to an edge link: no flit enters a tile outside its launch's region (R40; log 21, DEDUCED). -/
def State.stays (s : State) (x y o : Nat) : Bool :=
  match s.neighbour x y o, (s.tile x y).router.region with
  | some n, some (x0, y0, w, h) => o == 4 || (decide (x0 ≤ n.1) && decide (n.1 < x0 + w) && decide (y0 ≤ n.2) && decide (n.2 < y0 + h))
  | _, _ => true
/-- A flit on an input of a router (R41, R42, R45); a frozen tile's flits carry POISON (R35, R252). -/
def State.route (s : State) (x y i : Nat) (f : Flit) (port : Option Nat) : State :=
  let t := s.tile x y
  let f : Flit := if i = 4 ∧ t.seq.mode = .frozen then { f with poison := true } else f
  let outs := (t.outputs s.now i port).filter (s.stays x y)
  let t : Tile := if i = 4 then
      { t with localIn := t.localIn.filter (· != s.now), router := { t.router with sent := port.map fun p => (p, s.now) } }
    else t
  let t := if outs.isEmpty then t.record s.now noPc 0x83 else t
  outs.foldl (fun s o => s.leave x y i o f) (s.setTile x y t)
/-- Landings count up to the stop of a kill or a pre-emption and up to the final boundary, but not on the cycle of a halt (R87, R92). -/
def Launch.lands (l : Launch) (c : Nat) : Bool :=
  l.phase == .running || (l.stop.bind (·.b) == some c && (l.phase == .killed || l.phase == .saving))
/-- A landing at an offset is taken in this run (R92). -/
def Launch.takes (l : Launch) (off : Nat) : Bool := l.resumedFrom == 0 || decide (l.resumedFrom < off)
/-- A write entry or a send entry of a launch names a link on a cycle (R80, R82). -/
def Launch.namesLink (l : Launch) (e link c : Nat) : Bool :=
  let on : Nat → Nat → Nat → Bool := fun t0 iv n => (List.range n).any fun k => l.takes (t0 + k * iv) && l.tstart + (t0 + k * iv) == c
  l.scripts.any fun u =>
    unitEngine u.unit == e && ((u.writes.any fun w => w.link == link && on w.l0 w.iv w.n) || u.ents.any fun b => b.send && b.link == link && on b.t0 b.iv b.n)
/-- A launch whose landings are taken expects a flit on this link on this cycle (R82, R92). -/
def State.expects (s : State) (e link : Nat) : Bool := s.launches.any fun l => l.lands s.now && l.namesLink e link s.now
/-- Flits of the launch may reach an engine over links of a cost: while it runs, and until what has left by its stop is there (R18, R82, R92). -/
def Launch.flitsOut (l : Launch) (cost c : Nat) : Bool :=
  let past : Option Nat → Bool := fun b => match b with | some b => decide (c ≤ b + cost) | none => false
  l.phase == .running || ((l.phase == .killed || l.phase == .saving) && past (l.stop.bind (·.b)))
    || ((l.phase == .halted || l.phase == .staged) && past (l.stopped.map (·.b))) || (l.phase == .retired && past l.retire)
/-- A flit reaches an engine on its edge link; one that no entry names is dropped and recorded in the launch's log as cause 0x83 (R82, R263). One that an entry of a stopped launch names is abandoned with its landing (R92). -/
def State.reachEngine (s : State) (x y side : Nat) (f : Flit) : State :=
  match s.edgeOf x y side with
  | none => s
  | some (e, link) =>
    if s.expects e link then
      { s with engines := s.engines.modify (s.physEngine e) fun g =>
          { g with edge := (link, s.now, f) :: g.edge.filter fun q => decide (s.now ≤ q.2.1) } }
    else match s.launches.find? fun l => l.lnr.covers x y && l.flitsOut (s.edgeCost e) s.now with
      | some l => if l.namesLink e link s.now then s else s.setLaunch (l.addLog s.now 0x83 6 e)
      | none => s

/-- FLIT_ARRIVAL: ports 0 to 3 are N, E, S, W, 4 is Local with the SEND's port last, 5 + d the engine on outward side d (R41, R42, R45, R81, R82). -/
def execFlitArrival (s : State) : Res :=
  let x := s.arg.nat 0
  let y := s.arg.nat 1
  let i := s.arg.nat 2
  let f : Flit := ⟨BitVec.ofNat 512 (s.arg.nat 3), s.arg.nat 4 = 1⟩
  .next (if i < 5 then s.route x y i f (if i = 4 then s.arg.n[5]? else none) else s.reachEngine x y (i - 5) f)

/-- LANDING_WINDOW_EXPIRY: at A + 4 (R44). -/
def execLandingWindowExpiry (s : State) : Res :=
  .next (s.onTile (s.arg.nat 0) (s.arg.nat 1) fun t => t.landingExpires s.now)

end Sys2Proof.Machine
end

