-- ==== Sys2Proof/Machine/Staging.lean ====
section
/-! DEFINITION. The Skein staging engines: scripts and their checks, fetches, injections, landings and commits (R71 to R92). -/

namespace Sys2Proof.Machine

/-! Scripts. -/

/-- The script of a unit in a launch. -/
def Launch.script (l : Launch) (unit : Nat) : Option Script := l.scripts.find? fun c => c.unit == unit
/-- The offset from TSTART from which a launch's scripts run: that of the resume in preparation, or of the present run (R92). -/
def Launch.offset (l : Launch) : Nat := l.resume.getD l.resumedFrom
/-- Injection offset of flit k (R79), landing offset of flit k (R80, R129). -/
def ReadEnt.cycle (e : ReadEnt) (k : Nat) : Nat := e.t0 + k * e.iv
def WriteEnt.cycle (e : WriteEnt) (k : Nat) : Nat := e.l0 + k * e.iv
def BridgeEnt.cycle (e : BridgeEnt) (k : Nat) : Nat := e.t0 + k * e.iv
/-- An entry covers a slot position. -/
def ReadEnt.covers (e : ReadEnt) (slot pos : Nat) : Bool := e.slot == slot && decide (e.ofs ≤ pos) && decide (pos < e.ofs + e.n)
/-- A planned fetch: entry, F as an offset, flits. -/
structure Fetch where
  entry : Nat
  at_ : Nat
  ks : List Nat
  deriving DecidableEq, Repr
def insertFetch (e : Nat × Nat × List Nat) : List (Nat × Nat × List Nat) → List (Nat × Nat × List Nat)
  | [] => [e]
  | h :: r => if e.2.1 < h.2.1 then e :: h :: r else h :: insertFetch e r
/-- The fetches of entries with their first injections and their flits, in order (R85): F = max(T0 − LEAD, F' + ceil(N' / 16), floor). -/
def chain (lead floor : Nat) (items : List (Nat × Nat × List Nat)) : List Fetch :=
  ((items.foldl (fun acc e => insertFetch e acc) []).foldl (fun (acc : List Fetch × Nat) e =>
    let f := max (max (e.2.1 - lead) acc.2) floor
    (acc.1 ++ [⟨e.1, f, e.2.2⟩], f + (e.2.2.length + 15) / 16)) ([], 0)).1
/-- The fetches of a first start (R85). -/
def firstPlan (l : List ReadEnt) (lead : Nat) : List Fetch :=
  chain lead 0 (l.zipIdx.filterMap fun e => if e.1.reuse then none else some (e.2, e.1.t0, List.range e.1.n))
/-- F of an entry in a plan. -/
def fetchOf (plan : List Fetch) (i : Nat) : Nat := ((plan.find? fun f => f.entry == i).map (·.at_)).getD 0
/-- The entry that fills what entry j injects from a position: itself, or under REUSE the earlier one whose flits the fetches of a first start leave there at the injection (R79). -/
def filler (l : List ReadEnt) (plan : List Fetch) (j pos : Nat) : Option Nat :=
  match l[j]? with
  | none => none
  | some e =>
    if e.reuse then
      let put := (List.range j).filter fun i => match l[i]? with
        | some f => !f.reuse && f.covers e.slot pos && decide (fetchOf plan i ≤ e.cycle (pos - e.ofs))
        | none => false
      put.foldl (fun best i => match best with | some k => if fetchOf plan k < fetchOf plan i then some i else some k | none => some i) none
    else some j

/-- Flits of a filling entry that are fetched for a resume at offset o, those that an injection at or after o reads, with the least of those injections (R92). -/
def refetch (l : List ReadEnt) (plan : List Fetch) (o i : Nat) : List Nat × Nat :=
  match l[i]? with
  | none => ([], 0)
  | some f =>
    let uses := l.zipIdx.flatMap fun e => (List.range e.1.n).filterMap fun k =>
      if o ≤ e.1.cycle k ∧ e.1.slot = f.slot ∧ filler l plan e.2 (e.1.ofs + k) = some i then some (e.1.ofs + k - f.ofs, e.1.cycle k) else none
    ((List.range f.n).filter fun k => uses.any fun u => u.1 == k, uses.foldl (fun b u => min b u.2) (2 ^ 48))
/-- The fetches of a script, all at a first start, else those of a resume at offset o (R85, R92). -/
def fetchPlan (l : List ReadEnt) (lead o floor : Nat) : List Fetch :=
  let plan := firstPlan l lead
  if o = 0 then plan
  else chain lead floor (l.zipIdx.filterMap fun e =>
    if e.1.reuse then none else
      let r := refetch l plan o e.2
      if r.1.isEmpty then none else some (e.2, r.2, r.1))
/-- The fetches of a launch's script as cycles: a first start counts from TSTART, a resume from the engine's readiness (R85, R399). -/
def Launch.fetches (l : Launch) (c : Script) : List Fetch :=
  let o := l.offset
  let floor := if o = 0 then 0 else (c.ready.getD 0) - l.tstart
  (fetchPlan c.reads c.lead o floor).map fun f => { f with at_ := l.tstart + f.at_ }

/-! The checks at script load (R89, R90, R123, R129). -/

/-- A failure: cause and ENTRY. -/
abbrev LoadFail := Nat × Nat
def noEntry : Nat := 0xFFFFFFFF

/-- Two cycle progressions of n and m terms meet. -/
def meets (a iv n b jv m : Nat) : Bool :=
  (List.range n).any fun k => let c := a + k * iv; decide (b ≤ c) && (jv != 0) && (c - b) % jv == 0 && decide ((c - b) / jv < m)
/-- Fields of a read entry in range, reserved bits zero (R79). A VA that is no flit's, and for a REUSE a VA above 48 bits, is refused here (log 35, DESIGN CHOICE). -/
def readEntOk (m : Mem) (a : Nat) : Bool :=
  let b := m.bytes a 32
  let e := readEntAt m a
  decide (e.va < 2 ^ 48) && (e.reuse || e.va % 64 == 0) && decide (1 ≤ e.n) && decide (e.n ≤ 1024) && decide (1 ≤ e.iv) && decide (e.slot < 96)
    && decide (e.link < 16) && decide (e.ofs + e.n ≤ 1024) && decide (leAt b 22 2 < 2) && leAt b 24 8 == 0
/-- Fields of a write entry (R80). A VA that is no flit's is refused here (log 35, DESIGN CHOICE). -/
def writeEntOk (m : Mem) (a : Nat) : Bool :=
  let b := m.bytes a 32
  let e := writeEntAt m a
  decide (e.va < 2 ^ 48) && e.va % 64 == 0 && decide (1 ≤ e.n) && decide (e.n ≤ 1024) && decide (1 ≤ e.iv) && decide (e.link < 16)
    && leAt b 18 1 == 0 && leAt b 20 12 == 0
/-- Fields of a bridge entry (R129). A KIND other than 1 and 2, and a SLACK below 1,880, are refused with cause 0x03, as fields out of their range (R89; log 35, DESIGN CHOICE). -/
def bridgeEntOk (m : Mem) (a : Nat) : Bool :=
  let b := m.bytes a 32
  let kind := leAt b 0 1
  let e := bridgeEntAt m a
  (kind == 1 || kind == 2) && decide (e.link < 16) && decide (1 ≤ e.n) && decide (e.n ≤ 1024) && decide (1 ≤ e.iv)
    && (if kind = 1 then leAt b 25 3 == 0 && leAt b 28 4 == 0 else leAt b 24 1 == 0 && leAt b 25 3 == 0 && decide (1880 ≤ e.slack))

/-- The flits that an entry of a staging script names, with whether they are written: entry number, virtual address. -/
def Script.flits (c : Script) : List (Nat × Bool × Nat) :=
  (c.reads.zipIdx.flatMap fun e => if e.1.reuse then [] else (List.range e.1.n).map fun k => (e.2, false, e.1.va + 64 * k))
    ++ c.writes.zipIdx.flatMap fun e => (List.range e.1.n).map fun k => (c.reads.length + e.2, true, e.1.va + 64 * k)
/-- The first failure of a list of checks. -/
def firstFail (l : List (Option LoadFail)) : Option LoadFail := l.findSome? id
/-- The first element that fails a check, with its entry. -/
def failOf {α : Type} (cause : Nat) (l : List α) (entry : α → Nat) (ok : α → Bool) : Option LoadFail :=
  (l.find? fun e => !ok e).map fun e => (cause, entry e)

/-- First boundary at or after a landing offset, when B is not zero: the multiples of B from B on (R87). -/
def boundaryAt (b off : Nat) : Nat := max 1 ((off + b - 1) / b) * b
/-- Landings of a script in one interval (R87). -/
def landingsIn (c : Script) (b i : Nat) (bound : Nat) : Nat :=
  ((c.writes.take (i + 1)).map fun e => ((List.range e.n).filter fun k => if b = 0 then true else boundaryAt b (e.cycle k) == bound).length).sum
/-- Cause 0x4D for read entry i against the earlier ones (R86, R89). An earlier entry has filled a position from its F + 1,200 + ceil(N / 16) on, and a REUSE entry that reads it before is refused (log 35, DESIGN CHOICE). -/
def readConflict (c : Script) (plan : List Fetch) (i : Nat) : Bool :=
  let fOf : Nat → Nat := fetchOf plan
  match c.reads[i]? with
  | none => false
  | some e =>
    let earlier := c.reads.take i
    let link := earlier.any fun d => d.link == e.link && meets d.t0 d.iv d.n e.t0 e.iv e.n
    let lastUse : Nat → Nat → Nat := fun j pos => (c.reads.zipIdx.foldl (fun acc d =>
      if d.1.covers ((c.reads[j]?.map (·.slot)).getD 0) pos ∧ filler c.reads plan d.2 pos = some j then max acc (d.1.cycle (pos - d.1.ofs)) else acc) 0)
    let spans := !e.reuse && earlier.zipIdx.any fun d => !d.1.reuse && d.1.slot == e.slot && (List.range e.n).any fun k =>
      let pos := e.ofs + k
      d.1.covers e.slot pos && decide (fOf i ≤ lastUse d.2 pos) && decide (fOf d.2 ≤ lastUse i pos)
    let reuse := e.reuse && (List.range e.n).any fun k =>
      let pos := e.ofs + k
      match filler c.reads plan i pos with
      | none => true
      | some j => decide (e.cycle k < fOf j + 1200 + (((c.reads[j]?).map (·.n)).getD 0 + 15) / 16) || c.reads.zipIdx.any fun d => d.2 != j && !d.1.reuse && d.1.covers e.slot pos
          && decide (fOf j < fOf d.2) && decide (fOf d.2 ≤ e.cycle k)
    link || spans || reuse
/-- Cause 0x4D for write entry i (R87, R89, R90): `pa` is the pinned address of a virtual one, `image` says that a registered image holds a flit (R123), B is the boundary spacing. -/
def writeConflict (c : Script) (plan : List Fetch) (b : Nat) (pa : Nat → Nat) (image : Nat → Bool) (i : Nat) : Bool :=
  match c.writes[i]? with
  | none => false
  | some e =>
    let link := (c.writes.take i).any fun d => d.link == e.link && meets d.l0 d.iv d.n e.l0 e.iv e.n
    let tooLate := (List.range e.n).any fun k => decide (landingsIn c b i (if b = 0 then 0 else boundaryAt b (e.cycle k)) > 16384)
    let overlap := (List.range e.n).any fun k =>
      let a := pa (e.va + 64 * k)
      c.reads.zipIdx.any fun r => !r.1.reuse && ((List.range r.1.n).any fun j => pa (r.1.va + 64 * j) == a)
        && (b == 0 || decide (fetchOf plan r.2 < boundaryAt b (e.cycle k) + 4112))
    link || tooLate || (decide (1 ≤ b) && decide (b ≤ 4111)) || overlap || (List.range e.n).any fun k => image (pa (e.va + 64 * k))

/-- The checks of a staging script, in the order of R89; the entry that a conflict names is the later of the two. Of several entries that fail 0x4C the first in the order of the fetches is named (log 35, DESIGN CHOICE). -/
def State.stagingFail (s : State) (ctx : Nat) (r : Lnr) (m : Mem) (e : Sec) (h : ScriptHdr) (c : Script) : Option LoadFail :=
  let at_ : Nat → Nat := fun k => e.off + 64 + 32 * k
  let nr := c.reads.length
  let tbl := s.table ctx
  let pte : Nat → Option Pte := fun va => tbl.bind fun l => findPte l va
  let pa : Nat → Nat := fun va => match pte va with | some p => p.pa + (va - p.va) | none => va + 2 ^ 60
  let fl := c.flits
  let plan := firstPlan c.reads c.lead
  let phys := s.physEngine c.unit
  firstFail [
    if h.magic = 0x534B5354 ∧ h.ver = 1 ∧ h.unit < 48 ∧ h.sku = s.sku ∧ !(s.sku = 1 ∧ (h.unit = 11 ∨ h.unit = 35)) ∧ h.rsv
        ∧ 64 + 32 * (h.nrd + h.nwr) ≤ e.len then none else some (0x03, noEntry),
    failOf 0x03 (List.range (nr + c.writes.length)) id (fun k => if k < nr then readEntOk m (at_ k) else writeEntOk m (at_ k)),
    failOf 0x24 fl (·.1) (fun f => (pte f.2.2).isSome),
    failOf 0x25 fl (·.1) (fun f => match pte f.2.2 with | some p => if f.2.1 then p.wr else p.rd | none => true),
    failOf 0x26 fl (·.1) (fun f => decide (pa f.2.2 < dramTop) && pa f.2.2 / 2 ^ 36 == phys),
    if c.lead < 24000 then some (0x4C, noEntry) else none,
    failOf 0x4C plan (·.entry) (fun f => decide (f.at_ + 1200 + (f.ks.length + 15) / 16 ≤ ((c.reads[f.entry]?.map (·.t0)).getD 0))),
    failOf 0x4D (List.range nr) id (fun i => !readConflict c plan i),
    failOf 0x4D (List.range c.writes.length) (nr + ·) (fun i => !writeConflict c plan r.rbsp pa s.imageFlit i)]
/-- The checks of a bridge script (R89, R129). -/
def State.bridgeFail (s : State) (m : Mem) (e : Sec) (h : ScriptHdr) (c : Script) (stage : Option Script) : Option LoadFail :=
  let hits : BridgeEnt → Nat → Nat → Nat → Nat → Bool := fun b link t iv n => b.link == link && meets b.t0 b.iv b.n t iv n
  firstFail [
    if h.magic = 0x53425242 ∧ h.ver = 1 ∧ h.unit < 16 ∧ h.sku = s.sku ∧ h.lead = 0 ∧ h.rsv ∧ 64 + 32 * (h.nrd + h.nwr) ≤ e.len then none else some (0x03, noEntry),
    failOf 0x03 (List.range c.ents.length) id (fun k => bridgeEntOk m (e.off + 64 + 32 * k)),
    failOf 0x4D c.ents.zipIdx (·.2) (fun b =>
      (b.1.send || decide (b.1.sent + b.1.slack ≤ b.1.t0))
        && !((c.ents.take b.2).any fun d => hits b.1 d.link d.t0 d.iv d.n)
        && !(match stage with
          | some g => (g.reads.any fun d => hits b.1 d.link d.t0 d.iv d.n) || g.writes.any fun d => hits b.1 d.link d.l0 d.iv d.n
          | none => false))]

/-- The translations that a script pins (R76, R89). -/
def State.pinsOf (s : State) (ctx : Nat) (c : Script) : List (Nat × Nat × Nat) :=
  ((c.flits.filterMap fun f => (s.table ctx).bind fun l => findPte l f.2.2).eraseDups).map fun p => (p.va, p.len, p.pa)
/-- The pinned physical address of a virtual one. -/
def Script.pinned (c : Script) (va : Nat) : Nat :=
  match c.pins.find? fun p => decide (p.1 ≤ va) && decide (va < p.1 + p.2.1) with
  | some p => p.2.2 + (va - p.1)
  | none => va

/-! Fetches (R85, R236). -/

/-- A launch's engines may act: it is fixed or running, and no stop has come. -/
def Launch.staging (l : Launch) : Bool := l.phase == .fixed || l.phase == .running
def Stop.isHalt (st : Stop) : Bool := match st.kind with | .halt _ _ => true | _ => false
/-- A halt that is pending stops the launch on this cycle if its final boundary falls on it: whether injections and landings of the cycle are abandoned is known when it ends (R70, R92). -/
def Launch.mayHalt (l : Launch) (c : Nat) : Bool := l.phase == .running && l.stop.any fun st => st.isHalt && decide (st.frm ≤ c)
/-- Injections go on until the stop (R92). -/
def Launch.injects (l : Launch) (c : Nat) : Bool := l.phase == .running && l.stop.bind (·.b) != some c
/-- Enter the fetches of a launch whose start is fixed. On one cycle a commit ends first and flits arrive, then fetches start and flits are injected (R85, R90, R91). -/
def State.postFetches (s : State) (l : Launch) : State :=
  l.scripts.foldl (fun s c => (l.fetches c).foldl (fun s f => s.postEv (max s.now f.at_) phLand rowFetchStart [l.id, c.unit, f.entry]) s) s

/-- FETCH_START: at F(e), or when a resume is fixed if that is later; each flit is read at one cycle from now to its fill (R85, R92, R216, R236; log 33, DEDUCED). R85 bounds the entry's last fill, and flit k of the fetch fills its position at F + 1,200 + ceil((k + 1) / 16) (log 33, DESIGN CHOICE). -/
def execFetchStart (s : State) : Res :=
  let id := s.arg.nat 0
  let unit := s.arg.nat 1
  let entry := s.arg.nat 2
  .next (match s.launchOf id with
    | none => s
    | some l =>
      match l.script unit with
      | none => s
      | some c =>
        match (l.fetches c).find? fun f => f.entry == entry, c.reads[entry]? with
        | some f, some e =>
          if l.staging && (f.at_ == s.now || (decide (f.at_ < s.now) && l.phase == .fixed)) && !(s.reads.any fun r => r.launch == id && r.unit == unit && r.entry == entry) then
            let new := f.ks.zipIdx.map fun k =>
              ({ launch := id, unit := unit, entry := entry, k := k.1, slot := e.slot, pos := e.ofs + k.1
                 due := max s.now (f.at_ + 1200 + (k.2 + 16) / 16), pa := c.pinned (e.va + 64 * k.1), got := none } : PendRead)
            let s : State := { s with reads := s.reads ++ new }
            match new with
            | r :: _ => s.postEv r.due phModule rowFetchArrival [id, unit, entry, r.k]
            | [] => s
          else s
        | _, _ => s)

/-- Put a flit into its window position (R84). Launches do not disturb each other's positions (log 33, DESIGN CHOICE). -/
def Engine.fill (g : Engine) (cell : WinCell) : Engine :=
  { g with win := cell :: g.win.filter fun w => !(w.slot == cell.slot && w.pos == cell.pos && w.launch == cell.launch) }
/-- FETCH_DATA_ARRIVAL: a flit fills its slot position (R85). -/
def execFetchDataArrival (s : State) : Res :=
  let id := s.arg.nat 0
  let unit := s.arg.nat 1
  let entry := s.arg.nat 2
  let mine : PendRead → Bool := fun r => r.launch == id && r.unit == unit && r.entry == entry
  .next (match s.reads.find? fun r => mine r && r.k == s.arg.nat 3 && r.due == s.now with
    | none => s
    | some r =>
      let d := match r.got with | some b => (s, b) | none => s.readFlit r.pa
      let s := d.1
      let s : State := { s with
        reads := s.reads.filter fun q => !(mine q && q.k == r.k)
        engines := s.engines.modify (s.physEngine unit) fun g => g.fill ⟨r.slot, r.pos, id, BitVec.ofNat 512 (leNat d.2), false⟩ }
      match s.reads.find? mine with
      | some q => s.postEv (max s.now q.due) phModule rowFetchArrival [id, unit, entry, q.k]
      | none => s)

/-! Injections (R79, R81, R91). -/

/-- A flit enters the edge tile's outward input (R81). -/
def State.injectEdge (s : State) (engine link : Nat) (f : Flit) : State :=
  let p := s.edgeTile engine link
  s.postEv (s.now + s.edgeCost engine) phRouteIn rowFlitArrival ([p.1, p.2.1, p.2.2] ++ f.arg)
/-- STAGING_INJECT: at T0 + k × IV; a flit missing from its slot or with an error goes out as poisoned zeros, with an ALERT (R91). Operand 4 is 1 at the end of a cycle on which a halt may have stopped the launch (R92). -/
def execStagingInject (s : State) : Res :=
  let id := s.arg.nat 0
  let unit := s.arg.nat 1
  let entry := s.arg.nat 2
  let k := s.arg.nat 3
  .next (match s.launchOf id with
    | none => s
    | some l =>
      match (l.script unit).bind fun c => c.reads[entry]? with
      | none => s
      | some e =>
        if l.injects s.now && s.now == l.tstart + e.cycle k && decide (k < e.n) && decide (l.resumedFrom ≤ e.cycle k) then
          if l.mayHalt s.now ∧ s.arg.nat 4 = 0 then s.postEv s.now phLate rowStagingInject [id, unit, entry, k, 1]
          else
          let cell := (s.engines.getD (s.physEngine unit) Engine.idle).win.find? fun w => w.launch == id && w.slot == e.slot && w.pos == e.ofs + k
          let s := if k + 1 < e.n then s.postEv (s.now + e.iv) phLand rowStagingInject [id, unit, entry, k + 1] else s
          match cell with
          | some w =>
            if w.bad then (s.injectEdge unit e.link ⟨0, true⟩).alert 0xAA 1 (s.physEngine unit) 0
            else s.injectEdge unit e.link ⟨w.data, false⟩
          | none => (s.injectEdge unit e.link ⟨0, true⟩).alert 0xA8 1 (s.physEngine unit) 0
        else s)

/-! Landings (R82, R83, R87, R131). -/

/-- The flit on an edge link at this cycle. -/
def State.onLink (s : State) (engine link : Nat) : Option Flit :=
  ((s.engines.getD (s.physEngine engine) Engine.idle).edge.find? fun q => q.1 == link && q.2.1 == s.now).map (·.2.2)
/-- A landing's entry: link, cycle offset, number, spacing. -/
def Script.landing (c : Script) (entry k : Nat) : Option (Nat × Nat × Nat × Nat) :=
  if c.unit < 48 then (c.writes[entry - c.reads.length]?).bind fun e => if c.reads.length ≤ entry then some (e.link, e.cycle k, e.n, e.iv) else none
  else (c.ents[entry]?).bind fun e => if e.send then some (e.link, e.cycle k, e.n, e.iv) else none
/-- A flit that a write entry takes joins the open interval; an absent or poisoned one taints it, is recorded, and is reported at once (R83, R263). -/
def State.takeWrite (s : State) (l : Launch) (c : Script) (entry k link : Nat) : State :=
  let phys := s.physEngine c.unit
  match s.onLink c.unit link with
  | some f =>
    if f.poison then tainted s phys
    else
      let pa := c.pinned (((c.writes[entry - c.reads.length]?).map (·.va)).getD 0 + 64 * k)
      { s with engines := s.engines.modify phys fun g => { g with bank := g.bank ++ [⟨l.id, s.now, pa, f.data⟩] } }
  | none => tainted s phys
where
  tainted (s : State) (phys : Nat) : State :=
    let s := s.setLaunch (l.addLog s.now 0x85 6 c.unit)
    let s : State := { s with engines := s.engines.modify phys fun g => { g with taints := g.taints ++ [(l.id, s.now)] } }
    s.nowEv rowContextKill [1, l.cmd.ctx, c.unit, entry]
/-- A flit that a send entry takes (R131); one with POISON is sent as its data, as R131 names no flag and no cause for it (log 21, DESIGN CHOICE). -/
def State.takeSend (s : State) (l : Launch) (c : Script) (entry k link n : Nat) : State :=
  let port := c.unit - 48
  let d := match s.onLink (unitEngine c.unit) link with
    | some f => (s, f.data)
    | none => ({ s with fv := s.fv + 1 }, BitVec.ofNat 512 (Config.freeNat s.fv))
  let s : State := { d.1 with bridges := d.1.bridges.modify port fun b => { b with landed := b.landed ++ [(l.id, entry, k, d.2)] } }
  if k + 1 = n then s.nowEv rowBridgeSend [l.id, port, entry] else s
/-- STAGING_WRITE_LANDING: at L0 + k × IV (R82, R83). -/
def execStagingWriteLanding (s : State) : Res :=
  let id := s.arg.nat 0
  let unit := s.arg.nat 1
  let entry := s.arg.nat 2
  let k := s.arg.nat 3
  .next (match s.launchOf id with
    | none => s
    | some l =>
      match l.script unit with
      | none => s
      | some c =>
        match c.landing entry k with
        | none => s
        | some (link, off, n, iv) =>
          if l.lands s.now && s.now == l.tstart + off && decide (k < n) && l.takes off then
            if l.mayHalt s.now ∧ s.arg.nat 4 = 0 then s.postEv s.now phLate rowStagingLanding [id, unit, entry, k, 1]
            else
            let s := if k + 1 < n then s.postEv (s.now + iv) phRead rowStagingLanding [id, unit, entry, k + 1] else s
            if unit < 48 then s.takeWrite l c entry k link else s.takeSend l c entry k link n
          else s)

/-- First flit of an entry whose cycle offset is at or after `o`. -/
def firstFrom (o t0 iv n : Nat) : Option Nat := (List.range n).find? fun k => decide (o ≤ t0 + k * iv)
/-- Enter the injections and landings of a run that starts now from offset `o` (R79, R80, R92, R129). -/
def State.postScripts (s : State) (l : Launch) (o : Nat) : State :=
  let past := if o = 0 then 0 else o + 1
  l.scripts.foldl (fun s c =>
    let s := c.reads.zipIdx.foldl (fun s e => match firstFrom o e.1.t0 e.1.iv e.1.n with
      | some k => s.postEv (l.tstart + e.1.cycle k) phLand rowStagingInject [l.id, c.unit, e.2, k]
      | none => s) s
    let s := c.writes.zipIdx.foldl (fun s e => match firstFrom past e.1.l0 e.1.iv e.1.n with
      | some k => s.postEv (l.tstart + e.1.cycle k) phRead rowStagingLanding [l.id, c.unit, c.reads.length + e.2, k]
      | none => s) s
    c.ents.zipIdx.foldl (fun s e =>
      if e.1.send then s.postEv (l.tstart + e.1.t0) phRead rowStagingLanding [l.id, c.unit, e.2, 0]
      else s.postEv (l.tstart + e.1.t0) phModule rowBridgeInject [l.id, c.unit - 48, e.2, 0]) s) s

/-! Commits (R87, R88). -/

/-- Physical engines of a launch's staging scripts. -/
def State.enginesOf (s : State) (l : Launch) : List Nat := ((l.scripts.filter fun c => decide (c.unit < 48)).map fun c => s.physEngine c.unit).eraseDups
/-- The engine may commit the interval that b closes: no ALERT or THERMAL whose STAMP + 48 lies in this run and at or before b, no taint, and no kill or halt that discards it (R88). -/
def Engine.commits (g : Engine) (l : Launch) (b : Nat) : Bool :=
  !(g.stamps.any fun t => decide (l.runStart ≤ t + 48) && decide (t + 48 ≤ b)) && !(g.taints.any fun t => t.1 == l.id && decide (t.2 ≤ b))
    && (match l.discardFrom with | some d => decide (b < d) | none => true)
/-- The latest landing of each flit of DRAM wins; of two on one cycle, that of the link whose landing the model executes last (R87; log 33, DESIGN CHOICE). -/
def latest (l : List Landed) : List (Nat × BitVec 512) :=
  l.foldl (fun acc f => acc.filter (fun e => e.1 != f.pa) ++ [(f.pa, f.data)]) []
/-- The cycles that a commit may take (R88). -/
def commitSpan : Nat := 4097
/-- A boundary of the launch: a multiple of B, its stop, or its final boundary (R87, R155). -/
def Launch.boundary (l : Launch) (b : Nat) : Bool :=
  l.retire == some b || l.stop.bind (·.b) == some b || (l.lnr.rbsp != 0 && decide (l.tstart < b) && (b - l.tstart) % l.lnr.rbsp == 0)
/-- An engine holds flits of a launch that it has neither begun to write nor discarded (R88). -/
def State.undecided (s : State) (id : Nat) : Bool := s.engines.any fun g => g.bank.any fun f => f.launch == id
/-- A launch whose intervals are decided on: one in flight, or one that has ended in the 16 cycles after a boundary (R88). -/
def State.committer (s : State) (id : Nat) : Option Launch := s.launchOf id <|> s.gone.find? fun l => l.id == id
/-- A launch that has ended is forgotten with the last decision on its intervals (R88). -/
def State.settleGone (s : State) (id : Nat) : State :=
  if (s.gone.any fun l => l.id == id) && !s.undecided id then
    { s with gone := s.gone.filter fun l => l.id != id, engines := s.engines.map fun g => { g with taints := g.taints.filter fun t => t.1 != id } }
  else s
/-- COMMIT_DECISION, at b + 16, also where the launch has ended since b: each engine writes the bank that b closes, or discards it; the write ends at some cycle up to b + 4,112 (R88; log 10, DESIGN CHOICE). -/
def execCommitDecision (s : State) : Res :=
  let id := s.arg.nat 0
  let b := s.arg.nat 1
  .next (match s.committer id with
    | none => s
    | some l =>
      if s.now ≠ b + 16 ∨ !l.boundary b ∨ (s.commits.any fun j => j.launch == id && j.bound == b) then s
      else
        let es := s.enginesOf l
        let due := es.flatMap fun e =>
          let g := s.engines.getD e Engine.idle
          if g.commits l b then g.bank.filter fun f => f.launch == id && decide (f.at_ ≤ b) else []
        let rest : Engine → Engine := fun g => { g with bank := g.bank.filter fun f => !(f.launch == id && decide (f.at_ ≤ b)) }
        let s := State.settleGone { s with engines := s.engines.zipIdx.map fun g => if es.contains g.2 then rest g.1 else g.1 } id
        if due.isEmpty then s.nowEv rowCommitComplete [id, b]
        else
          let s : State := { s with commits := s.commits ++ [{ launch := id, bound := b, pend := latest due }], fv := s.fv + 1 }
          s.postEv (s.now + Config.freeNat (s.fv - 1) % commitSpan) phModule rowCommitComplete [id, b])

/-! Bridges (R127 to R131). -/

/-- BRIDGE_MESSAGE_ARRIVAL: a complete message is held (R127). -/
def execBridgeMessageArrival (s : State) : Res :=
  .next { s with bridges := s.bridges.modify (s.arg.nat 0) fun b => { b with msgs := (s.arg.nat 1, s.arg.bytes) :: b.msgs } }
/-- BRIDGE_SEND: after the last landing, the message goes to its peer (R131). -/
def execBridgeSend (s : State) : Res :=
  let id := s.arg.nat 0
  let port := s.arg.nat 1
  let entry := s.arg.nat 2
  .next (match (s.launchOf id).bind fun l => (l.script (48 + port)).bind fun c => c.ents[entry]? with
    | none => s
    | some e =>
      let mine : Nat × Nat × Nat × BitVec 512 → Bool := fun q => q.1 == id && q.2.1 == entry
      let got := (s.bridges.getD port Bridge.idle).landed.filter mine
      if e.send ∧ got.length = e.n then
        let bytes := (List.range e.n).flatMap fun k => leBytes 64 (((got.find? fun q => q.2.2.1 == k).map fun q => q.2.2.2.toNat).getD 0)
        let p : TxPkt := { port := port, kind := .bridge e.peer e.peerPort e.msg, src := 0, sport := 0, addr := 0, udp := 52108, vlan := none, sum := 0, head := [], sid := 0, seq := 0, ack := 0
                           sack := 0, first := true, last := true, bytes := bytes }
        { (s.send p) with bridges := s.bridges.modify port fun b => { b with landed := b.landed.filter fun q => !mine q } }
      else s)
/-- What a receive entry injects (R131): under LOOSE the latest message with its MSG or zeros, else the message, or poisoned zeros and cause 0xAB; bytes beyond a message are free. -/
def State.receive (s : State) (l : Launch) (port entry : Nat) (e : BridgeEnt) : State :=
  let n := 64 * e.n
  let put : State → List Byte → Bool → State := fun s bs p => {
    s with bridges := s.bridges.modify port fun b => { b with inject := (l.id, entry, bs, p) :: b.inject.filter fun q => !(q.1 == l.id && q.2.1 == entry) } }
  match (s.bridges.getD port Bridge.idle).msgs.find? fun m => m.1 == e.msg with
  | some m =>
    let miss := n - m.2.length
    let pad := (List.range miss).map fun i => BitVec.ofNat 8 (Config.freeNat (s.fv + i))
    let s : State := put { s with fv := s.fv + miss } (m.2.take n ++ pad) false
    if l.level = 2 then s else { s with bridges := s.bridges.modify port fun b => { b with msgs := b.msgs.erase m } }
  | none =>
    let s := put s (List.replicate n 0) (l.level != 2)
    if l.level = 2 then s else s.alert 0xAB 1 (s.physEngine (3 * port)) 0
/-- BRIDGE_RECEIVE_INJECT: at T0 + k × IV (R131). -/
def execBridgeReceiveInject (s : State) : Res :=
  let id := s.arg.nat 0
  let port := s.arg.nat 1
  let entry := s.arg.nat 2
  let k := s.arg.nat 3
  .next (match s.launchOf id with
    | none => s
    | some l =>
      match (l.script (48 + port)).bind fun c => c.ents[entry]? with
      | none => s
      | some e =>
        if l.injects s.now && !e.send && s.now == l.tstart + e.cycle k && decide (k < e.n) then
          if l.mayHalt s.now ∧ s.arg.nat 4 = 0 then s.postEv s.now phLate rowBridgeInject [id, port, entry, k, 1]
          else
          let s := if k = 0 then s.receive l port entry e else s
          let s := if k + 1 < e.n then s.postEv (s.now + e.iv) phModule rowBridgeInject [id, port, entry, k + 1] else s
          match (s.bridges.getD port Bridge.idle).inject.find? fun q => q.1 == id && q.2.1 == entry with
          | some q => s.injectEdge (3 * port) e.link ⟨BitVec.ofNat 512 (leNat (slice q.2.2.1 (64 * k) 64)), q.2.2.2⟩
          | none => s
        else s)

end Sys2Proof.Machine
end

