-- ==== Sys2Proof/Machine/Launch.lean ====
section
/-! DEFINITION. A launch from its dispatch to its retirement: configuration, TSTART, the start state, the walker, drain points, retirement, and the ends of launches and runs (R89, R116, R132 to R153, R263). -/

namespace Sys2Proof.Machine

/-! The Ply tree's records (R59 to R62, R153, R391, R398). -/

/-- The group id of a level in DOM (R152). -/
def domGid (dom lvl : Nat) : Nat := bitsAt dom (10 * (lvl - 1)) 10
/-- The members that a launch of a record brings to a segment; tiles that run no iteration are excused (R391). -/
def Lnr.members (r : Lnr) (id : Nat) : List Member :=
  r.tiles.map fun p => { x := p.1, y := p.2, launch := id, exc := decide (r.total ≤ r.pos p.1 p.2), arrived := none, ended := false, strobes := [] }

/-- A node of the tree: rank (0 field, 1 group, 2 root) and place. -/
abbrev Node := Nat × Nat × Nat
/-- The nodes whose records a set of tiles needs (R62). -/
def State.nodesOf (s : State) (ps : List (Nat × Nat)) : List Node :=
  let fs := (ps.map fun p => (s.fieldX p.1, fieldY p.2)).eraseDups
  let gs := (fs.map fun f => (f.1 / 3, f.2 / 3)).eraseDups
  let f := fs.map fun f => (0, f.1, f.2)
  if fs.length ≤ 1 then f
  else if s.sku = 0 ∧ gs.length ≤ 1 then f ++ gs.map fun g => (1, g.1, g.2)
  else f ++ (gs.map fun g => (1, g.1, g.2)) ++ [(2, 0, 0)]
def State.segNodes (s : State) (g : Segment) : List Node := s.nodesOf (g.members.map fun m => (m.x, m.y))
/-- Merge into a segment, of level 2 or 3, every segment of its channel, id and context that has a record in a node where it needs one; a union may need further nodes (R153). -/
def State.mergeSegs (s : State) : Nat → Segment → List Segment → Segment × List Segment
  | 0, g, l => (g, l)
  | n + 1, g, l =>
    let near : Segment → Bool := fun o => o.lvl == g.lvl && o.gid == g.gid && o.opening == g.opening && (s.segNodes o).any (s.segNodes g).contains
    match l.find? near with
    | some o => State.mergeSegs s n { g with members := o.members ++ g.members } (l.erase o)
    | none => (g, l)
/-- Install a launch's segment of a level (R153): into its own if the tree still holds it; else a new one, merged with those it meets. Level 1 joins tiles of one launch only (R152; log 33, DEDUCED). -/
def State.installSeg (s : State) (r : Lnr) (id opening lvl : Nat) : State :=
  let gid := domGid r.dom lvl
  if gid = 0 then s
  else match s.segs.findIdx? fun g => g.lvl == lvl && g.gid == gid && g.opening == opening && g.members.any fun m => m.launch == id with
    | some i => { s with segs := s.segs.modify i fun g => { g with members := (g.members.filter fun m => m.launch != id) ++ r.members id } }
    | none =>
      let g : Segment := { lvl := lvl, gid := gid, opening := opening, members := r.members id }
      let m := if lvl = 1 then (g, s.segs) else s.mergeSegs s.segs.length g s.segs
      { s with segs := m.2 ++ [m.1] }
def State.installSegs (s : State) (r : Lnr) (id opening : Nat) : State := [1, 2, 3].foldl (fun s k => s.installSeg r id opening k) s
/-- A launch's bits leave the records at cycle u (R398). -/
def State.removeSegs (s : State) (l : Launch) (u : Nat) : State :=
  let late : Segment → Bool := fun g => g.members.any fun m => m.launch == l.id && !m.exc && m.arrived.isNone
  let was := s.segs.map late
  let s : State := { s with segs := s.segs.map fun g => { g with members := g.members.filter fun m => m.launch != l.id } }
  let s := was.zipIdx.foldl (fun s e => if e.1 ∧ ((s.segs[e.2]?.map fun g => !g.members.isEmpty).getD false) = true then s.tryRelease e.2 u else s) s
  { s with segs := s.segs.filter fun g => !g.members.isEmpty }
/-- A halt or a pre-emption clears a launch's arrivals and strobes (R66, R158, R259). -/
def State.clearSegs (s : State) (l : Launch) : State :=
  let clear : Member → Member := fun m => if m.launch = l.id then { m with arrived := none, ended := false, strobes := [] } else m
  { s with segs := s.segs.map fun g => { g with members := g.members.map clear } }
/-- The records as they will stand with those of every launch that is dispatched and of one more, numbered 0 (R141, R153; log 33, DEDUCED). -/
def State.withRecords (s : State) (r : Lnr) (opening : Nat) : State :=
  let s := (s.launches.filter fun l => l.phase == .staged || l.phase == .fixed).foldl (fun s l => s.installSegs l.lnr l.id l.opening) s
  s.installSegs r 0 opening
/-- The segment of launch 0 at a level, with the others of the level. -/
def State.ownSeg (s : State) (lvl : Nat) : Option (Segment × List Segment) :=
  (s.segs.find? fun g => g.lvl == lvl && g.members.any fun m => m.launch == 0).map fun g => (g, s.segs.filter fun o => o.lvl == lvl && o != g)
/-- Every node that the launch's records name has room for them: 16 records for each channel (R59, R141, R153). -/
def State.segRoom (s : State) (r : Lnr) (opening : Nat) : Bool :=
  let u := s.withRecords r opening
  [1, 2, 3].all fun k => match u.ownSeg k with
    | some (g, others) => (u.segNodes g).all fun n => decide ((others.filter fun o => (u.segNodes o).contains n).length < 16)
    | none => true
/-- A node holds a record of the same channel and id for another context: cause 0x86 (R153). -/
def State.segClash (s : State) (r : Lnr) (opening : Nat) : Bool :=
  let u := s.withRecords r opening
  [1, 2, 3].any fun k => match u.ownSeg k with
    | some (g, others) => others.any fun o => o.gid == g.gid && o.opening != g.opening && (u.segNodes o).any (u.segNodes g).contains
    | none => false

/-! The ends of launches, runs and contexts (R116, R120, R121, R157). -/

/-- A context that is closing has nothing left: it closes, its images, graphs and pins are released, and CLOSE_CONTEXT ends (R121). Its kept tags go with it, and subscriptions to it stay (log 22, DESIGN CHOICE). -/
def State.settleClose (s : State) (c : Nat) : State :=
  let k := s.ctx c
  let busy := (s.launches.any fun l => l.cmd.ctx == c) || (s.runs.any fun r => r.cmd.ctx == c) || (s.jobs.any fun j => j.cmd.ctx == c)
    || (s.loads.any fun j => j.cmd.ctx == c) || s.ending.any fun e => e.cmd.ctx == c
  if k.closing && !busy then
    let s := s.setCtx c Context.closed
    match k.closeCmd with
    | some cmd => s.final cmd stDone 0 0 0 [] {}
    | none => s
  else s
/-- A PREEMPT whose launches are all settled ends: DONE when a save was made, else NO_EFFECT (R120, R155, R159), also where the only saves have failed (R157; log 20, DESIGN CHOICE). -/
def State.settlePreempts (s : State) : State :=
  let done := s.preempts.filter fun p => p.left.isEmpty
  done.foldl (fun s p => s.endCmd p.cmd (if p.saved then stDone else stNoEffect) 0 0 (if p.saved then p.w1 else 0) [] {})
    { s with preempts := s.preempts.filter fun p => !p.left.isEmpty }
/-- A launch is no longer to be saved for a PREEMPT; one that ends after a halt has displaced its stop counts as not saved (R159; log 20, DESIGN CHOICE). -/
def State.preemptLost (s : State) (id : Nat) : State :=
  State.settlePreempts { s with preempts := s.preempts.map fun p => { p with left := p.left.filter (· != id) } }

/-- Undispatched nodes are dropped (R116, R118). -/
def Run.drop (r : Run) (f : Fate) : Run :=
  let gone : NodeState → NodeState := fun n => match n with | .waiting => .dropped | .saved _ => .dropped | o => o
  { r with fate := r.fate <|> some f, nodes := r.nodes.map gone }
/-- A run whose nodes have all ended ends (R116, R118): DONE when they have all ended DONE, also after a cancel or a close, and with its first failed node's status when one has failed before that (log 22, DESIGN CHOICE). -/
def State.settleRun (s : State) (id : Nat) : State :=
  match s.runs.find? fun r => r.id == id with
  | none => s
  | some r =>
    let drop : State := { s with runs := s.runs.filter fun q => q.id != id }
    if r.nodes.all (· == .done) then (drop.endCmd r.cmd stDone 0 (r.w0.getD 0) r.w1 [] {}).settleClose r.cmd.ctx
    else match r.fate with
      | some f =>
        if r.nodes.any (· == .running) then s
        else
          let w0 := if f.status ≤ 7 then r.w0.getD 0 else f.w0
          let w1 := if f.status ≤ 7 then max r.w1 f.w1 else f.w1
          (drop.endCmd r.cmd f.status f.cause w0 w1 [] f.r).settleClose r.cmd.ctx
      | none => s
def State.onRun (s : State) (id : Nat) (f : Run → Run) : State := { s with runs := s.runs.map fun r => if r.id = id then f r else r }
/-- Launches that a dropped node had saved go with it. -/
def State.dropSaved (s : State) (r : Run) : State :=
  let ids := r.nodes.filterMap fun n => match n with | .saved l => some l | _ => none
  { s with launches := s.launches.filter fun l => !ids.contains l.id }
/-- A node ends (R116). -/
def State.nodeEnds (s : State) (run node : Nat) (f : Fate) : State :=
  let s := if f.status = stDone then s else match s.runs.find? fun r => r.id == run with | some r => s.dropSaved r | none => s
  let put : Run → Run := fun r =>
    let r : Run := { r with w1 := max r.w1 f.w1, nodes := r.nodes.set node (if f.status = stDone then .done else .dropped) }
    if f.status = stDone then r else r.drop { f with r := { f.r with entry := node } }
  ((s.onRun run put).settleRun run).wake

/-- The load in progress is abandoned (R137, R144). -/
def Tile.dropBlocks (t : Tile) : Tile := { t with fill := none, loaded := 0, loadedB := 0 }
/-- The same, with the restore that goes with it (R158). -/
def Tile.dropLoad (t : Tile) : Tile := { t.dropBlocks with restd := 0, tbl := [] }
/-- The checkpoints of a launch leave a tile's banks. -/
def Tile.dropCkpts (t : Tile) (id : Nat) : Tile := { t with ckpts := t.ckpts.filter fun e => e.launch != id }
/-- What a launch holds in the tiles, the engines, the bridges and the Ply tree is released. The engines keep the intervals that they have yet to decide on, with their taints (R88). -/
def State.releaseLaunch (s : State) (l : Launch) : State :=
  let held := s.undecided l.id
  let eng : Engine → Engine := fun g =>
    { g with win := g.win.filter fun w => w.launch != l.id, taints := g.taints.filter fun t => held || t.1 != l.id }
  { s with
    gone := if held then s.gone ++ [l] else s.gone
    launches := s.launches.filter fun o => o.id != l.id
    tiles := s.tiles.map fun e => if (s.loadingAt (e.1 % 256) (e.1 / 256)).map (·.id) = some l.id then (e.1, e.2.dropLoad) else e
    up := s.up.filter fun u => !(u.pre && u.own == l.id)
    reads := s.reads.filter fun r => r.launch != l.id
    engines := s.engines.map eng
    bridges := s.bridges.map fun b => { b with landed := b.landed.filter fun q => q.1 != l.id, inject := b.inject.filter fun q => q.1 != l.id } }
/-- Commands still queued when the module leaves READY end REFUSED_STATE, and runs drop what they have not dispatched (R29); a run that no node has failed ends REFUSED_STATE (log 10, DESIGN CHOICE). -/
def State.refuseQueued (s : State) : State :=
  let all := (List.range 16).flatMap fun c => (s.ctx c).queues.flatMap id
  let ids := all.filterMap (·.resume)
  let s : State := { s with
    contexts := s.contexts.map fun k => { k with queues := k.queues.map fun _ => [] }
    launches := s.launches.filter fun l => !ids.contains l.id }
  let s := all.foldl (fun s c => (s.keepTag c stRefusedState).refuse c stRefusedState) s
  s.runs.foldl (fun s r => ((s.dropSaved r).onRun r.id fun r => r.drop ⟨stRefusedState, 0, 0, 0, {}⟩).settleRun r.id) s
/-- When nothing more may be dispatched and nothing runs, the module enters SERVICE_ONLY (R257). -/
def State.settleService (s : State) : State :=
  if s.noDispatch ∧ s.mode = .ready ∧ s.launches.all (·.phase == .saved) then
    let s : State := { s with mode := .serviceOnly }
    s.refuseQueued.moduleEvent 1
  else s
/-- A launch's command or its node gets its status. -/
def State.finish (s : State) (e : Ending) : State :=
  let f := e.fate
  match e.node with
  | none => s.endCmd e.cmd f.status f.cause f.w0 f.w1 [] f.r
  | some (run, node) => s.nodeEnds run node f
/-- What the end of a launch may bring about: its context closes, the dispatch unit looks again, the module leaves READY (R107, R121, R257). -/
def State.afterEnd (s : State) (ctx : Nat) : State := (s.settleClose ctx).wake.settleService
/-- A launch ends: what it holds is released, its segment bits, where it still has them, with the next cycle as floor (R398; log 20, DESIGN CHOICE), and its command or its node gets its status, once its service messages have gone out (R112). -/
def State.endLaunch (s : State) (l : Launch) (status cause w0 w1 : Nat) (r : FaultRec) : State :=
  let waits := s.messagesOf l.id
  let s := ((s.releaseLaunch l).removeSegs l (s.now + 1)).preemptLost l.id
  let s : State := { s with tiles := s.tiles.map fun e => if l.lnr.covers (e.1 % 256) (e.1 / 256) then (e.1, e.2.dropCkpts l.id) else e }
  let e : Ending := { launch := l.id, cmd := l.cmd, node := l.node, fate := ⟨status, cause, w0, w1, r⟩ }
  State.afterEnd (if waits then { s with ending := s.ending ++ [e] } else s.finish e) l.cmd.ctx

/-! TSTART (R142, R143, R399). -/

/-- Every term of the formula is known, and no halt is in progress (R143, R256). -/
def State.fixable (s : State) (l : Launch) : Bool :=
  (l.phase == .staged) && !s.halted && l.lf.isSome && (s.regionFree l).isSome && l.scripts.all fun c => c.ready.isSome
/-- A script's term of ts: from the least offset of a read flit to be injected (R143, R399). -/
def Script.term (c : Script) (o : Nat) : Nat :=
  let p := c.ready.getD 0
  let offs := c.reads.flatMap fun e => ((List.range e.n).map e.cycle).filter fun k => decide (o ≤ k)
  match offs with
  | [] => p
  | a :: r => p + c.lead - (r.foldl min a - o)
/-- The cycle that the formula gives (R143, R399). -/
def State.formulaCycle (s : State) (l : Launch) : Nat :=
  let tc := max l.d (max ((s.regionFree l).getD 0) (l.lf.getD 0)) + 640
  l.scripts.foldl (fun acc c => max acc (c.term (l.resume.getD 0))) tc
/-- The start without START_AT: a cycle that has passed when every term is known is taken as 640 cycles from now (log 33, DESIGN CHOICE). -/
def State.startCycle (s : State) (l : Launch) : Nat :=
  let t := s.formulaCycle l
  if t < s.now then s.now + 640 else t
/-- The fixing of every launch that can be fixed is due. -/
def State.fixAll (s : State) : State :=
  s.launches.foldl (fun s l => if s.fixable l then s.nowEv rowTstartFix [l.id] else s) s
/-- TSTART_FIX (R130, R143, R258, R399). A launch that comes too late for its START_AT ends here, once every term is known, and not at START_AT (log 33, DESIGN CHOICE). -/
def execTstartFix (s : State) : Res :=
  .next (match s.launchOf (s.arg.nat 0) with
    | none => s
    | some l =>
      if !s.fixable l then s
      else
        let t := s.startCycle l
        match l.resume with
        | some o =>
          let l : Launch := { l with tstart := t - o, runStart := t, phase := .fixed, stop := none, behind := none, discardFrom := none }
          (((s.setLaunch l).postFetches l).postEv t phModule (if o = 0 then rowLaunchStart else rowResumeStart) [l.id]).postEv t phDispatch rowDispatch []
        | none =>
          if l.startAt ≠ 0 ∧ (l.startAt < s.formulaCycle l ∨ l.startAt < s.now) then s.endLaunch l stLateStart 0 0 0 {}
          else
            let t := if l.startAt = 0 then t else l.startAt
            let l : Launch := { l with tstart := t, runStart := t, phase := .fixed }
            (((s.setLaunch l).postFetches l).postEv t phModule rowLaunchStart [l.id]).postEv t phDispatch rowDispatch [])

/-! Scripts and configuration (R89, R137, R138, R146). -/

/-- The engine or port number of a unit, as its script's header gives it. -/
def unitNumber (u : Nat) : Nat := if u < 48 then u else if u < 304 then u - 48 else u - 304
/-- A unit stands for a bridge port's number. -/
def bridgeUnit (u : Nat) : Bool := decide (48 ≤ u) && decide (u < 304)
/-- SCRIPT_LOAD_AND_PIN: the unit has loaded, pinned and checked its script, or refuses the launch (R89); for a resume it is ready to refetch with its pins kept (R399). Bytes of the image that no longer translate read as zero for the checks; a script that is no longer found so is refused with 0x24 and ENTRY 0xFFFFFFFF, as an invalid table is (log 35, DESIGN CHOICE). -/
def execScriptLoadAndPin (s : State) : Res :=
  let unit := s.arg.nat 1
  .next (match s.launchOf (s.arg.nat 0) with
    | none => s
    | some l =>
      match l.script unit with
      | none => s
      | some c =>
        if l.phase ≠ .staged ∨ c.ready.isSome = true then s
        else
          let put : Script → State := fun c' =>
            let s := s.setLaunch { l with scripts := l.scripts.map fun o => if o.unit = unit then c' else o }
            s.fixAll
          if l.resume.isSome then put { c with ready := some s.now }
          else
            let img := s.launchImage l
            let all := imgScripts img.1 img.2 l.lnrIdx
            match all.find? fun e => e.2.2.unit == unit with
            | none =>
              let first := if (s.table l.cmd.ctx).isNone then ((c.flits.head?).map (·.1)).getD noEntry else noEntry
              s.endLaunch l stFaulted 0x24 s.now 0 { engine := unitNumber unit, entry := first }
            | some e =>
              let fail := if bridgeUnit unit then s.bridgeFail img.1 e.1 e.2.1 e.2.2 ((all.find? fun g => g.2.2.unit == unitEngine unit).map (·.2.2))
                else s.stagingFail l.cmd.ctx l.lnr img.1 e.1 e.2.1 e.2.2
              match fail with
              | some f => s.endLaunch l stFaulted f.1 s.now 0 { engine := unitNumber unit, entry := f.2 }
              | none => put { e.2.2 with pins := s.pinsOf l.cmd.ctx e.2.2, ready := some s.now })

/-- The tile last ran another context's launch, or none (R146). -/
def Tile.foreign (t : Tile) (opening : Nat) : Bool := t.lastCtx != some opening
/-- Clear a tile for a launch (R146): pool but for the code half in use, operand memory, and the tag of the plane not in use. -/
def Tile.clearFor (t : Tile) (r : Resident) : Tile :=
  let inSecond := if r == .active then t.second else !t.second
  let cfg := if inSecond then t.cfg1 else t.cfg0
  let half := (planeTile cfg).lay.cb / 2
  let from_ := if inSecond then half else 0
  { t with
    pool := Mem.write [] from_ (t.pool.bytes from_ half), opm := [], upsets := t.upsets.filter fun u => decide (from_ ≤ u) && decide (u < from_ + half)
    cfg0 := if inSecond then t.cfg0.clear offTag 16 else t.cfg0
    cfg1 := if inSecond then t.cfg1 else t.cfg1.clear offTag 16 }
/-- What the engines of a tile still had to do for the launch before is not done any more; what is on its way over the fabric still lands (R145, R146; log 33, DESIGN CHOICE). -/
def Tile.quench (t : Tile) (now : Nat) : Tile :=
  { t.flushV now with
    acts := t.acts.filter fun a => match a.k with | .event _ | .land _ _ => true | _ => false
    vp := [], copies := List.replicate 4 none, chains := [], msq := none }
/-- Everything that a launch writes into a tile, in place (R137, R138, R145, R146). A replay goes on with what its tiles were doing. -/
def State.loadTile (s : State) (l : Launch) (img : Mem × List Sec) (x y : Nat) : State :=
  let rx := x - l.lnr.x0
  let ry := y - l.lnr.y0
  let half := l.halfOf img rx ry
  let blocks := s.tileBlocks l img x y
  s.onTile x y fun t =>
    let t := if l.replays then t else t.quench s.now
    let absent := t.resident l.lnr.img l.lnr.cset rx ry == .absent
    let t := if absent then (blocks.filter fun b => decide (b.item < 2)).foldl (fun t b => t.putBlock half b) t.clearTag else t
    let t := if absent then t.putTag (tagBytes l.lnr.img l.lnr.cset rx ry) else t
    let t := if t.foreign l.opening then t.clearFor (t.resident l.lnr.img l.lnr.cset rx ry) else t
    let t := (blocks.filter fun b => decide (2 ≤ b.item)).foldl (fun t b => t.putBlock half b) t
    { t with fill := none, loaded := 0, loadedB := 0 }
/-- The frames that a load takes in a field, for the blocks that a test picks, with payloads of another transfer in the own slots: 512 broadcast bytes and one own payload to a frame (R138). -/
def loadFrames (all : List (List Block)) (own : Nat) (pick : Block → Bool) : Nat :=
  let shared := (sharedBlocks all).countP pick
  max ((32 * shared + 511) / 512) (all.foldl (fun acc bs => max acc ((ownBlocks all bs).countP pick)) 0 + own)
/-- The first cycle at which a load can be complete: at once when every tile is resident, free at the dispatch and keeps its memory (R143); else after its slots, those of a restore among them, the items that wait for the region from Rf on (R138, R139, R157, R158); and after its clearing (R146). -/
def State.loadEarliest (s : State) (l : Launch) (img : Mem × List Sec) : Nat :=
  let ps := l.lnr.tiles
  let here : Nat × Nat → Tile → Resident := fun p t => t.resident l.lnr.img l.lnr.cset (p.1 - l.lnr.x0) (p.2 - l.lnr.y0)
  let absent := ps.any fun p => let t := s.tile p.1 p.2; t.fill == some l.id || here p t == .absent
  let clear := ps.any fun p => (s.tile p.1 p.2).foreign l.opening
  let free := max l.d ((s.regionFree l).getD 0)
  let fields := (ps.map fun p => (p.1 / 16, p.2 / 16)).eraseDups
  let sameSize := ps.all fun p => (s.tile p.1 p.2).lay.cb / 2 == l.halfOf img (p.1 - l.lnr.x0) (p.2 - l.lnr.y0)
  let late : Block → Bool := fun b => decide (2 ≤ b.item) || (b.item == 1 && !sameSize)
  let frames : Nat → (Block → Bool) → Nat := fun own pick => fields.foldl (fun acc f => max acc (loadFrames (s.fieldBlocks l img f.1 f.2) own pick)) 0
  let slots := if !absent && !l.restores && decide (free ≤ l.d) then l.d
    else max (l.d + 288 * frames (if l.restores then savePayloads else 0) fun _ => true) (free + 288 * frames 0 late)
  max slots (if clear then free + 17408 else 0)
/-- The rest of a save area comes in (R158); with the payload that cannot be read, its cause and its address. -/
def State.restoreRest (s : State) (x y : Nat) (l : Launch) (off : Nat) : Nat → State × Option (Nat × Nat)
  | 0 => (s, none)
  | n + 1 =>
    let k := (s.tile x y).restd
    if savePayloads ≤ k then (s, none)
    else match s.restorePayload x y l off with
      | some u => State.restoreRest u x y l off n
      | none => (s, some ((s.svcAccess l.cmd.ctx (l.saveVa x y k) false).1, l.saveVa x y k))
/-- CONFIG_LOAD_COMPLETE: the region holds its configuration, code, data and parameters, and for a pre-empted launch its save areas, the tables of which go into the planes now (log 19): Lf (R138, R146, R158). A payload of a save area that can no longer be read ends the launch FAULTED, with 0x21 or 0x22, the cycle of the failure, and p (log 33, DESIGN CHOICE). -/
def execConfigLoadComplete (s : State) : Res :=
  .next (match s.launchOf (s.arg.nat 0) with
    | none => s
    | some l =>
      let img := s.launchImage l
      if l.phase ≠ .staged ∨ l.lf.isSome = true ∨ !s.regionFreeNow l ∨ s.now < s.loadEarliest l img then s
      else
        let ps := l.lnr.tiles
        let s := ps.foldl (fun s p => s.loadTile l img p.1 p.2) s
        let r := if l.restores then
            ps.foldl (fun (acc : State × Option (Nat × Nat × Nat × Nat)) p => match acc.2 with
              | some _ => acc
              | none =>
                let q := acc.1.restoreRest p.1 p.2 l (l.resume.getD 0) savePayloads
                (q.1, q.2.map fun e => (p.1, p.2, e.1, e.2))) (s, none)
          else (s, none)
        match r.2 with
        | some (x, y, k, va) => r.1.endLaunch l stFaulted (if k = 1 then 0x21 else 0x22) s.now ((l.stop.bind (·.b)).getD 0) { x := x, y := y, xva := va }
        | none =>
          let s' := if l.restores then r.1.onRegion l fun x y t => t.takeTable l x y else r.1
          ((s'.onLaunch l.id fun l => { l with lf := some s.now }).postSwaps ps).fixAll)

/-- What a dispatch brings about at once: the swaps that are due (R140), and the end of a load that adds nothing to TSTART: the region is free, resident and keeps its memory, and no save area is restored (R143). -/
def State.loadNow (s : State) (id : Nat) : State :=
  match s.launchOf id with
  | none => s
  | some l =>
    let s := s.postSwaps l.lnr.tiles
    if !l.restores && s.regionFreeNow l && decide (s.loadEarliest l (s.launchImage l) ≤ s.now) then s.nowEv rowConfigLoadComplete [id] else s

/-! The start state (R145 to R148). -/

/-- The working rules of the active plane (R383). -/
def Tile.freshRules (t : Tile) : List RuleCopy :=
  (List.range 16).map fun i => ⟨bitsAt (t.ruleWord i) 61 2, bitAt (t.ruleWord i) 60, none⟩
/-- What a start and a resume have in common: nothing in flight but a message of the launch before, engines idle, slots released, latches clear (R145, R259, R355, R383, R387). -/
def Tile.quiet (t : Tile) (id : Nat) : Tile :=
  { t with
    launch := some id, seq := { Seq.idle with mode := .between }, vp := [], fp := [], shrink := none, allot := t.lay.vreg
    wrt := [], rules := t.freshRules, claims := List.replicate 8 [], acts := [], copies := List.replicate 4 none, chains := [], msq := none
    mxFree := 0, vxFree := 0, mxSlots := [], mxReadTo := 0, tags := [], scl := [], sclGen := t.sclGen + 1
    clsAny := List.replicate 16 0, clsWr := List.replicate 16 0, pendc := [], mult := false, svc := t.svc.filter fun v => v.kind == 2
    arr := List.replicate 3 false, latch := List.replicate 3 false, frz := none, landing := none, localIn := []
    draining := false, finalEnd := false, drainedAt := none, stopAt := none, stopSlot := none, freeAt := none, saved := 0 }
/-- What the tile's log and its next start take from the launch that holds it at position p (R148, R262). -/
def Tile.holds (t : Tile) (l : Launch) (p : Nat) (next : Option Nat) : Tile :=
  { t with base := l.tstart, rx := p % l.lnr.w, ry := p / l.lnr.w, startG := next.map l.startOf }
/-- The state at TSTART of a tile at position p (R145, R362): the vector results of the launch before are in the pool; a tile without iterations has ENDed. -/
def Tile.startState (t : Tile) (l : Launch) (p now : Nat) : Tile :=
  let t := (t.flushV now).quiet l.id
  let lay := t.lay
  let idle := decide (l.lnr.total ≤ p)
  let t := t.holds l p (if idle then none else some p)
  let seq : Seq := { t.seq with mode := if idle then .done else .between }
  { t with
    seq := seq
    pool := (t.pool.clear lay.pb (2 * lay.pl)).clear lay.ab (4608 * lay.acc)
    sel := [], mst := 0, cycLatch := none, lastCtx := some l.opening, ckpts := t.ckpts.filter fun e => e.launch != l.id
    iter := if idle then none else some p, iterLeft := (l.lnr.total - 1 - p) / l.lnr.area
    arr := List.replicate 3 idle, finalEnd := idle, drainedAt := if idle then some now else none
    upsets := t.upsets.filter fun a => !(decide (lay.pb ≤ a) && decide (a < lay.vb)) }.startRouter now l.lnr
/-- The logs are cleared at a first TSTART (R263). -/
def Tile.clearLog (t : Tile) : Tile := { t with log := [], logCount := 0, logLost := 0, openTraps := [none, none], returned := [] }

/-! Stops that are placed (R70, R119, R155). -/

/-- The first replay boundary at or after a cycle; none with B = 0 (R87). -/
def Launch.firstBoundary (l : Launch) (c : Nat) : Option Nat :=
  let b := l.lnr.rbsp
  if b = 0 then none else some (l.tstart + max 1 ((c - l.tstart + b - 1) / b) * b)
/-- The first stop cycle at or after a cycle: a boundary or a declared point (R154). -/
def Launch.firstStop (l : Launch) (c : Nat) : Option Nat :=
  let k := l.lnr.pper
  let p := if k = 0 then none else some (l.tstart + max 1 ((c - l.tstart + k - 1) / k) * k)
  match l.firstBoundary c, p with
  | some a, some b => some (min a b)
  | some a, none => some a
  | none, o => o
/-- Enter the first stop cycle of a run after cycle c: a boundary, or a declared point (R87, R154). -/
def State.postBoundary (s : State) (l : Launch) (c : Nat) : State :=
  match l.firstStop (c + 1) with | some b => s.postEv b phStop rowCheckpoint [l.id] | none => s
/-- A stop is pending; its event falls due at its cycle. -/
def State.setStop (s : State) (l : Launch) (st : Stop) : State :=
  let s := s.setLaunch { l with stop := some st }
  match st.b with
  | some b => s.postEv b phStop rowLaunchStop [l.id]
  | none => s
/-- The deviation entry of a replay that starts on this cycle (R258, R395). -/
def Launch.logReplay (l : Launch) (rs : Nat) : Launch :=
  match l.stopped with
  | some st => { (if st.cause = 0 then l else l.addLog (l.tstart + st.off) st.cause 5 (rs - st.b)) with stopped := none }
  | none => l
/-- A PREEMPT that a halt displaced chooses its stop again, from the resume + 48 (R159). -/
def State.preemptAgain (s : State) (id : Nat) : State :=
  match s.launchOf id with
  | none => s
  | some l =>
    if !l.preemptAgain ∨ l.stop.isSome then s
    else
      let l : Launch := { l with preemptAgain := false }
      match l.firstStop (s.now + 48) with
      | some p => s.setStop l ⟨s.now + 48, some p, .preempt⟩
      | none => (s.setLaunch l).preemptLost id

/-- LAUNCH_START: at TSTART every tile takes its start state, the routers start, and the records are installed (R39, R145, R153); a replay from TSTART is a new start (R259). A tile whose own counter is adrift has its entry 0 in force from this cycle too, while its iterations start by its counter (log 11, DESIGN CHOICE). -/
def execLaunchStart (s : State) : Res :=
  .next (match s.launchOf (s.arg.nat 0) with
    | none => s
    | some l =>
      if l.phase ≠ .fixed ∨ s.now ≠ l.tstart ∨ l.offset ≠ 0 then s
      else
        let first := l.tstart0.isNone
        let l : Launch := { l.logReplay s.now with phase := .running, tstart0 := l.tstart0 <|> some s.now, resume := none, resumedFrom := 0, ckpt := 0 }
        let s := s.setLaunch l
        let s := match l.node with | some (run, _) => s.onRun run fun r => { r with w0 := r.w0 <|> some s.now } | none => s
        let s := l.lnr.tiles.foldl (fun s p => s.onTile p.1 p.2 fun t =>
          let t := t.startState l (l.lnr.pos p.1 p.2) s.now
          if first then t.clearLog else t) s
        let s := s.installSegs l.lnr l.id l.opening
        let s := l.lnr.tiles.foldl (fun s p =>
          let s := s.postSwitch p.1 p.2
          let t := s.tile p.1 p.2
          match t.iter with
          | some n => s.postEv (max s.now (t.cycleOf (l.startOf n))) phStart rowIterationStart [p.1, p.2]
          | none => s.memberEnds p.1 p.2) s
        ((s.postScripts l 0).postBoundary l s.now).preemptAgain l.id)

/-! The walker (R147, R148, R150). -/

/-- The indices of iteration n by dimension (R147). -/
def Lnr.indices (r : Lnr) (n : Nat) : List Nat :=
  ([3, 2, 1, 0].foldl (fun (acc : List Nat × Nat) pos =>
    let d := bitsAt r.order (2 * pos) 2
    let c := r.cnt.getD d 1
    (acc.1.set d (acc.2 % c), acc.2 / c)) ([0, 0, 0, 0], n)).1
/-- A register file with given values and nothing in flight. -/
def RegFile.of {w : Nat} (l : List Nat) : RegFile w := { base := l.map (BitVec.ofNat w), pend := [] }
/-- RBNEXT at a first iteration (R148). -/
def rbnextOf (tstart b : Nat) : Nat := if b = 0 then 2 ^ 64 - 1 else (tstart + b) % 2 ^ 64
/-- The special registers at a first iteration (R148). -/
def State.firstSpecials (s : State) (l : Launch) (t : Tile) (x y : Nat) : List Nat :=
  let ph := s.phys x y
  (List.range 64).map fun n =>
    if n = spTSTART then l.tstart
    else if n = spTILEXY then x + y * 2 ^ 8 + (x - l.lnr.x0) * 2 ^ 16 + (y - l.lnr.y0) * 2 ^ 24
    else if n = spPHYXY then ph.1 + ph.2 * 2 ^ 8
    else if n = spDOM then l.lnr.dom
    else if n = spPART then t.partWord
    else if n = spRBNEXT then rbnextOf l.tstart l.lnr.rbsp
    else 0
/-- Iteration n starts on cycle c (R148). -/
def Tile.startIter (t : Tile) (r : Lnr) (n c : Nat) : Tile :=
  let ix := r.indices n
  let t := (List.range 4).foldl (fun t d =>
    let k := bitsAt r.preload (4 * d) 4
    if k = 0 then t else { t with s := t.s.poke k c (BitVec.ofNat 32 (ix.getD d 0)) }) t
  let t := ((t.pokeSp spSRSEED c r.seed).pokeSp spSRCTR c (n * 65536 % 2 ^ 32)).pokeSp spTLVL c 0
  { t with
    seq := { Seq.idle with mode := .run, pc := r.entry, due := some c, order := t.seq.order }
    openTraps := [none, none], returned := [], logLost := t.logLost + t.lostTraps, startG := none, draining := false }
/-- The tile freezes on overrun at its next start (R150, R389). -/
def Tile.overrun (t : Tile) (c n : Nat) : Tile :=
  let pc := if t.seq.mode == .run || t.seq.mode == .debug then t.seq.pc else noPc
  (t.frozenAs c { cause := 0x49, pre := false, raise := c, xva := n, sub := 0, src := 7, dtgt := none, xpc := pc, dfr := false }).freeze c pc 0x49
/-- ITERATION_START, at start(n) of the tile's counter: the iteration starts, or the tile freezes because the previous drain point has not come (R148, R150). -/
def execIterationStart (s : State) : Res :=
  let x := s.arg.nat 0
  let y := s.arg.nat 1
  let t := s.tile x y
  .next (match s.runningAt x y, t.iter with
    | some l, some n =>
      let g := t.gcy s.now
      if t.seq.mode = .between ∧ !t.draining ∧ g = l.startOf n then
        let first := n < l.lnr.area
        let t : Tile := if first then
            { t with s := RegFile.zero 32 32, p := RegFile.zero 1 8, m := RegFile.zero 1024 8, q := RegFile.zero 32 4
                     sp := RegFile.of (s.firstSpecials l t x y), fp := [] }
          else t
        let s := s.setTile x y (t.startIter l.lnr n s.now)
        if n + l.lnr.area < l.lnr.total then s.postEv (t.cycleOf (l.startOf (n + l.lnr.area))) phStart rowIterationStart [x, y] else s
      else if (t.seq.mode = .run ∨ t.seq.mode = .debug ∨ t.draining) ∧ n + l.lnr.area < l.lnr.total ∧ g = l.startOf (n + l.lnr.area) then
        (s.setTile x y (t.overrun s.now (n + l.lnr.area)))
      else s
    | _, _ => s)

/-! Drain points and retirement (R149, R151, R263, R320). -/

/-- The tile drains: what is pending is logged and discarded, and it waits for its next start or is done (R320). -/
def Tile.drained (t : Tile) (c : Nat) (l : Launch) : Tile :=
  let t := t.pendc.foldl (fun t e => t.addLog c noPc e.cause 6 0) t
  { t with
    pendc := [], draining := false
    seq := { t.seq with mode := if t.finalEnd then .done else .between }
    drainedAt := if t.finalEnd then some c else none
    iter := if t.finalEnd then none else t.iter.map (· + l.lnr.area), iterLeft := t.iterLeft - 1
    startG := if t.finalEnd then none else t.iter.map fun n => l.startOf (n + l.lnr.area) }
/-- The first cycle at which a tile is drained, as it is known at c (R149). -/
def Tile.idleAt (t : Tile) (c : Nat) : Nat :=
  let cp := t.copies.foldl (fun acc j => match j with | some j => max acc j.completion | none => acc) c
  t.localIn.foldl max (t.chains.foldl (fun acc e => max acc e.1) (max cp t.mxFree))
/-- DRAIN_POINT (R149); the last one of a launch is its final boundary (R151). -/
def execDrainPoint (s : State) : Res :=
  let x := s.arg.nat 0
  let y := s.arg.nat 1
  let t := s.tile x y
  .next (match s.runningAt x y with
    | none => s
    | some l =>
      if !(t.draining && t.seq.mode == .between) then s
      else if s.now < t.idleAt s.now then s.postEv (t.idleAt s.now) phEnd rowDrainPoint [x, y]
      else
        let s := s.setTile x y (t.drained s.now l)
        if l.lnr.tiles.all fun p => (s.tile p.1 p.2).drainedAt.isSome then s.nowEv rowLaunchRetire [l.id] else s)

/-- Entries in the order of a summary: cycle, y − Y0, x − X0 (R263). -/
def DevEntry.before (a b : DevEntry) : Bool :=
  decide (a.cyc < b.cyc) || (a.cyc == b.cyc && (decide (a.ry < b.ry) || (a.ry == b.ry && decide (a.rx < b.rx))))
def insertEntry (e : DevEntry) : List DevEntry → List DevEntry
  | [] => [e]
  | h :: r => if e.before h then e :: h :: r else h :: insertEntry e r
def DevEntry.bytes (e : DevEntry) : List Byte :=
  leBytes 4 e.pc ++ leBytes 1 e.cause ++ leBytes 1 e.kind ++ leBytes 1 e.rx ++ leBytes 1 e.ry ++ leBytes 4 e.lost ++ leBytes 4 e.cyc
/-- The DEVIATION_SUMMARY of a launch that retires at f; none when nothing was counted (R263). -/
def State.summary (s : State) (l : Launch) (f : Nat) : State :=
  let ts := l.lnr.tiles.map fun p => s.tile p.1 p.2
  let count := l.logCount + (ts.map (·.logCount)).sum
  let lost := l.logLost + (ts.map fun t => t.logLost + t.lostTraps).sum
  if count = 0 then s
  else
    let entries := (ts.flatMap (·.log) ++ l.log).foldl (fun acc e => insertEntry e acc) []
    s.notify 0x84 l.cmd.ctx l.cmd.queue 0 0 l.cmd.tag (l.tstart0.getD 0) f
      (leBytes 4 count ++ leBytes 4 (sat32u lost) ++ (entries.take 64).flatMap DevEntry.bytes) (some (s.ctx l.cmd.ctx).owner)

/-- A launch leaves its tiles at its last cycle b: the routers end after it, and the region is free at a cycle (R39, R142). A message that is still leaving a tile goes on (R387). -/
def State.leaveTiles (s : State) (l : Launch) (b free : Nat) : State :=
  l.lnr.tiles.foldl (fun s p =>
    let s := s.onTile p.1 p.2 fun t =>
      { t with seq := Seq.idle, launch := none, pendc := [], startG := none, freeAt := some free
               router := { t.router with upto := min t.router.upto b } }
    s.postEv (max (b + 1) (s.now + 1)) phModule rowPlaneSwap [p.1, p.2]) s
/-- A launch retires at f (R151, R153): logs, records, region, and the decision on its last interval. -/
def State.retire (s : State) (l : Launch) (f : Nat) : State :=
  let s := (s.summary l f).leaveTiles l f (f + 17)
  let s := s.setLaunch { l with phase := .retired, retire := some f, stop := none }
  ((s.postEv (f + 1) phModule rowLaunchRetire [l.id]).preemptLost l.id).postEv (f + 16) phEnd rowCommitDecision [l.id, f]
    |>.fixAll |>.wake

end Sys2Proof.Machine
end

