-- ==== Sys2Proof/Machine/Sync.lean ====
section
/-! DEFINITION. The counters and their alignment, the Ply tree's releases, the ends of waits, imprecise traps, and upsets (R49 to R53, R63 to R66, R244, R261, R315 to R321, R394). -/

namespace Sys2Proof.Machine

/-! Waits (R52, R315, R321). -/

/-- The word that follows a wait issues on this cycle, once the counter has reached its target (R315). -/
def Tile.releaseWait (t : Tile) (c : Nat) : Tile :=
  match t.seq.hold with
  | .waitc _ r => if r ≤ t.gcy c then { t with seq := { t.seq with hold := .none, due := some c } } else t
  | _ => t
/-- WAITC_RELEASE (R315). -/
def execWaitcRelease (s : State) : Res := .next (s.onTile (s.arg.nat 0) (s.arg.nat 1) fun t => t.releaseWait s.now)
/-- ALIGN_RESUME (R52): after the comparison, an ALIGN waits as a WAITC for a + 16 of the corrected counter. -/
def execAlignResume (s : State) : Res := .next (s.onTile (s.arg.nat 0) (s.arg.nat 1) fun t => t.releaseWait s.now)

/-- The neighbour of a tile in direction d, when it is present (R49): every logical neighbour is bound. -/
def State.present (s : State) (x y d : Nat) : Option (Nat × Nat) := s.neighbour x y d
/-- The deltas of samples of the common exchange that are still on their way follow a change of the receiver's counter. -/
def State.lateDeltas (s : State) (x y : Nat) (by_ : Int) (e : AlignX) : AlignX :=
  if !e.common then e
  else { e with deltas := e.deltas.zipIdx.map fun v => match v.1, s.present x y v.2 with
    | some k, some n => some (if s.now ≤ e.at_ + sampleLat x y n.1 n.2 then k + by_ else k)
    | v, _ => v }
/-- The counter of a tile changes by `by_`: its waits and its next iteration move with it (R52, R315). -/
def State.correct (s : State) (x y : Nat) (by_ : Int) : State :=
  let t := s.tile x y
  let t : Tile := { t with gofs := Int.bmod (t.gofs + by_) (2 ^ 64), align := t.align.map (s.lateDeltas x y by_) }
  let s := s.setTile x y t
  let s := match t.seq.hold with
    | .waitc _ r => s.postEv (max s.now (t.cycleOf r)) phRelease rowWaitcRelease [x, y]
    | _ => s
  match t.launch.bind s.launchOf, t.iter with
  | some l, some n =>
    if t.seq.mode = .between ∧ l.phase = .running then s.postEv (max s.now (t.cycleOf (l.startOf n))) phStart rowIterationStart [x, y] else s
  | _, _ => s

/-- COUNTER_DRIFT: a tile's counter departs on its own (R50); it and its neighbours no longer take part in the common exchange, and each makes its exchanges at its own points from now on (R49; log 11, DEDUCED). -/
def execCounterDrift (s : State) : Res :=
  let x := s.arg.nat 0
  let y := s.arg.nat 1
  let d : Int := if s.arg.nat 2 = 1 then -((s.arg.nat 3 : Nat) : Int) else ((s.arg.nat 3 : Nat) : Int)
  let s := s.correct x y d
  .next (if s.inGrid x y then s.postPoints x y else s)

/-! The alignment exchange (R49 to R53). -/

/-- Tiles whose counter does not read the reference. -/
def State.adrift (s : State) : List (Nat × Nat) := (s.tiles.filter fun e => e.2.gofs != 0).map fun e => (e.1 % 256, e.1 / 256)
/-- Neither a tile nor a neighbour of it is adrift. -/
def level (ad : List (Nat × Nat)) (x y : Nat) : Bool := ad.all fun p => decide (1 < apart x p.1 + apart y p.2)
/-- Tiles are listed for every key, in ascending order of keys. -/
def fillTiles : List Nat → List (Nat × Tile) → List (Nat × Tile)
  | [], l => l
  | k :: ks, l =>
    let lo := l.takeWhile fun e => decide (e.1 < k)
    lo ++ (match l.drop lo.length with
      | (i, t) :: r => if i = k then (i, t) :: fillTiles ks r else (k, Tile.powerUp) :: fillTiles ks ((i, t) :: r)
      | [] => (k, Tile.powerUp) :: fillTiles ks [])
/-- The keys of the logical grid in ascending order. -/
def State.gridKeys (s : State) : List Nat := (List.range 192).flatMap fun y => (List.range s.gridW).map fun x => tileKey x y
/-- The change of n that an alignment point has taken up takes effect, after its exchange, on the cycle a + 12 with which that is complete (R31, R49, R53; log 31, DEDUCED). -/
def State.changeClock (s : State) : State :=
  match s.nDue with
  | some n => ({ s with n := n, nAt := s.now, nDue := none }).moduleEvent 2
  | none => s
/-- The change of n that an alignment point takes up: one asked for before it (R31). -/
def State.takeClock (s : State) : State :=
  match s.nNext with
  | some (n, from_) => if from_ ≤ s.now then { s with nNext := none, nDue := some n } else s
  | none => s
/-- A tile takes part in the common exchange: it stands in the grid, neither it nor a neighbour is adrift, and it has not begun an exchange with the cycle. -/
def State.inCommon (s : State) (ad : List (Nat × Nat)) (x y : Nat) (t : Tile) : Bool :=
  s.inGrid x y && level ad x y && (t.align.all fun e => e.at_ != s.now)
/-- A tile that takes part begins its exchange: every present neighbour's delta is zero. -/
def State.commonPoint (s : State) (ad : List (Nat × Nat)) (k : Nat) (t : Tile) : Tile :=
  if s.inCommon ad (k % 256) (k / 256) t then
    { t with
      align := some { a := s.now, at_ := s.now, deltas := (List.range 4).map fun d => (s.present (k % 256) (k / 256) d).map fun _ => 0, common := true }
      earlyDeltas := [] }
  else t
/-- The sample a + Lw of a tile sets out to its neighbour in direction d, where one is present (R49). A crossing's sample passes through the link's stitch trim (R21). -/
def State.sendSample (s : State) (x y d a : Nat) : State :=
  match s.present x y d with
  | some n =>
    let lw := sampleLat x y n.1 n.2
    s.postEv (s.now + s.retimed x y n.1 n.2 lw) phModule rowAlignSample [n.1, n.2, opposite d, (a + lw) % 2 ^ 64]
  | none => s
/-- The neighbours of the tiles that are adrift make exchanges of their own: the tiles of the common exchange beside them, each with the direction of such a neighbour. -/
def State.edgeSenders (s : State) (ad : List (Nat × Nat)) : List ((Nat × Nat) × Nat) :=
  let own := (ad.flatMap fun p => (List.range 4).filterMap fun d => s.present p.1 p.2 d).eraseDups
  own.flatMap fun n => (List.range 4).filterMap fun d => (s.present n.1 n.2 d).bind fun q =>
    if s.inCommon ad q.1 q.2 (s.tile q.1 q.2) then some (q, opposite d) else none
/-- An alignment point of the reference count: the exchange of every tile whose counter reads it, as its neighbours' do; their samples go out to the tiles beside them that make exchanges of their own (R49). A change of n that is due is taken up (R31). -/
def State.commonExchange (s : State) : State :=
  let s := s.takeClock
  let ad := s.adrift
  let t := (s.edgeSenders ad).foldl (fun u e => u.sendSample e.1.1 e.1.2 e.2 s.now) s
  let t : State := { t with tiles := (fillTiles s.gridKeys s.tiles).map fun e => (e.1, s.commonPoint ad e.1 e.2) }
  (t.postEv (s.now + 12) phModule rowAlignCompare []).postPoint (s.now + 65536)

/-- What a tile holds of a neighbour's delta at its own point a: that of a sample which has come in before it, or, where it passes the point again, of the exchange that it began there (R49; log 11, DEDUCED). -/
def Tile.heldDelta (t : Tile) (a d : Nat) : Option Int :=
  match t.earlyDeltas.find? fun e => e.side == d && e.a == a with
  | some e => some e.delta
  | none => t.align.bind fun e => if e.a = a then e.deltas.getD d none else none
/-- A tile begins an exchange of its own at its point a. -/
def Tile.beginExchange (t : Tile) (a c : Nat) : Tile :=
  { t with align := some { a := a, at_ := c, deltas := (List.range 4).map (t.heldDelta a), common := false }, earlyDeltas := [] }

/-- ALIGNMENT_POINT: a tile's samples go out, and its comparison follows at a + 12 (R49); without operands it is the wafer's common exchange (log 11, DEDUCED). -/
def execAlignmentPoint (s : State) : Res :=
  let x := s.arg.nat 0
  let y := s.arg.nat 1
  let t := s.tile x y
  let a := t.gcy s.now
  .next (if s.arg.n.isEmpty then (if s.now = 0 ∨ s.now % 65536 ≠ 0 then s else s.commonExchange)
    else if a = 0 ∨ a % 65536 ≠ 0 ∨ !s.inGrid x y then s
    else
      let s := s.setTile x y (t.beginExchange a s.now)
      let s := (List.range 4).foldl (fun s d => s.sendSample x y d a) s
      s.postEv (s.now + 12) phModule rowAlignCompare [x, y])

/-- A delta comes in while no exchange of the tile is in progress: in the half of the period up to the tile's own point it is kept for that point's comparison; after that, it is one of a comparison that has been made (R49; log 11, DEDUCED). -/
def Tile.keepEarly (t : Tile) (c side : Nat) (delta : Int) : Tile :=
  let g := t.gcy c
  if 0 < g % 65536 ∧ g % 65536 < 32768 then t
  else { t with earlyDeltas := ⟨side, (g + 65535) / 65536 * 65536 % 2 ^ 64, delta⟩ :: t.earlyDeltas.filter fun e => e.side != side }
/-- ALIGNMENT_SAMPLE: the receiver's counter less the sample, on the cycle the sample arrives, is that neighbour's delta (R49). -/
def execAlignmentSample (s : State) : Res :=
  .next (s.onTile (s.arg.nat 0) (s.arg.nat 1) fun t =>
    let delta := counterDiff (t.gcy s.now) (s.arg.nat 3)
    match t.align with
    | some e => { t with align := some { e with deltas := e.deltas.set (s.arg.nat 2) (some delta) } }
    | none => t.keepEarly s.now (s.arg.nat 2) delta)

/-- The deltas of the present neighbours at a comparison, with their directions; that of a sample not yet in is the difference of the counters (log 11, DEDUCED). -/
def State.deltas (s : State) (x y : Nat) (t : Tile) (e : AlignX) : List (Nat × Int) :=
  (List.range 4).filterMap fun d => (s.present x y d).map fun n =>
    (d, (e.deltas.getD d none).getD (t.gofs - (s.tile n.1 n.2).gofs))
/-- The adopted delta: shared by the most neighbours, a tie to the first in the order N, E, S, W (R50). -/
def adopted (l : List (Nat × Int)) : Int :=
  let count : Int → Nat := fun v => (l.filter fun e => e.2 == v).length
  (l.foldl (fun (b : Option Int) e => match b with
    | some v => if count v < count e.2 then some e.2 else some v
    | none => some e.2) none).getD 0

/-- Grow a set of tiles that agree with one another, at most `fuel` rounds. -/
def State.growSet (s : State) (ofs : Int) : Nat → List (Nat × Nat) → List (Nat × Nat)
  | 0, l => l
  | n + 1, l =>
    let more := l.flatMap fun p => (List.range 4).filterMap fun d => (s.present p.1 p.2 d).bind fun q =>
      if (s.tile q.1 q.2).gofs = ofs ∧ !(l.contains q) then some q else none
    match more.eraseDups with
    | [] => l
    | m => State.growSet s ofs n (l ++ m)
/-- The set of tiles adrift together that holds a tile (R51), when every present neighbour outside it shows one delta. -/
def State.driftSet (s : State) (x y : Nat) : List (Nat × Nat) :=
  let ofs := (s.tile x y).gofs
  if ofs = 0 then []
  else
    let l := s.growSet ofs s.tiles.length [(x, y)]
    let outer := l.flatMap fun p => (List.range 4).filterMap fun d => (s.present p.1 p.2 d).bind fun q =>
      if l.contains q then none else some (ofs - (s.tile q.1 q.2).gofs)
    if l.length ≥ 2 ∧ outer.eraseDups.length = 1 then l else []
/-- The first tile of a set in row-major order: it reports for the set. -/
def setHead (l : List (Nat × Nat)) : Option Nat := (l.map fun p => tileKey p.1 p.2).min?

/-- The alignment status word (R53). -/
def astatWord (rl ds : Bool) (delta : Int) (l : List (Nat × Int)) : Nat :=
  let bits : List Nat → Nat := fun ds => ds.foldl (fun acc d => acc + 2 ^ (3 - d)) 0
  let dl : Int := if rl then max (-128) (min 127 delta) else 0
  (if rl then 2 ^ 17 else 0) + (if ds then 2 ^ 16 else 0) + wrapN 8 dl * 2 ^ 8 + bits (l.map (·.1)) * 16
    + bits ((l.filter fun e => e.2 == 0).map (·.1))

/-- A tile of the common exchange whose neighbours have all agreed: its status word (R50, R53). -/
def Tile.agreed (t : Tile) (now : Nat) : Tile :=
  match t.align with
  | some e =>
    if e.common && e.at_ + 12 == now && e.deltas.all fun v => v.getD 0 == 0 then
      { t with align := none, astat := astatWord false false 0 (e.deltas.zipIdx.filterMap fun v => v.1.map fun k => (v.2, k)) }
    else t
  | none => t
/-- The comparisons of the common exchange; a tile with a delta after all makes its own comparison next. The exchange is complete, and the change of n that it took up takes effect (R31, R53). -/
def State.commonCompare (s : State) : State :=
  let s : State := { s with tiles := s.tiles.map fun e => (e.1, e.2.agreed s.now) }
  let s := (s.tiles.filter fun e => e.2.align.any fun a => a.common && a.at_ + 12 == s.now).foldl
    (fun s e => s.nowEv rowAlignCompare [e.1 % 256, e.1 / 256]) s
  s.changeClock
/-- ALIGNMENT_COMPARE, at a + 12: a mark is made or a reload takes place, each reported to Markhor (R50, R51); a waiting ALIGN takes its status and its resume (R52, R321); a set beyond 16 tiles is a hardware error of its field (R51, R261). A tile that is adrift or corrected, or that disagrees, has an exchange of its own at its next point too, as its neighbours have at theirs (R49). -/
def execAlignmentCompare (s : State) : Res :=
  let x := s.arg.nat 0
  let y := s.arg.nat 1
  let t := s.tile x y
  .next (if s.arg.n.isEmpty then s.commonCompare else match t.align with
    | none => s
    | some e =>
      if e.at_ + 12 ≠ s.now then s
      else
        let l := s.deltas x y t e
        let ds := l.any fun d => d.2 != 0
        let alone := !l.isEmpty && l.all fun d => d.2 != 0
        let waiting : Option (Nat × Nat) := match t.seq.hold with
          | .align d c wait => if c + 16 ≤ e.at_ then some (d, wait) else none
          | _ => none
        let set := s.driftSet x y
        let reload := t.reload || t.reloadSet || (alone && waiting.isSome)
        let inSet := decide (2 ≤ set.length ∧ set.length ≤ 16)
        let told : Bool := !(t.reload || t.reloadSet) && (alone || inSet)
        let delta : Int := if t.reloadSet then t.gofs else adopted l
        let pc := if waiting.isSome then (t.seq.waitPc.map (·.1)).getD noPc else noPc
        let status := astatWord reload ds delta l
        let t : Tile := { t with
          align := none, astat := status
          reload := !reload && alone, reloadSet := !reload && inSet }
        let t : Tile := match waiting with
          | some (d, wait) => { t with s := t.s.poke d s.now (BitVec.ofNat 32 status), seq := { t.seq with hold := .waitc (e.a + 16) (e.a + 16 + wait) } }
          | none => t
        let s := s.setTile x y t
        let s : State := if told then { s with mgmt := s.mgmt ++ [.drift x y (if inSet then t.gofs else adopted l)] } else s
        let s := if reload then (s.correct x y (-delta)).onTile x y fun t => t.addLog s.now pc 0xA1 4 delta.natAbs else s
        let s := if waiting.isSome then
            s.postEv (max s.now ((s.tile x y).cycleOf (e.a + 16) + (match waiting with | some w => w.2 | none => 0))) phRelease rowAlignResume [x, y]
          else s
        let s := if !reload ∧ set.length > 16 ∧ setHead set = some (tileKey x y) then s.alert 0xA1 2 (s.fieldX x) (fieldY y) else s
        if ds || reload || (s.tile x y).gofs != 0 then s.postPoints x y else s)

/-! The Ply tree (R63 to R66, R316, R317). -/

/-- A release reaches a tile at cycle D (R65, R316, R317). The log entry of KIND 2 has CAUSE 0 (R262; log 15, DESIGN CHOICE). -/
def Tile.release (t : Tile) (d lvl : Nat) : Tile :=
  let k := lvl - 1
  let t : Tile := if t.finalEnd || t.seq.mode == .frozen then t else { t with arr := t.arr.set k false }
  match t.seq.hold with
  | .barw l c _ bound next =>
    if l = lvl then
      let t : Tile := { t with seq := { t.seq with hold := .none, due := some (max (d + 1) next) } }
      if bound < d - c then t.addLog d ((t.seq.waitPc.map (·.1)).getD noPc) 0 2 (d - c - bound) else t
    else { t with latch := t.latch.set k true }
  | _ => { t with latch := t.latch.set k true }
/-- BARRIER_RELEASE. -/
def execBarrierRelease (s : State) : Res := .next (s.onTile (s.arg.nat 0) (s.arg.nat 1) fun t => t.release s.now (s.arg.nat 2))
/-- BARW_TIMEOUT: at c + MAXW, 0x4B, and the next word is due on the cycle that follows (R317). -/
def execBarwTimeout (s : State) : Res :=
  .next (s.onTile (s.arg.nat 0) (s.arg.nat 1) fun t => match t.seq.hold with
    | .barw lvl c maxw _ _ =>
      if c + maxw = s.now then
        let t := t.raise s.now 0x4B 0 lvl 5
        { t with seq := { t.seq with hold := .none, due := some (s.now + 1) } }
      else t
    | _ => t)
/-- STEP_SKEW (R66). -/
def execStepSkew (s : State) : Res := .next (s.onTile (s.arg.nat 0) (s.arg.nat 1) fun t => t.raise s.now 0x4A 0 (s.arg.nat 2) 7)

/-! Imprecise traps and upsets. -/

/-- TRAP_TAKE, where the next word would issue (R244, R245). -/
def execTrapTake (s : State) : Res :=
  .next (s.onTile (s.arg.nat 0) (s.arg.nat 1) fun t =>
    if t.seq.mode = .run ∧ t.seq.due = some s.now then t.takeDue s.now else t)

/-- POOL_SRAM_UPSET: bits of a pool word or of its check bits flip, and it holds an uncorrectable error (R394). -/
def execPoolSramUpset (s : State) : Res :=
  let a := s.arg.nat 2 / 4 * 4
  let flips := s.arg.nat 3 % 2 ^ 32
  .next (if a ≥ poolTop then s
    else s.onTile (s.arg.nat 0) (s.arg.nat 1) fun t =>
      let t := t.flushV s.now
      { t with pool := t.pool.put a 4 (t.pool.nat a 4 ^^^ flips), upsets := if t.upsets.contains a then t.upsets else a :: t.upsets })

end Sys2Proof.Machine
end

