-- ==== Sys2Proof/Machine/Recover.lean ====
section
/-! DEFINITION. Stops, checkpoints, kills, pre-emption, halts, self-tests and replays (R67 to R70, R153 to R159, R252 to R260, R399). -/

namespace Sys2Proof.Machine

/-! The decision on an interval (R88). -/

/-- The decision on the interval that b closes is due at b + 16. -/
def State.postDecision (s : State) (l : Launch) (b : Nat) : State :=
  let item := eventItem rowCommitDecision ⟨[l.id, b], []⟩
  if s.agenda.any fun d => d.at_ == b + 16 && d.item == item then s else s.post (b + 16) phEnd item

/-! Checkpoints (R156, R255). -/

/-- Special register n as the layout stores it at b: cycle-valued registers as offsets from TSTART (R156). -/
def Tile.savedSpecial (t : Tile) (b n : Nat) : Nat :=
  if n = spTSTART then 0
  else if n = spGCY then (t.gcy b + 2 ^ 64 - t.tstart b) % 2 ^ 64
  else if n = spPART then t.partWord
  else if n = spFPST then (t.fpstAt b).toNat
  else if n = spRBNEXT then ((t.spr b n).toNat + 2 ^ 64 - t.tstart b) % 2 ^ 64
  else if spWP 0 ≤ n ∧ n ≤ spWP 3 then t.wp b (n - spWP 0)
  else (t.spr b n).toNat
/-- The router's state as 16 bytes. -/
def Router.saved (r : Router) (b : Nat) : Nat :=
  r.entry % 512 + (if r.on then r.upto - b else 0) * 2 ^ 16 + (match r.loop with | some (h, k) => k * 2 ^ 32 + h * 2 ^ 44 + 2 ^ 53 | none => 0)
/-- The word waits at b: in a hold, but not in the WAIT cycles after it, or in a service transfer (R156, R232). -/
def Tile.waits (t : Tile) (b : Nat) : Bool :=
  (match t.seq.hold with | .none => false | .waitc g _ => decide (t.gcy b < g) | _ => true) || decide (b < t.seq.waitTo) || t.served
/-- The PC that the layout stores: that of a word that waits, or none. -/
def Tile.savedPc (t : Tile) (b : Nat) : Nat :=
  match t.seq.mode with
  | .between | .done | .idle | .stopped => noPc
  | _ => match t.seq.waitPc with
    | some w => if t.waits b then w.1 else t.seq.pc
    | none => t.seq.pc
/-- Iteration n as the layout stores it, for a region of `area` tiles. -/
def Tile.savedN (t : Tile) (area : Nat) : Nat :=
  match t.iter with
  | some n => if t.draining then (if t.finalEnd then 2 ^ 64 - 1 else n + area) else n
  | none => 2 ^ 64 - 1
/-- Bytes 0x0000 to 0x05FF of the save layout, as read at b (R156, R162, R255). -/
def Tile.ckptBytes (t : Tile) (b area : Nat) : List Byte :=
  t.coreBytes b ++ leBytes 4 (t.savedPc b) ++ leBytes 4 t.mst.toNat ++ leBytes 8 (t.savedN area) ++ leBytes 16 (t.router.saved b)
    ++ (List.range 8).flatMap (fun i => leBytes 128 (t.mreg b i)) ++ (List.range 32).flatMap fun n => leBytes 8 (t.savedSpecial b n)
/-- Write a checkpoint into one of the launch's two banks (R255); what is being restored for another launch stays (R158). -/
def Tile.checkpoint (t : Tile) (l : Launch) (b : Nat) : Tile :=
  let ck : TileCkpt := { launch := l.id, off := b - l.tstart, bytes := t.ckptBytes b l.lnr.area }
  let mine := t.ckpts.filter fun e => e.launch == ck.launch && e.off != ck.off
  { t with ckpts := (t.ckpts.filter fun e => e.launch != ck.launch) ++ mine.drop (mine.length - 1) ++ [ck] }

/-- A service transfer of a launch is abandoned; a message of the launch before goes on (R386, R387). -/
def Tile.abandonOf (t : Tile) (l : Launch) : Tile := if t.svc.any fun v => v.launch == l.id then t.abandon else t
/-- The stop p that a PREEMPT has chosen. -/
def Launch.preemptStop (l : Launch) : Option Nat := match l.stop with | some ⟨_, b, .preempt⟩ => b | _ => none
/-- A stop cycle of a launch: a multiple of B or of PPER after TSTART (R154). -/
def Launch.isStop (l : Launch) (b : Nat) : Bool :=
  let on : Nat → Bool := fun k => k != 0 && decide (l.tstart < b) && (b - l.tstart) % k == 0
  on l.lnr.rbsp || on l.lnr.pper
/-- CHECKPOINT, at a stop cycle of a running launch. At a replay boundary the interval closes, and with level EXACT or LOOSE every tile is checkpointed (R87, R255); at a chosen stop p every tile is (R155, R255). Where the launch runs on, a service transfer still in progress is abandoned (R386). -/
def execCheckpoint (s : State) : Res :=
  .next (match s.launchOf (s.arg.nat 0) with
    | none => s
    | some l =>
      if l.phase ≠ .running then s
      else
        let bound := l.lnr.rbsp ≠ 0 ∧ l.tstart < s.now ∧ (s.now - l.tstart) % l.lnr.rbsp = 0
        let keep := (bound ∧ l.level ≠ 1) ∨ l.preemptStop = some s.now
        let u := if keep then s.onRegion l fun _ _ t => t.checkpoint l s.now else s
        let u := if bound ∧ l.level ≠ 1 then u.postEv (s.now + 17) phModule rowCheckpointConfirm [l.id] else u
        let u := if bound then u.postDecision l s.now else u
        if l.isStop s.now then (u.onRegion l fun _ _ t => t.abandonOf l).postBoundary l s.now else u)
/-- The checkpoint of b is confirmed, and is one to resume from (R255, R260). -/
def Launch.confirm (l : Launch) (b : Nat) : Launch :=
  let off := b - l.tstart
  { l with ckpt := off, halts := if l.resumedFrom < off then 0 else l.halts }
/-- CHECKPOINT_CONFIRM, at b + 17, unless a halt has selected b (R255). -/
def execCheckpointConfirm (s : State) : Res :=
  .next (match s.launchOf (s.arg.nat 0) with
    | none => s
    | some l =>
      let b := s.now - 17
      let held := l.lnr.tiles.all fun p => (s.tile p.1 p.2).ckpts.any fun e => e.launch == l.id && e.off + l.tstart == b
      if l.boundary b && held && !(l.phase == .halted && l.stopped.map (·.b) == some b) then s.setLaunch (l.confirm b) else s)

/-! Stops (R70, R119, R155, R159, R254). -/

/-- A boundary is not after another; no boundary counts as the final one. -/
def notAfter (a b : Option Nat) : Bool :=
  match a, b with
  | some x, some y => decide (x ≤ y)
  | some _, none => true
  | none, none => true
  | none, some _ => false
/-- A launch that was to start stays staged, and its start is chosen again (R256). -/
def State.unfix (s : State) (l : Launch) : State :=
  { s.setLaunch { l with phase := .staged } with
    reads := s.reads.filter fun r => r.launch != l.id
    engines := s.engines.map fun g => { g with win := g.win.filter fun w => w.launch != l.id } }
/-- A halt selects a launch's stop: its first boundary at or after STAMP + 48 (R70, R254, R256); a pending stop p of a PREEMPT counts as one (R155, R159). -/
def State.haltLaunch (s : State) (l : Launch) (stamp cause : Nat) : State :=
  let frm := stamp + 48
  if l.phase ≠ .running ∧ l.phase ≠ .fixed then s
  else if frm < l.runStart then (if l.phase = .fixed then s.unfix l else s)
  else
    let st : Stop := ⟨frm, l.firstBoundary frm, .halt cause stamp⟩
    match l.stop with
    | none => s.setStop l st
    | some old =>
      match old.kind with
      | .preempt =>
        match old.b with
        | some p =>
          if frm ≤ p then s.setStop { l with preemptAgain := true } { st with b := if notAfter st.b (some p) then st.b else some p } else s
        | none => s.setStop { l with preemptAgain := true } st
      | .halt _ _ => if notAfter old.b st.b then s else s.setStop l st
      | _ => if notAfter old.b st.b then s else s.setStop { l with behind := some old } st

/-- Status, cause, W0 and fault record of a kill (R119, R253). -/
def killEnd (l : Launch) : StopKind → Nat × Nat × Nat × FaultRec
  | .ctxKill r at_ => (stKilled, 0xBE, at_, r)
  | _ => (stCancelledRunning, 0, l.tstart0.getD 0, {})
/-- The region of a launch that waits for a replay is given up at its stop, and its summary goes out (R142, R263); a pre-empted launch that is ended before its resume sends none (log 20, DESIGN CHOICE). -/
def State.giveUp (s : State) (l : Launch) : State :=
  match l.stopped with
  | some st => if st.cause = 0 then s else (s.summary l st.b).leaveTiles l st.b (st.b + 17)
  | none => s
/-- A launch that issues nothing ends at once: W1 is its last stop, or 0 when it never started (R119, R144, R253). -/
def State.killNow (s : State) (l : Launch) (k : StopKind) : State :=
  let e := killEnd l k
  ((s.giveUp l).endLaunch l e.1 e.2.1 e.2.2.1 ((l.stopped.map (·.b)).getD 0) e.2.2.2).fixAll
/-- A kill selects a running launch's stop (R119, R159, R253, R254). Of several frozen masters, the first is the one whose report reaches the dispatch unit first (R253; log 20, DESIGN CHOICE). -/
def State.killRunning (s : State) (l : Launch) (k : StopKind) : State :=
  let frm := s.now + 48
  let st : Stop := ⟨frm, l.firstBoundary frm, k⟩
  match l.stop with
  | none => s.setStop l st
  | some old =>
    match old.kind with
    | .preempt => (s.setLaunch { l with stop := some { old with kind := k } }).preemptLost l.id
    | .halt _ _ => if notAfter st.b old.b then s.setStop l st else s.setLaunch { l with behind := l.behind <|> some st }
    | .kill => (match k with
      | .ctxKill _ _ => if st.b = old.b then s.setLaunch { l with stop := some { old with kind := k } } else s
      | _ => s)
    | .ctxKill _ _ => s
/-- A launch that a kill has stopped at b has run to its end: its summary goes out, and its tiles are left. With a context kill the interval that b closes is discarded (R88, R119, R253). -/
def State.killedAt (s : State) (l : Launch) (k : StopKind) (b : Nat) : State :=
  let l : Launch := { l with phase := .killed, discardFrom := some (match k with | .ctxKill _ _ => b | _ => b + 1) }
  ((s.summary l b).setLaunch l).leaveTiles l b (b + 17)
/-- A kill acts on a launch whose save has begun. On the cycle of p itself it still takes p as its stop, and no save is made (log 20, DEDUCED); after p a CANCEL waits for the save, and a context kill leaves the launch as it is (R159). -/
def State.killSaving (s : State) (l : Launch) (k : StopKind) : State :=
  let kill : Stop → Stop := fun st => { st with kind := k }
  if l.stop.bind (·.b) = some s.now then
    ((s.killedAt { l with stop := l.stop.map kill, stopped := none } k s.now).preemptLost l.id).fixAll
  else match k with
    | .kill => s.setLaunch { l with stop := l.stop.map kill }
    | _ => s
/-- A kill acts on a launch (R119, R144, R159, R253). A launch runs from its TSTART or Rs, also before the event of that cycle has come. -/
def State.killLaunch (s : State) (l : Launch) (k : StopKind) : State :=
  match l.phase with
  | .running => s.killRunning l k
  | .fixed => if l.runStart ≤ s.now then s.killRunning l k else s.killNow l k
  | .staged | .halted => s.killNow l k
  | .saving => s.killSaving l k
  | .killed | .saved | .retired => s
/-- A kill acts on every launch of a context. -/
def State.killContext (s : State) (ctx : Nat) (k : StopKind) : State :=
  (s.launches.filter fun l => l.cmd.ctx == ctx).foldl (fun s l => match s.launchOf l.id with | some l => s.killLaunch l k | none => s) s

/-! The remap list and the measurement registers (R22, R25). -/

/-- measi = sha384(cat(measi, digest)) (R25). -/
def State.extend (s : State) (i : Nat) (digest : List Byte) : State := { s with meas := s.meas.set i (sha384 (s.meas.getD i [] ++ digest)) }
/-- The place of a physical tile in its field row (R12, R22). -/
def remapAt (px py : Nat) : RemapEntry := { fx := px / 17, fy := py / 16, prow := py % 16, col := px % 17 }
def State.mapBytes (s : State) : List Byte := match s.map with | some m => m.bytes | none => []
/-- The device key signs a byte string (R22, R25); the nonce is a free value (log 9, DESIGN CHOICE). -/
def State.devSign (s : State) (b : List Byte) : List Byte := ecSign s.devKey (1 + Config.nonce s.fv % (ecN - 1)) b
/-- The list's record: count, entries, signature (R22). -/
def State.remapImage (s : State) : List Byte := remapBytes s.remap ++ s.remapSig
/-- The signature of the remap list verifies under the device key (R22, R23). -/
def State.remapOk (s : State) : Bool := ecVerify (EcKey.ofSecret s.devKey) (remapBytes s.remap) s.remapSig
/-- A failed tile is appended to the list, which is signed again and extended into MEAS7; false when its row has no spare free (R22). -/
def State.appendRemap (s : State) (e : RemapEntry) : State × Bool :=
  if canAppend s.mapBytes s.remap e then
    let l := s.remap ++ [e]
    let s : State := { s with remap := l, remapSig := s.devSign (remapBytes l), fv := s.fv + 1 }
    (s.extend 7 (sha384 s.remapImage), true)
  else (s, false)

/-! Halts (R32, R256 to R260). -/

/-- Causes that skip the self-test and replay nothing (R256). -/
def noReplay (cause : Nat) : Bool := cause == 0xA4 || cause == 0xAB
/-- A tile has not stopped: a launch runs on, or starts before its stop (R33, R257). -/
def State.stopping (s : State) : Bool := s.launches.any fun l => l.phase == .running || l.phase == .fixed
/-- The logical engine of a physical one. -/
def State.logicalEngine (s : State) (p : Nat) : Nat := ((List.range 48).find? fun e => s.physEngine e == p).getD 0xFF
/-- The fault record of a launch that an error ends (R110); that of a bridge's late message names the engine whose links the port shares (log 33, DESIGN CHOICE). -/
def State.haltFault (s : State) (l : Launch) (h : HaltRec) : FaultRec :=
  match h.unitKind with
  | 0 => { x := h.a, y := h.b, entry := l.lnrIdx }
  | 1 => { engine := s.logicalEngine h.a, entry := l.lnrIdx }
  | _ => { entry := l.lnrIdx }
/-- A launch that an error stopped ends FAULTED: W0 the STAMP, W1 its stop, or 0 when it never started (R257, R260). -/
def State.endFaulted (s : State) (l : Launch) (cause stamp : Nat) (r : FaultRec) : State :=
  (s.giveUp l).endLaunch l stFaulted cause stamp ((l.stopped.map (·.b)).getD 0) r
/-- A halted launch is not replayed; the cause with which it ends (R260). -/
def Launch.refusedReplay (l : Launch) (cause : Nat) : Option Nat :=
  if l.level = 1 ∨ l.lnr.rbsp = 0 ∨ l.scripts.any (fun c => decide (48 ≤ c.unit)) = true then some cause
  else if l.halts ≥ 8 then some 0xB1 else none
/-- A halted launch is prepared for its replay from its last confirmed checkpoint; no interval of the replay is tainted (R83, R258, R399). -/
def State.prepareReplay (s : State) (l : Launch) : State :=
  let l : Launch := { l with
    phase := .staged, resume := some l.ckpt, d := s.now, lf := none, scripts := l.scripts.map fun c => { c with ready := none } }
  let s : State := { s.setLaunch l with
    reads := s.reads.filter fun r => r.launch != l.id
    engines := s.engines.map fun g => { g with win := g.win.filter (fun w => w.launch != l.id), taints := g.taints.filter fun t => t.1 != l.id } }
  let unconfirmed : TileCkpt → Bool := fun e => e.launch == l.id && l.stopped.map (·.off) == some e.off && e.off != l.ckpt
  -- a load that was going on there for a later launch begins again (R139); the checkpoint of the halt's boundary is never confirmed (R255)
  (s.onRegion l fun _ _ t => { t.dropBlocks with ckpts := t.ckpts.filter fun e => !unconfirmed e }).loadNow l.id
/-- STAMP of the halt that stopped a launch. -/
def Launch.haltStamp (l : Launch) : Nat := match l.stop with | some ⟨_, _, .halt _ t⟩ => t | _ => 0
/-- Of the halts that replay nothing, the one with which a stopped launch ends: the one that stopped it, else a thermal emergency before a bridge's (R32, R131, R256; log 33, DESIGN CHOICE). -/
def Launch.endingHalt (l : Launch) (hs : List HaltRec) : Option HaltRec :=
  let own := hs.filter fun h => l.stopped.map (·.cause) == some h.cause
  (own.find? fun h => h.stamp == l.haltStamp) <|> own.head? <|> (hs.find? fun h => h.cause == 0xA4) <|> hs.head?
/-- Launches that a halt stopped. -/
def State.haltedLaunches (s : State) : List Launch := s.launches.filter fun l => l.phase == .halted
/-- The start of a staged launch is chosen again at the resume: its dispatch and its engines' readiness count from now (R256; log 33, DEDUCED). -/
def Launch.rearm (now : Nat) (l : Launch) : Launch :=
  if l.phase = .staged then { l with d := max l.d now, scripts := l.scripts.map fun c => { c with ready := c.ready.map (max now) } } else l
/-- Once every launch that a halt selects has stopped: a cause without self-test ends them (R32, R131), a thermal emergency enters THERMAL_HALT, also from the SERVICE_ONLY that the last of these ends brings where nothing more may be dispatched (log 31, DESIGN CHOICE), and when no self-test is owed the dispatch unit goes on and the launches replay or end (R256, R258, R260). -/
def State.settleHalts (s : State) : State :=
  if !s.halted ∨ s.stopping ∨ s.halts.any (fun h => !h.heard) = true then s
  else
    let ends := s.halts.filter fun h => noReplay h.cause
    let s : State := { s with halts := s.halts.filter fun h => !noReplay h.cause }
    let s := s.haltedLaunches.foldl (fun s l => match l.endingHalt ends with
      | some h => s.endFaulted l h.cause h.stamp (if h.cause = 0xAB then s.haltFault l h else { entry := l.lnrIdx })
      | none => s) s
    let s := if ends.any fun h => h.cause == 0xA4 then State.moduleEvent { s with mode := .thermalHalt } 3 else s
    if !s.halts.isEmpty then s
    else
      let s := s.haltedLaunches.foldl (fun s l =>
        let cause := (l.stopped.map (·.cause)).getD 0
        match l.refusedReplay cause with
        | some k => s.endFaulted l k l.haltStamp { entry := l.lnrIdx }
        | none => s.prepareReplay l) s
      (State.settleService { s with halted := s.mode == .thermalHalt, launches := s.launches.map (Launch.rearm s.now) }).fixAll.wake

/-- A launch uses a unit whose self-test has failed, or its region lies in the unit's field, which is an engine's edge field (R71, R257; log 33, DEDUCED). -/
def State.uses (s : State) (l : Launch) (h : HaltRec) : Bool :=
  match h.unitKind with
  | 0 => l.lnr.covers h.a h.b
  | 1 => inField (engineField h.a) || l.scripts.any fun c => s.physEngine (unitEngine c.unit) == h.a
  | 4 => names (1, h.a, h.b)
  | 5 => names (2, 0, 0)
  | _ => inField (h.a, h.b) || names (0, h.a, h.b)
where
  /-- A tile of the launch's region lies in a field. -/
  inField (f : Nat × Nat) : Bool := l.lnr.tiles.any fun p => (s.fieldX p.1, fieldY p.2) == f
  /-- A record of the launch lies in a node: one that it will install, or one that it shares. -/
  names (n : Node) : Bool :=
    ([1, 2, 3].any fun k => domGid l.lnr.dom k != 0 && (s.nodesOf l.lnr.tiles).contains n)
      || s.segs.any fun g => (g.members.any fun m => m.launch == l.id) && (s.segNodes g).contains n
/-- The causes of R257's first row: the unit under test is a tile, its router or its links. -/
def tileCause (cause : Nat) : Bool := [0xA0, 0xA2, 0xA3, 0xA5, 0xAC].contains cause
/-- The unit under test: CAUSE picks the row of R257's table. An error of a field's units that a tile has met is tested in the tile's field. -/
def State.unitOf (s : State) (h : HaltRec) : HaltRec :=
  if h.unitKind = 0 ∧ tileCause h.cause = false then { h with unitKind := 2, a := s.fieldX h.a, b := fieldY h.b } else h
/-- A failed self-test (R22, R33, R257): the spare of the tile that met the error is bound, or the launches that use the unit end and nothing more is dispatched. -/
def State.testFails (s : State) (h : HaltRec) : State :=
  let h := s.unitOf h
  let r := if h.unitKind = 0 then s.appendRemap (remapAt h.px h.b) else (s, false)
  if r.2 then r.1
  else
    let cause := if h.unitKind = 0 then 0xB0 else 0xB2
    let s : State := { s with noDispatch := true }
    (s.launches.filter fun l => (l.phase == .halted || l.phase == .staged || l.phase == .fixed) && s.uses l h).foldl
      (fun s l => s.endFaulted l cause h.stamp (s.haltFault l h)) s
/-- The engines have still to decide on the interval that a halt's stop closes (R88, R256). -/
def State.discarding (s : State) : Bool := s.haltedLaunches.any fun l => l.stopped.any fun st => decide (s.now ≤ st.b + 16)
/-- SELF_TEST_COMPLETE: the test owed to the oldest halt ends, once every launch has stopped and the engines have discarded what the stops close, the step before it (R88, R256, R257; log 20, DEDUCED). -/
def execSelfTestComplete (s : State) : Res :=
  .next (match s.halts.find? fun h => !noReplay h.cause with
    | none => s
    | some h =>
      if s.stopping ∨ s.halts.any (fun h => !h.heard) = true ∨ s.discarding = true then s
      else
        let s : State := { s with halts := s.halts.erase h }
        (if s.arg.nat 0 = 1 then s else s.testFails h).settleHalts)
/-- HARDWARE_ERROR: a unit meets an uncorrectable error (R256, R91). An engine's error in a window position shows at injection: a lost flit leaves its position empty, a corrupted one stays marked. -/
def execHardwareError (s : State) : Res :=
  let cause := s.arg.nat 0
  let kind := s.arg.nat 1
  let a := s.arg.nat 2
  let known : List Nat := [0xA0, 0xA1, 0xA2, 0xA3, 0xA5, 0xA6, 0xA7, 0xA8, 0xA9, 0xAA, 0xAC, 0xAD]
  let onCell : (List WinCell → List WinCell) → State := fun f => { s with engines := s.engines.modify a fun g => { g with win := f g.win } }
  let here : WinCell → Bool := fun w => s.arg.n[4]? == some w.slot && s.arg.n[5]? == some w.pos
  .next (if s.mode ≠ .ready ∨ !known.contains cause then s
    else if kind = 1 ∧ 5 < s.arg.n.length ∧ cause = 0xAA then onCell fun l => l.map fun w => if here w then { w with bad := true } else w
    else if kind = 1 ∧ 5 < s.arg.n.length ∧ cause = 0xA8 then onCell fun l => l.filter fun w => !here w
    else if kind = 1 ∧ 5 < s.arg.n.length ∧ cause = 0xA9 then (onCell fun l => l.filter fun w => !here w).alert cause kind a 0
    else s.alert cause kind a (s.arg.nat 3))

/-! The stop of a launch (R70, R119, R155, R156, R253, R256). -/

/-- Every tile stops issuing at b; what it has issued completes. -/
def Tile.stopAtBoundary (t : Tile) (l : Launch) (b : Nat) : Tile :=
  let frozen := t.seq.mode == .frozen
  let t := t.abandonOf l
  { t with
    seq := { t.seq with mode := if frozen then .frozen else .stopped, due := none, hold := .none, xfer := none, loopTrap := [] }
    pendc := [], router := { t.router with upto := min t.router.upto b } }
/-- A running launch stops at b. -/
def State.stopLaunch (s : State) (l : Launch) (st : Stop) (b : Nat) : State :=
  let l : Launch := { l with stop := some { st with b := some b }, behind := none }
  let freeze : State → State := fun s => s.onRegion l fun _ _ t => t.stopAtBoundary l b
  match st.kind with
  | .halt cause _ =>
    let l : Launch := { l with phase := .halted, stopped := some ⟨b, cause, b - l.tstart⟩, halts := l.halts + 1, discardFrom := some b }
    (((freeze s).setLaunch l).clearSegs l |>.postDecision l b).settleHalts
  | .preempt =>
    let s := freeze (s.onRegion l fun _ _ t => t.checkpoint l b)
    let l : Launch := { l with phase := .saving, stopped := some ⟨b, 0, b - l.tstart⟩ }
    let s := ((s.setLaunch l).onRegion l fun _ _ t => { t with saved := 0 }).postEv (b + 1) phModule rowLaunchStop [l.id]
    let s := l.lnr.tiles.foldl (fun s p => s.postEv (nextSlot p.1 p.2 b) phEnd rowUpstream [p.1, p.2]) s
    (s.postDecision l b).postEv (b + 17) phModule rowCheckpointConfirm [l.id]
  | k =>
    let s := (freeze s).killedAt l k b
    (((s.postEv (b + 1) phModule rowLaunchStop [l.id]).preemptLost l.id).postDecision l b).settleHalts.fixAll
/-- The final boundary falls on this cycle whatever is done: every tile has ended and will have drained (R149, R151). -/
def State.finished (s : State) (l : Launch) : Bool :=
  l.lnr.tiles.all fun p =>
    let t := s.tile p.1 p.2
    t.drainedAt.isSome || (t.draining && t.finalEnd && decide (t.idleAt s.now ≤ s.now))
/-- The bits of a launch that a kill has stopped, that is being saved (log 20, DESIGN CHOICE) or that has retired leave the tree on the cycle after its stop (R153, R398). -/
def Launch.leavesTree (l : Launch) (now : Nat) : Bool :=
  match l.phase with
  | .killed | .saving => l.stopAt.map (· + 1) == some now
  | .retired => l.retire.map (· + 1) == some now
  | _ => false
/-- LAUNCH_STOP, at the stop of a running launch (R70, R119, R155, R253), and on the cycle after it (R398); a pre-emption that meets the final boundary has no effect (R155). -/
def execLaunchStop (s : State) : Res :=
  .next (match s.launchOf (s.arg.nat 0) with
    | none => s
    | some l =>
      match l.stop with
      | none => s
      | some st =>
        if l.leavesTree s.now then (s.removeSegs l s.now).wake
        else if l.phase ≠ .running ∨ st.b ≠ some s.now then s
        else if st.kind = .preempt ∧ s.finished l = true then (s.setLaunch { l with stop := none }).preemptLost l.id
        else s.stopLaunch l st s.now)
/-- LAUNCH_RETIRE, on the cycle of the last drain point: the final boundary (R151), or the stop of a kill or halt that counts it (R119, R253 to R256); and on the cycle after it (R153, R398). -/
def execLaunchRetire (s : State) : Res :=
  .next (match s.launchOf (s.arg.nat 0) with
    | none => s
    | some l =>
      let last := l.lnr.tiles.foldl (fun acc p => max acc ((s.tile p.1 p.2).drainedAt.getD (s.now + 1))) 0
      if l.leavesTree s.now then (s.removeSegs l s.now).wake
      else if l.phase ≠ .running ∨ last ≠ s.now then s
      else match l.behind, l.stop with
        | some k, _ => s.stopLaunch l k s.now
        | none, some st =>
          match st.kind with
          | .preempt => s.retire l s.now
          | .halt _ _ => if st.frm ≤ s.now then s.stopLaunch l st s.now else (s.retire l s.now).settleHalts
          | _ => s.stopLaunch l st s.now
        | none, none => s.retire l s.now)

/-- The writes of a launch's intervals that close at or before b end (R88). -/
def State.performCommits (s : State) (id b : Nat) : State :=
  let mine : CommitJob → Bool := fun j => j.launch == id && decide (j.bound ≤ b)
  (s.commits.filter mine).foldl (fun s j => j.pend.foldl (fun s f => s.writeDram f.1 (leBytes 64 f.2.toNat)) s) { s with commits := s.commits.filter fun j => !mine j }
/-- COMMIT_COMPLETE: the rest of the interval reaches DRAM, after that of every earlier one (log 33, DESIGN CHOICE); the commit of a final boundary, or of the stop of a kill, ends the launch (R88, R112, R119). A launch that has ended and has waited for its service messages sends its final notification (R112). -/
def execCommitComplete (s : State) : Res :=
  let id := s.arg.nat 0
  let b := s.arg.nat 1
  let early : Bool := decide (s.now < b + 16) || s.engines.any fun g => g.bank.any fun f => f.launch == id && decide (f.at_ ≤ b)
  let s := if early then s else s.performCommits id b
  .next (match s.ending.find? fun e => e.launch == id with
    | some e => if s.messagesOf id then s else State.afterEnd (State.finish { s with ending := s.ending.erase e } e) e.cmd.ctx
    | none =>
    if early then s
    else
      match s.launchOf id with
      | none => s
      | some l =>
        if l.phase = .retired ∧ l.retire = some b then s.endLaunch l stDone 0 (l.tstart0.getD 0) b {}
        else match l.stop with
          | some st =>
            if l.phase = .killed ∧ st.b = some b then
              let e := killEnd l st.kind
              s.endLaunch l e.1 e.2.1 e.2.2.1 b e.2.2.2
            else s
          | none => s)

/-! Resumes (R158, R259, R399). -/

/-- The special registers of a resume, each with the bits that it keeps (R7, R158, R167). -/
def resumeSpecials (b : List Byte) (tstart phx phy : Nat) : List Nat :=
  (List.range 64).map fun n =>
    let v := if n < 32 then leAt b (0x500 + 8 * n) 8 else leAt b (0xA0 + 4 * (n - 32)) 4
    if n = spTSTART then tstart
    else if n = spGCY then 0
    else if n = spPHYXY then phx + phy * 2 ^ 8
    else if n = spRBNEXT then (v + tstart) % 2 ^ 64
    else if n < 48 then (BitVec.ofNat 64 v &&& spMask n).toNat
    else 0
/-- The bits of the matrix engine's sticky status: INV, OF, UF and NX (R362). -/
def mstMask : Flags := 0b10111
/-- The router of a resume at cycle rs, of a launch of a record. -/
def resumeRouter (v rs : Nat) (r : Lnr) : Router :=
  { on := true, entry := bitsAt v 0 9, from_ := rs, upto := rs + bitsAt v 16 16
    loop := if bitAt v 53 then some (bitsAt v 44 9, bitsAt v 32 12) else none, sent := none, region := some (r.x0, r.y0, r.w, r.h) }
/-- A tile's state at Rs, from the checkpoint's bytes (R158, R259). -/
def Tile.resumeFrom (t : Tile) (l : Launch) (p o : Nat) (b : List Byte) (rs phx phy : Nat) : Tile :=
  let then_ := t.base + o
  let t := (t.flushV rs).quiet l.id
  let pc := leAt b 0xE0 4
  let n := leAt b 0xE8 8
  let fin := pc == noPc && n == 2 ^ 64 - 1
  let sp := resumeSpecials b l.tstart phx phy
  let lvl := sp.getD spTLVL 0
  -- traps taken after the checkpoint, and those of levels that it had left, are never seen to return
  let stays : Nat → OpenTrap → Bool := fun k e => decide (k < lvl) && decide (e.took < then_)
  let left := t.returned.filter fun e => decide (e.2.took < then_) && decide (e.1 ≤ lvl)
  let open_ := (List.range 2).map fun k => (t.openTraps.getD k none).filter (stays k)
  let lost := t.lostTraps - ((open_.filter (·.isSome)).length + left.length) * 0xFFFFFFFF
  let between := pc == noPc && !fin
  { t.holds l p (if between then some n else none) with
    s := RegFile.of ((List.range 32).map fun i => leAt b (4 * i) 4)
    p := RegFile.of ((List.range 8).map fun i => if bitAt (leAt b 0x80 1) i then 1 else 0)
    q := RegFile.of ((List.range 4).map fun i => leAt b (0x90 + 4 * i) 4)
    m := RegFile.of ((List.range 8).map fun i => leAt b (0x100 + 128 * i) 128)
    sp := RegFile.of sp
    mst := BitVec.ofNat _ (leAt b 0xE4 4) &&& mstMask, router := resumeRouter (leAt b 0xF0 16) rs l.lnr, lastCtx := some l.opening
    openTraps := open_, returned := left, logLost := t.logLost + lost, cycLatch := none
    seq := if pc = noPc then { t.seq with mode := if fin then .done else .between } else { t.seq with mode := .run, pc := pc, due := some rs }
    iter := if fin then none else some n, iterLeft := if fin then 0 else (l.lnr.total - 1 - n) / l.lnr.area
    finalEnd := fin, arr := List.replicate 3 fin, drainedAt := if fin then some rs else none }
/-- A tile of a launch that resumes: its state, its router, its next start, and its arrivals. -/
def State.resumeTile (s : State) (l : Launch) (o x y : Nat) : State :=
  let ph := s.phys x y
  let s := s.onTile x y fun t =>
    t.resumeFrom l (l.lnr.pos x y) o (((t.ckpts.find? fun e => e.launch == l.id && e.off == o).map (·.bytes)).getD []) s.now ph.1 ph.2
  let s := s.postSwitch x y
  let t := s.tile x y
  match t.iter with
  | none => s.memberEnds x y
  | some n =>
    let next := if t.seq.mode = .between then some n else if n + l.lnr.area < l.lnr.total then some (n + l.lnr.area) else none
    match next with
    | some k => s.postEv (max s.now (t.cycleOf (l.startOf k))) phStart rowIterationStart [x, y]
    | none => s
/-- RESUME_START, at Rs: the launch goes on from its checkpoint (R158, R258, R259). -/
def execResumeStart (s : State) : Res :=
  .next (match s.launchOf (s.arg.nat 0) with
    | none => s
    | some l =>
      match l.resume with
      | none => s
      | some o =>
        if l.phase ≠ .fixed ∨ o = 0 ∨ s.now ≠ l.tstart + o then s
        else
          let l : Launch := { l.logReplay s.now with phase := .running, resume := none, resumedFrom := o, ckpt := o }
          let s := (s.setLaunch l).installSegs l.lnr l.id l.opening
          let s := l.lnr.tiles.foldl (fun s p => s.resumeTile l o p.1 p.2) s
          ((s.postScripts l o).postBoundary l s.now).preemptAgain l.id)

/-! Pre-emption (R120, R157). -/

/-- A saved launch returns to the head of its queue, also of a full one (log 22, DESIGN CHOICE), or to its run as a ready node (R120). -/
def State.requeue (s : State) (l : Launch) : State :=
  match l.node with
  | none => s.onCtx l.cmd.ctx fun k => { k with queues := k.queues.modify l.cmd.queue fun q => { l.cmd with resume := some l.id } :: q }
  | some (run, node) => s.onRun run fun r => { r with nodes := r.nodes.set node (if r.fate.isSome then .dropped else .saved l.id) }
/-- A save has ended, made or not: the tiles are free. -/
def State.endSave (s : State) (l : Launch) (p : Nat) (made : Bool) : State :=
  let s := (s.leaveTiles l p (s.now + 1)).onRegion l fun _ _ t => { t with saved := 0, ckpts := t.ckpts.filter fun e => e.launch != l.id }
  let done : PreemptJob → PreemptJob := fun j => { j with left := j.left.filter (· != l.id), w1 := if made then s.now else j.w1, saved := j.saved || made }
  State.settlePreempts { s with preempts := s.preempts.map fun j => if j.left.contains l.id then done j else j }
/-- PREEMPT_SAVE_COMPLETE: every tile's save is complete: its payloads have left, and Markhor has written them (R120, R157, R159). A launch that a CANCEL after p ends here sends no DEVIATION_SUMMARY (R263; log 20, DESIGN CHOICE). -/
def execPreemptSaveComplete (s : State) : Res :=
  .next (match s.launchOf (s.arg.nat 0) with
    | none => s
    | some l =>
      match l.stop with
      | none => s
      | some st =>
        let p := st.b.getD 0
        if l.phase ≠ .saving ∨ !(l.lnr.tiles.all fun q => (s.tile q.1 q.2).saved == savePayloads) ∨ (s.up.any fun u => u.pre && u.own == l.id) = true then s
        else
          let s := s.endSave l p true
          if st.kind = .kill then (s.endLaunch l stCancelledRunning 0 (l.tstart0.getD 0) p {}).fixAll
          else
            let gone : Bool := match l.node with
              | some (run, _) => (s.runs.find? fun r => r.id == run).all fun r => r.fate.isSome
              | none => false
            let s := (s.setLaunch { l with phase := .saved, lf := none }).requeue l
            let s := if gone then s.releaseLaunch l else s
            let s := match l.node with | some (run, _) => s.settleRun run | none => s
            s.fixAll.wake)
/-- The payload of a save that Markhor could not write, for a reason and at an address. -/
def State.failedSave (s : State) (l : Launch) (perm va : Nat) : Option UpMsg :=
  s.up.find? fun u => u.pre && u.own == l.id && u.bad == 1 + perm && l.saveVa u.x u.y u.k == va
/-- PREEMPT_SAVE_FAILURE: a payload has met a translation or permission failure; the launch ends FAULTED, after the decision on the interval that p closed (R88, R157). -/
def execPreemptSaveFailure (s : State) : Res :=
  .next (match s.launchOf (s.arg.nat 0) with
    | none => s
    | some l =>
      match s.failedSave l (s.arg.nat 1) (s.arg.nat 2) with
      | none => s
      | some q =>
        let p := (l.stopAt).getD 0
        if l.phase ≠ .saving ∨ s.now ≤ p + 16 then s
        else
          let s := ((s.endSave l p false).summary l p)
          (s.endLaunch l stFaulted (if s.arg.nat 1 = 0 then 0x21 else 0x22) s.now p { x := q.x, y := q.y, entry := l.lnrIdx, xva := s.arg.nat 2 }).fixAll)

/-! Context kills (R83, R253). -/

/-- CONTEXT_KILL: the report of a frozen master or of a tainted interval reaches the dispatch unit (R253, R389). -/
def execContextKill (s : State) : Res :=
  let ctx := s.arg.nat 1
  .next (if s.arg.nat 0 = 0 then
      let x := s.arg.nat 2
      let y := s.arg.nat 3
      let t := s.tile x y
      match t.frz, s.launches.find? fun l => t.launch == some l.id with
      | some f, some l =>
        if l.cmd.ctx = ctx ∧ t.seq.mode = .frozen then
          s.killContext ctx (.ctxKill { x := x, y := y, entry := l.lnrIdx, xpc := f.xpc, xva := f.xva, xst := f.xst } f.at_)
        else s
      | _, _ => s
    else
      let unit := s.arg.nat 2
      let ids := (s.launches.filter fun l => l.cmd.ctx == ctx).map (·.id)
      if unit < 48 ∧ ((s.engines.getD (s.physEngine unit) Engine.idle).taints.any fun t => ids.contains t.1) = true then
        s.killContext ctx (.ctxKill { engine := unit, entry := s.arg.nat 3 } s.now)
      else s)

/-! Roving-line messages (R48, R67 to R70, R266, R267). -/

/-- START: every counter reads 6 on this cycle, and cycles are counted on it from now on (R48). The alignment points are those of the new count, and a pending change of n takes effect at the first of them (R31, R49). The cycle of the last change of n, where it came before START, is reported on the new count, and as 0 where that would be below 0 (R31; log 31, DESIGN CHOICE). -/
def State.restart (s : State) : State :=
  let back : Nat → Nat := fun c => c + 6 - s.now
  let late := s.agenda.filter fun d => !(d.item.isRow rowAlignPoint)
  let s : State := { s with
    now := 6, agenda := late.map fun d => { d with at_ := back d.at_ }, tiles := s.tiles.map fun e => (e.1, { e.2 with gofs := 0, earlyDeltas := [] })
    decidedAt := none, nAt := back s.nAt, overAt := back s.overAt, nNext := s.nNext.map fun e => (e.1, 65536) }
  s.postEv 65536 phModule rowAlignPoint []
/-- A TRIG reaches a tile: its capture window and its stop request count from the stamp (R266, R267). A later TRIG replaces the capture's end, also of a ring that already holds (log 10, DESIGN CHOICE). -/
def Tile.trigger (t : Tile) (stamp : Nat) : Tile :=
  let post := (t.dbg.toNat / 2 ^ 16)
  let t := { t with captureTo := some (stamp + post) }
  if t.dbg.getLsbD 3 then t.requestStop (stamp + post) else t
/-- A halt of which a message tells selects the stop of every launch (R70, R256). -/
def State.haltAll (s : State) (stamp cause : Nat) : State :=
  s.launches.foldl (fun s l => match s.launchOf l.id with | some l => s.haltLaunch l stamp cause | none => s) s
/-- ROVING_MESSAGE: a message reaches the tiles and the engines of a field (R69, R92). -/
def execRovingMessage (s : State) : Res :=
  let fx := s.arg.nat 0
  let fy := s.arg.nat 1
  let stamp := s.arg.nat 2
  let kind := s.arg.nat 3
  let cause := s.arg.nat 4
  .next (if kind = rovStart then s.restart
    else if kind = rovTrig then
      let here : Nat → Bool := fun k => s.fieldX (k % 256) == fx && fieldY (k / 256) == fy
      { s with tiles := (fillTiles (s.gridKeys.filter here) s.tiles).map fun e => if here e.1 then (e.1, e.2.trigger stamp) else e }
    else if (kind = rovAlert ∨ kind = rovThermal) ∧ s.halted = true then
      let hear : Engine → Engine := fun g => if g.stamps.contains stamp then g else { g with stamps := g.stamps ++ [stamp] }
      let s : State := { s with engines := s.engines.zipIdx.map fun g => if engineField g.2 = (fx, fy) then hear g.1 else g.1 }
      let s := s.haltAll stamp cause
      State.settleHalts { s with halts := s.halts.map fun h => if h.cause = cause ∧ h.stamp ≤ stamp then { h with heard := true } else h }
    else s)

end Sys2Proof.Machine
end

