-- ==== Sys2Proof/Machine/Boot.lean ====
section
/-! DEFINITION. Markhor: the staged boot, installations over the management port, the wafer tests, the clock, the thermal emergency, and the clock group (R24 to R32, R48, R128). -/

namespace Sys2Proof.Machine

/-! The staged boot (R22 to R27). -/

/-- The module enters a state. -/
def State.enter (s : State) (m : ModState) : State := State.moduleEvent { s with mode := m } 1
/-- A firmware stage verifies under the manufacturing key (R19, R24). -/
def FwImage.verifies (f : FwImage) (key : EcKey) : Bool := ecVerify key f.image f.sig
/-- Firmware stages from `i` on: each image's digest is extended before its signature is checked; true when all verify (R24, R25). -/
def State.bootFirmware (s : State) (i : Nat) : List FwImage → State × Bool
  | [] => (s, true)
  | f :: r => let s := s.extend i (sha384 f.image); if f.verifies s.vexKey then State.bootFirmware s (i + 1) r else (s, false)
/-- Stages 0 to 7 (R24): RECOVERY, SERVICE_ONLY, or the wide test of R26. The measured image of the map and of the list is the whole record, its signature included, and the module shows RESET while the test runs (logs 24, 31). The boot ends with the first stage that fails: stage 7 is not measured after a failure of stage 6 (log 31, DESIGN CHOICE). -/
def State.boot (s : State) : State :=
  let f := (s.extend 0 (sha384 s.rom)).bootFirmware 1 s.fw
  if !f.2 then f.1.enter .recovery
  else match f.1.map with
    | none => f.1.enter .serviceOnly
    | some m =>
      let s := f.1.extend 6 (sha384 (m.bytes ++ m.sig))
      if !(m.valid s.vexKey) then s.enter .serviceOnly
      else
        let s := s.extend 7 (sha384 s.remapImage)
        if s.remapOk && remapValid m.bytes s.remap then { s with testing := true } else s.enter .serviceOnly
/-- The machine as reset leaves it, with what Markhor keeps in nonvolatile storage, what the management port has configured, and DRAM (log 1, DESIGN CHOICE). -/
def State.powered (s : State) : State :=
  { State.reset with
    agenda := [], vexKey := s.vexKey, devKey := s.devKey, rom := s.rom, fw := s.fw, map := s.map, remap := s.remap, remapSig := s.remapSig
    exported := s.exported, mgmt := s.mgmt, ports := s.ports, allow := s.allow, group := s.group, groupMembers := s.groupMembers, tx := s.tx, dram := s.dram, fv := s.fv }
/-- POWER_ON_RESET: RESET, then the boot (R27). -/
def execPowerOnReset (s : State) : Res := .next s.powered.boot
/-- The failed tiles that an event names: field x, field y, column, row. -/
def failedTiles : Nat → List Nat → List RemapEntry
  | n + 1, fx :: fy :: col :: row :: r => ⟨fx, fy, row, col⟩ :: failedTiles n r
  | _, _ => []
def State.failedOf (s : State) : List RemapEntry := failedTiles s.arg.n.length s.arg.n
/-- A physical tile that is newly failed: neither the map nor the list names it. -/
def State.isNew (s : State) (e : RemapEntry) : Bool := rowEntryOf s.mapBytes s.remap e.fx e.fy e.prow != e.col
/-- A newly failed tile is bypassed, or reported over the management port, as no session is open (R22, R26; log 31, DEDUCED): whether the module may go on. Of several in one row the first listed is appended (log 31, DESIGN CHOICE). -/
def takeFailed (acc : State × Bool) (e : RemapEntry) : State × Bool :=
  let q := acc.1.appendRemap e
  if q.2 then (q.1, acc.2) else ({ q.1 with mgmt := q.1.mgmt ++ [.failed e] }, false)
/-- BUILT_IN_TEST_COMPLETE: new failures are bypassed, or are reported and keep the module in SERVICE_ONLY; after the test START goes out (R26, R48). -/
def execBuiltInTestComplete (s : State) : Res :=
  .next (if !s.testing then s
    else
      let s : State := { s with testing := false }
      let r := (s.failedOf.filter s.isNew).foldl takeFailed (s, true)
      (r.1.enter (if r.2 then .ready else .serviceOnly)).roveMarkhor rovStart 0)

/-! Installations (R22, R27, R28). -/

/-- FIRMWARE_INSTALL, in RECOVERY (R27): the stage's image and signature, the last 96 bytes, are stored. Nothing else happens: the module stays in RECOVERY until a reset; in READY, which takes all commands, it is not taken (log 31, DESIGN CHOICE). -/
def execFirmwareInstall (s : State) : Res :=
  let k := s.arg.nat 0
  let b := s.arg.bytes
  .next (if s.mode = .recovery ∧ 1 ≤ k ∧ k ≤ 5 then { s with fw := s.fw.set (k - 1) ⟨b.take (b.length - 96), b.drop (b.length - 96)⟩ } else s)
/-- MAP_INSTALL: a map that verifies replaces the old one, empties the remap list, and the module restarts from RESET (R22, R23, R28). -/
def execMapInstall (s : State) : Res :=
  let m : DefectMap := { bytes := s.arg.bytes.take 0x2B20, sig := s.arg.bytes.drop 0x2B20 }
  .next (if (s.mode = .serviceOnly ∨ s.mode = .ready) ∧ m.valid s.vexKey = true then
      ({ s with map := some m, remap := [], remapSig := s.devSign (remapBytes []), fv := s.fv + 1 } : State).powered.boot
    else s)
/-- FULL_WAFER_SELF_TEST: requested over the management port (R28). It is taken in READY too, and launches that run go on (log 31, DESIGN CHOICE). -/
def execFullWaferSelfTest (s : State) : Res := .next (if s.mode = .serviceOnly ∨ s.mode = .ready then { s with fullTest := true } else s)
/-- Failed tiles in one physical row. -/
def rowFails (failed : List RemapEntry) (fx fy r : Nat) : List RemapEntry := failed.filter fun e => e.fx == fx && e.fy == fy && e.prow == r
/-- The row entries of a candidate map that leaves a field column out: the failed tile of each row. Of two failed tiles in a row the first that the test names stands there (log 31, DESIGN CHOICE). -/
def candidateRows (failed : List RemapEntry) (excl : Nat) : List Byte :=
  (List.range 2304).map fun i =>
    let fx := i / 16 % 12
    match rowFails failed fx (i / 192) (i % 16) with
    | e :: _ => if fx = excl then 0x1F else BitVec.ofNat 8 e.col
    | [] => 0x1F
/-- Every row outside a field column is repairable: it has at most one failed tile, and R15 binds it (R17). -/
def candidateOk (failed : List RemapEntry) (excl : Nat) : Bool :=
  let map := List.replicate 0x18 0 ++ candidateRows failed excl
  allRows excl fun fx fy r => decide ((rowFails failed fx fy r).length ≤ 1) && repairable map [] excl fx fy r
/-- SKU and excluded column of a candidate map (R17): column 0 or 11 is left out when its routers and links pass, as bits 0 and 1 of `links` say. A part that is not to be shipped shows SKU 0 (log 31, DESIGN CHOICE). -/
def candidateSku (failed : List RemapEntry) (links : Nat) : Nat × Nat :=
  if candidateOk failed 0xFF then (0, 0xFF)
  else if bitAt links 0 && candidateOk failed 0 then (1, 0)
  else if bitAt links 1 && candidateOk failed 11 then (1, 11)
  else (0, 0xFF)
/-- The candidate map of a full test (R19, R28): its failed tiles and the trims it measured; the serial number is that of the installed map, or zero (log 31, DESIGN CHOICE); the signature bytes are zero. -/
def State.candidateMap (s : State) (links : Nat) (failed : List RemapEntry) (trims : List Byte) : List Byte :=
  let sku := candidateSku failed links
  let serial := slice s.mapBytes 8 16
  leBytes 4 0x4D44574F ++ leBytes 2 1 ++ leBytes 1 sku.1 ++ leBytes 1 sku.2 ++ (serial ++ List.replicate (16 - serial.length) 0)
    ++ candidateRows failed sku.2 ++ (trims.take 8712 ++ List.replicate (8712 - trims.length) 0) ++ List.replicate 96 0
/-- FULL_WAFER_SELF_TEST_COMPLETE: the candidate map is exported (R28). -/
def execFullWaferSelfTestComplete (s : State) : Res :=
  .next (if s.fullTest then
      { s with fullTest := false, exported := s.candidateMap (s.arg.nat 0) (failedTiles s.arg.n.length (s.arg.n.drop 1)).eraseDups s.arg.bytes }
    else s)

/-! The clock (R4, R31, R128). -/

/-- The next alignment point on the reference count. -/
def State.nextAlign (s : State) : Nat := (s.now / 65536 + 1) * 65536
/-- n, or what the alignment point in progress makes of it (R53). -/
def State.clock (s : State) : Nat := s.nDue.getD s.n
/-- n becomes `k`, by at most 4, at the next alignment point; one that it has already is no change (R31). Of two changes asked for before one point the later stands, and one to the present n withdraws the other (log 31, DESIGN CHOICE). -/
def State.clockTo (s : State) (k : Nat) : State :=
  let k := min 64 (max 32 (min (s.clock + 4) (max (s.clock - 4) k)))
  if k = s.clock then { s with nNext := none } else State.postPoint { s with nNext := some (k, s.nextAlign) } s.nextAlign
/-- CLOCK_LOWER: a reading has exceeded its limit (R31). -/
def execClockLower (s : State) : Res := .next (State.clockTo { s with overAt := s.now } (s.clock - max 1 (s.arg.nat 0)))
/-- CLOCK_RAISE, after 64 alignment points with all readings under limit; then n may rise at each point, but not while a change is pending (R31; log 31, DESIGN CHOICE). -/
def execClockRaise (s : State) : Res :=
  .next (if s.now / 65536 ≥ s.overAt / 65536 + 64 ∧ s.nNext.isNone then s.clockTo (s.clock + max 1 (s.arg.nat 0)) else s)
/-- CLOCK_GROUP_CONFIG, over the management port (R27, R128). -/
def execClockGroupConfig (s : State) : Res := .next (if s.managed then { s with group := s.arg.nat 0, groupMembers := s.arg.n.drop 1 } else s)
/-- CLOCK_GROUP_N_CHANGE: a change that a member has requested (R128). -/
def execClockGroupNChange (s : State) : Res := .next (s.clockTo (s.arg.nat 0))
/-- A number of a sign and a magnitude. -/
def signed (sign mag : Nat) : Int := if sign = 1 then -(mag : Int) else mag
/-- PTP_MESSAGE: the last offset from the timescale, and the steering, at most 10 ppm (R128). -/
def execPtpMessage (s : State) : Res :=
  .next { s with
    ptpOffset := signed (s.arg.nat 0) (s.arg.nat 1), ptpPpm := max (-10) (min 10 (signed (s.arg.nat 2) (s.arg.nat 3))) }

/-! Heat (R32). -/

/-- THERMAL_EMERGENCY: THERMAL goes out, and every launch stops (R32). The module stays READY until the last launch that it stops has stopped (State.settleHalts; log 31, DEDUCED). In any other state it has no effect: R27 and R32 name no state that it may come in, and R32 ends in READY (log 31, DESIGN CHOICE). -/
def execThermalEmergency (s : State) : Res :=
  .next (if s.mode ≠ .ready then s
    else
      let s : State := { s with halted := true, halts := s.halts ++ [⟨s.now, 0xA4, 3, 0, 0, 0, false⟩] }
      s.roveMarkhor rovThermal 0xA4)
/-- THERMAL_RECOVERY: dispatch resumes with the queues as they stood (R32). A module that may dispatch nothing more goes on to SERVICE_ONLY (R257; log 31, DESIGN CHOICE). -/
def execThermalRecovery (s : State) : Res :=
  .next (if s.mode ≠ .thermalHalt then s
    else (State.enter { s with halted := !s.halts.isEmpty } .ready).settleHalts.settleService.fixAll.wake)

end Sys2Proof.Machine
end

