-- ==== Sys2Proof/Machine/Host.lean ====
section
/-! DEFINITION. Contexts, cancel, pre-emption, graphs, host DRAM access, queries: what each host command does when it acts (R101 to R126).

An immediate kind acts at its receive cycle, a queued kind at its dispatch (R108). The operands of a command's event are its session, context, queue, tag and dependences; its bytes are the body. -/

namespace Sys2Proof.Machine

/-- The command in execution. -/
def State.cmdOf (s : State) (kind : Nat) : Cmd :=
  { sess := s.arg.nat 0, ctx := s.arg.nat 1, queue := s.arg.nat 2, kind := kind, tag := s.arg.nat 3, deps := s.arg.n.drop 4
    body := s.arg.bytes, resume := none }
/-- A context is open. -/
def Context.isOpen (k : Context) : Bool := k.opening != 0
def State.isOpen (s : State) (c : Nat) : Bool := decide (c < 16) && (s.ctx c).isOpen
/-- The command acts in its context, which must be open (R105). -/
def State.inContext (s : State) (cmd : Cmd) (f : State → State) : State :=
  if s.isOpen cmd.ctx then f s else s.refuse cmd stRefusedContext

/-- A tag is still pending in a context (R104). The commands with CTX 0xFF of all sessions share one space of tags (log 22, DESIGN CHOICE). -/
def State.pending (s : State) (ctx tag : Nat) : Bool :=
  let k := s.ctx ctx
  (decide (ctx < 16) && (k.queues.any (fun q => q.any fun c => c.tag == tag) || k.closeCmd.any fun c => c.tag == tag))
    || (s.launches.any fun l => l.cmd.ctx == ctx && l.cmd.tag == tag) || (s.runs.any fun r => r.cmd.ctx == ctx && r.cmd.tag == tag)
    || (s.jobs.any fun j => j.cmd.ctx == ctx && j.cmd.tag == tag) || (s.loads.any fun j => j.cmd.ctx == ctx && j.cmd.tag == tag)
    || (s.preempts.any fun p => p.cmd.ctx == ctx && p.cmd.tag == tag) || s.ending.any fun e => e.cmd.ctx == ctx && e.cmd.tag == tag

/-! Contexts (R105, R114, R121). -/

/-- OPEN_CONTEXT (R105). -/
def execOpenContext (s : State) : Res :=
  let cmd := s.cmdOf 1
  let b := cmd.body
  .next (if !(decide (cmd.ctx < 16)) ∨ s.isOpen cmd.ctx then s.refuse cmd stRefusedContext
    else
      let s : State := { s with openings := s.openings + 1 }
      let s := s.setCtx cmd.ctx { Context.closed with
        opening := s.openings, owner := cmd.sess, ptBase := leAt b 0 8, ptCount := leAt b 8 4, level := leAt b 12 1 }
      s.endDone cmd)
/-- What is queued in a context ends CLOSED; what runs is killed; the context closes when the last of it has ended (R121). A pre-empted launch that waits in its queue counts as queued (log 22, DESIGN CHOICE). -/
def State.closeContext (s : State) (c : Nat) (cmd : Option Cmd) : State :=
  let all := (s.ctx c).queues.flatMap id
  let ids := all.filterMap (·.resume)
  let s := s.onCtx c fun k => { k with queues := k.queues.map fun _ => [], closing := true, closeCmd := cmd }
  let s : State := { s with launches := s.launches.filter fun l => !ids.contains l.id }
  let s := all.foldl (fun s q => (s.keepTag q stClosed).final q stClosed 0 0 0 [] {}) s
  let s := (s.runs.filter fun r => r.cmd.ctx == c).foldl (fun s r =>
    (s.dropSaved r).onRun r.id fun r => r.drop ⟨stCancelledRunning, 0, 0, 0, {}⟩) s
  let s := s.killContext c .kill
  let s := (s.runs.filter fun r => r.cmd.ctx == c).foldl (fun s r => s.settleRun r.id) s
  s.settleClose c
/-- CLOSE_CONTEXT (R121). -/
def execCloseContext (s : State) : Res :=
  let cmd := s.cmdOf 2
  .next (s.inContext cmd fun s => if (s.ctx cmd.ctx).closing then s.refuse cmd stRefusedContext else s.closeContext cmd.ctx (some cmd))
/-- SET_DETERMINISM (R114). -/
def execSetDeterminism (s : State) : Res :=
  let cmd := s.cmdOf 11
  .next (s.inContext cmd fun s => (s.onCtx cmd.ctx fun k => { k with level := leAt cmd.body 0 1 }).endDone cmd)

/-! Cancel and pre-emption (R118 to R120, R155). -/

/-- A launch that is not a node's and counts as dispatched and not ended (R118). -/
def Launch.live (l : Launch) : Bool := !(l.phase == .killed || l.phase == .retired || l.phase == .saved)
/-- CANCEL (R118). A pre-empted launch that waits in its queue counts as undispatched (log 22, DESIGN CHOICE). -/
def execCancel (s : State) : Res :=
  let cmd := s.cmdOf 10
  let tag := leAt cmd.body 0 8
  .next (s.inContext cmd fun s =>
    match (s.ctx cmd.ctx).queues.findSome? fun q => q.find? fun c => c.tag == tag with
    | some q =>
      let s := s.onCtx cmd.ctx fun k => { k with queues := k.queues.map (removeTag tag) }
      let s : State := { s with launches := s.launches.filter fun l => q.resume != some l.id }
      ((s.endCmd q stCancelled 0 0 0 [] {}).settleClose cmd.ctx).endDone cmd
    | none =>
      match s.launches.find? fun l => l.cmd.ctx == cmd.ctx && l.cmd.tag == tag && l.node.isNone && l.live with
      | some l => (s.killLaunch l .kill).endDone cmd
      | none =>
        match s.runs.find? fun r => r.cmd.ctx == cmd.ctx && r.cmd.tag == tag with
        | some r =>
          let s := (s.dropSaved r).onRun r.id fun r => r.drop ⟨stCancelledRunning, 0, 0, 0, {}⟩
          let mine := s.launches.filter fun l => l.node.map (·.1) == some r.id
          let s := mine.foldl (fun s l => match s.launchOf l.id with | some l => s.killLaunch l .kill | none => s) s
          (s.settleRun r.id).endDone cmd
        | none => s.endCmd cmd stNoEffect 0 0 0 [] {})
/-- A launch runs from its TSTART, or its Rs, on, also before the event of that cycle has come (R141). -/
def Launch.runs (l : Launch) (now : Nat) : Bool := l.phase == .running || (l.phase == .fixed && decide (l.runStart ≤ now))
/-- A launch that a PREEMPT acts on, with the stop cycle p that it chooses: no stop is pending but that of a halt, with no kill and no PREEMPT behind it (R120, R155, R159). -/
def State.preemptible (s : State) (l : Launch) : Option Nat :=
  let free := match l.stop with | none => true | some st => st.isHalt && l.behind.isNone && !l.preemptAgain
  if l.runs s.now = true ∧ free = true ∧ l.lnr.psave ≠ 0 ∧ l.scripts.all (fun c => decide (c.unit < 48)) = true then l.firstStop (s.now + 48) else none
/-- A PREEMPT chooses p. Under a pending halt, which counts p as a boundary, the halt governs and p is chosen again after the replay (R155, R159; log 33, DEDUCED). -/
def State.choosePreempt (s : State) (l : Launch) (p : Nat) : State :=
  match l.stop with
  | none => s.setStop l ⟨s.now + 48, some p, .preempt⟩
  | some st =>
    let l : Launch := { l with preemptAgain := true }
    if notAfter st.b (some p) then s.setLaunch l else s.setStop l { st with b := some p }
/-- PREEMPT: each target that runs stops at its first stop cycle from now + 48 on (R120, R155, R159). It acts on those of its targets that can stop, and has no effect when none can (log 22, DESIGN CHOICE). -/
def execPreempt (s : State) : Res :=
  let cmd := s.cmdOf 12
  let tag := leAt cmd.body 0 8
  .next (s.inContext cmd fun s =>
    let mine := s.launches.filter fun l => l.cmd.ctx == cmd.ctx && (tag == 2 ^ 64 - 1 || l.cmd.tag == tag)
    let hit := mine.filterMap fun l => (s.preemptible l).map fun p => (l, p)
    if hit.isEmpty then s.endCmd cmd stNoEffect 0 0 0 [] {}
    else
      let s := hit.foldl (fun s e => s.choosePreempt e.1 e.2) s
      { s with preempts := s.preempts ++ [{ cmd := cmd, left := hit.map (·.1.id), w1 := 0, saved := false }] })

/-! Graphs (R102, R115 to R117). -/

def words (b : List Byte) (off n : Nat) : List Nat := (List.range n).map fun i => leAt b (off + 4 * i) 4
def nodeAt (b : List Byte) : NodeRec :=
  { img := leAt b 0 8, lnr := leAt b 8 2, pfirst := leAt b 10 2, pcount := leAt b 12 2, saidx := leAt b 14 2, pred := leAt b 16 8 }
def graphOf (b : List Byte) : Graph :=
  let n := leAt b 1 1
  { gid := leAt b 0 1, nodes := (List.range n).map fun i => nodeAt (slice b (8 + 32 * i) 32), params := words b (8 + 32 * n) (leAt b 2 2) }
/-- R102 on a definition. -/
def Graph.ok (g : Graph) (b : List Byte) : Bool :=
  g.nodes.zipIdx.all fun e =>
    decide (e.1.pcount ≤ 1024) && decide (e.1.pfirst + e.1.pcount ≤ g.params.length) && decide (e.1.pred < 2 ^ e.2)
      && (e.1.saidx == 0xFFFF || decide (e.1.saidx + 1 < g.params.length)) && leAt b (8 + 32 * e.2 + 24) 8 == 0
def Context.graph (k : Context) (gid : Nat) : Option Graph := k.graphs.find? fun g => g.gid == gid
def Context.putGraph (k : Context) (g : Graph) : Context := { k with graphs := g :: k.graphs.filter fun o => o.gid != g.gid }
/-- GRAPH_DEFINE (R115). -/
def execGraphDefine (s : State) : Res :=
  let cmd := s.cmdOf 7
  let g := graphOf cmd.body
  .next (s.inContext cmd fun s =>
    if g.ok cmd.body then (s.onCtx cmd.ctx fun k => k.putGraph g).endDone cmd else s.endCmd cmd stRefusedFormat 0 0 0 [] {})
/-- GRAPH_RUN: the run is in flight on its snapshot (R116). -/
def execGraphRun (s : State) : Res :=
  let cmd := s.cmdOf 8
  .next (s.inContext cmd fun s =>
    let k := s.ctx cmd.ctx
    match k.graph (leAt cmd.body 0 1) with
    | some g =>
      let r : Run := { id := s.nextId, cmd := cmd, graph := g, level := k.level, nodes := g.nodes.map fun _ => .waiting, fate := none, w0 := none, w1 := 0 }
      State.wake { s with runs := s.runs ++ [r], nextId := s.nextId + 1 }
    | none => s.endCmd cmd stRefusedFormat 0 0 0 [] {})
/-- GRAPH_PATCH (R117). -/
def execGraphPatch (s : State) : Res :=
  let cmd := s.cmdOf 9
  let first := leAt cmd.body 2 2
  let count := leAt cmd.body 4 2
  .next (s.inContext cmd fun s =>
    match (s.ctx cmd.ctx).graph (leAt cmd.body 0 1) with
    | some g =>
      if first + count ≤ g.params.length then
        let g' := { g with params := g.params.take first ++ words cmd.body 8 count ++ g.params.drop (first + count) }
        (s.onCtx cmd.ctx fun k => k.putGraph g').endDone cmd
      else s.endCmd cmd stRefusedFormat 0 0 0 [] {}
    | none => s.endCmd cmd stRefusedFormat 0 0 0 [] {})

/-! Host DRAM access (R93, R122, R236). -/

/-- The physical flits of a host access, or the cause that ends it (R89, R122). -/
def State.hostFlits (s : State) (ctx addr n : Nat) (wr : Bool) : Nat ⊕ List Nat :=
  if ctx ≥ 16 then .inr ((List.range n).map fun k => addr + 64 * k)
  else
    let tbl := s.table ctx
    let at_ : Nat → Nat ⊕ Nat := fun k =>
      match tbl.bind fun l => findPte l (addr + 64 * k) with
      | none => .inl 0x24
      | some e =>
        let pa := e.pa + (addr + 64 * k - e.va)
        if !(if wr then e.wr else e.rd) then .inl 0x25 else if pa + 64 > dramTop then .inl 0x26 else .inr pa
    (List.range n).foldl (fun acc k => match acc with
      | .inl c => .inl c
      | .inr l => match at_ k with | .inl c => .inl c | .inr pa => .inr (l ++ [pa])) (.inr [])
/-- The session has the ADMIN role. -/
def State.isAdmin (s : State) (sid : Nat) : Bool := match s.session sid with | some e => e.admin | none => false
/-- What keeps a host access with CTX 0xFF from acting (R29, R105, R122). -/
def State.physRefusal (s : State) (cmd : Cmd) (addr len : Nat) : Option Nat :=
  if !s.isAdmin cmd.sess then some stRefusedPrivilege
  else if s.mode ≠ .ready then some stRefusedState
  else if addr + len > dramTop then some stRefusedFormat else none
/-- A host DRAM command acts: it is refused or fails, or its flits are to be performed (R122, R123). -/
def State.hostAccess (s : State) (cmd : Cmd) (wr : Bool) (addr len : Nat) (data : List Byte) : State :=
  let stop := if cmd.ctx < 16 then (if s.isOpen cmd.ctx then none else some stRefusedContext) else s.physRefusal cmd addr len
  match stop with
  | some st => s.refuse cmd st
  | none =>
    match s.hostFlits cmd.ctx addr (len / 64) wr with
    | .inl cause => s.endCmd cmd stFaulted cause s.now 0 [] {}
    | .inr pas =>
      if wr && pas.any s.imageFlit then s.endCmd cmd stRefusedImage 0 0 0 [] {}
      else
        let pend := pas.zipIdx.map fun e => (e.2, e.1, if wr then slice data (64 * e.2) 64 else [])
        let load := (pas.map (· / 2 ^ 36)).eraseDups.map fun k => (k, (pas.filter fun p => p / 2 ^ 36 == k).length)
        { s with jobs := s.jobs ++ [{ cmd := cmd, write := wr, d := s.now, load := load, pend := pend, got := [], lo := none, hi := none }] }
/-- WRITE_DRAM (R122). -/
def execWriteDram (s : State) : Res :=
  let cmd := s.cmdOf 4
  .next (s.hostAccess cmd true (leAt cmd.body 0 8) (cmd.body.length - 8) (cmd.body.drop 8))
/-- READ_DRAM (R122). -/
def execReadDram (s : State) : Res :=
  let cmd := s.cmdOf 5
  .next (s.hostAccess cmd false (leAt cmd.body 0 8) (leAt cmd.body 8 4) [])
/-- The flits of a read in address order. -/
def HostJob.data (j : HostJob) : List Byte :=
  (List.range j.got.length).flatMap fun k => ((j.got.find? fun e => e.1 == k).map (·.2)).getD []
/-- Cycles of an engine's host share, from `a` on, for m flits: the spans taken afterwards, and the last of the cycles (R93). -/
def takeShare : List (Nat × Nat) → Nat → Nat → List (Nat × Nat) × Nat
  | [], a, m => ([(a, m)], a + m - 1)
  | (b, k) :: r, a, m =>
    if b + k ≤ a then let u := takeShare r a m; ((b, k) :: u.1, u.2)
    else if a + m ≤ b then ((a, m) :: (b, k) :: r, a + m - 1)
    else
      let u := takeShare r (b + k) (m - (b - a))
      (if a < b then (a, b - a) :: (b, k) :: u.1 else (b, k) :: u.1, u.2)
/-- The engines once a job has taken its cycles of their shares; none while they cannot all have passed (R93). -/
def State.shares (s : State) (j : HostJob) : Option (List Engine) :=
  let least := s.jobs.foldl (fun acc o => min acc o.d) s.now
  j.load.foldl (fun acc e => acc.bind fun gs =>
    let g := gs.getD e.1 Engine.idle
    let u := takeShare (g.share.filter fun b => decide (least < b.1 + b.2)) (j.lo.getD s.now) e.2
    if u.2 ≤ s.now then some (gs.set e.1 { g with share := u.1 }) else none) (some s.engines)
/-- W0 of a host access: a free cycle from the first on which a flit could be performed, to the one by which a flit is known to have been, or to the last from which every stack has a cycle for each flit (R93, R122; log 10, DESIGN CHOICE). -/
def State.hostW0 (s : State) (j : HostJob) : Nat :=
  let lo := j.lo.getD s.now
  let most := j.load.foldl (fun acc e => max acc e.2) 1
  lo + Config.freeNat s.fv % (min (j.hi.getD s.now) (s.now + 1 - most) - lo + 1)
/-- HOST_DRAM_ACCESS_COMPLETE: every flit has been performed, one a cycle in each stack; a write waits for the launches that have pinned its pages for writing (R93, R122). -/
def execHostDramAccessComplete (s : State) : Res :=
  let ctx := s.arg.nat 0
  let tag := s.arg.nat 1
  .next (match s.jobs.find? fun j => j.cmd.ctx == ctx && j.cmd.tag == tag with
    | none => s
    | some j =>
      if j.write && j.pend.any fun e => s.pinnedWr e.2.1 then s
      else match s.shares j with
        | none => s
        | some gs =>
          let drop : State := { s with jobs := s.jobs.erase j, engines := gs, fv := s.fv + 1 }
          if j.write then
            let s' := j.pend.foldl (fun s e => s.writeDram e.2.1 e.2.2) drop
            (s'.endCmd j.cmd stDone 0 (s.hostW0 j) s.now [] {}).settleClose ctx
          else
            let r := j.pend.foldl (fun (acc : State × HostJob) e =>
              let q := acc.1.readFlit e.2.1
              (q.1, { acc.2 with got := acc.2.got ++ [(e.1, q.2)] })) (drop, j)
            (r.1.endCmd j.cmd stDone 0 (s.hostW0 j) s.now r.2.data {}).settleClose ctx)

/-! Query, attestation, subscription (R59 to R61, R124 to R126). -/

/-- The serial number of the part (R19, R25): that of the installed map. With no map installed (R27) it is 16 zero bytes, and QUERY gives SKU 0, excluded column 0xFF and an empty defect map (R124; log 31, DESIGN CHOICE). -/
def State.serial (s : State) : List Byte := let l := slice s.mapBytes 8 16; l ++ List.replicate (16 - l.length) 0
/-- A field node's record (R60). -/
def State.fieldRecord (s : State) (g : Segment) (fx fy : Nat) : Nat :=
  let ms := g.members.filter fun m => s.fieldX m.x == fx && fieldY m.y == fy
  let bits : List Member → Nat := fun l => l.foldl (fun acc m => acc ||| 2 ^ (m.x % 16 + 16 * (m.y % 16))) 0
  2 ^ 543 + g.lvl * 2 ^ 541 + g.gid * 2 ^ 531 + s.band g * 2 ^ 529 + bits ms * 2 ^ 256 + bits (ms.filter (·.exc))
/-- A segment's record in one of its nodes (R60, R61). -/
def State.nodeRecord (s : State) (g : Segment) (n : Node) : List Byte :=
  let head := 2 ^ 31 + g.lvl * 2 ^ 29 + g.gid * 2 ^ 19
  let ns := s.segNodes g
  match n with
  | (0, fx, fy) => leBytes 68 (s.fieldRecord g fx fy)
  | (1, gx, gy) =>
    let mask := ns.foldl (fun acc m => if m.1 = 0 ∧ m.2.1 / 3 = gx ∧ m.2.2 / 3 = gy then acc ||| 2 ^ (m.2.1 % 3 + 3 * (m.2.2 % 3)) else acc) 0
    leBytes 4 (head + s.band g * 2 ^ 17 + mask)
  | (_, _, _) =>
    let mask := ns.foldl (fun acc m => if m.1 = 1 then acc ||| 2 ^ (m.2.1 + 4 * m.2.2) else acc) 0
    leBytes 4 (head + mask)
/-- The reply body of a QUERY; none for a selector or a CTX that is not listed (R124; widths: log 10, DESIGN CHOICE; the packets counted, and a resumed launch's TSTART: log 22, DESIGN CHOICE). -/
def State.queryBody (s : State) (cmd : Cmd) (sel : Nat) : Option (List Byte) :=
  let mine := s.launches.filter fun l => l.cmd.ctx == cmd.ctx && l.runs s.now
  let k := s.ctx cmd.ctx
  let tree := (mine.filter fun l => l.phase == .fixed).foldl (fun s l => s.installSegs l.lnr l.id l.opening) s
  match sel with
  | 1 => some (leBytes 1 (modCode s.mode) ++ leBytes 1 s.sku ++ leBytes 1 s.excluded ++ leBytes 1 s.n ++ leBytes 8 s.nAt ++ leBytes 8 s.now
      ++ leBytes 4 s.remap.length)
  | 2 => if cmd.ctx = 0xFF then some (match s.map with | some m => m.bytes ++ m.sig | none => []) else none
  | 3 => if cmd.ctx = 0xFF then some s.remapImage else none
  | 4 => if cmd.ctx < 16 then some (leBytes 1 k.level ++ (k.queues.flatMap fun q => leBytes 2 q.length)
      ++ (mine.flatMap fun l => leBytes 8 l.cmd.tag ++ leBytes 8 (l.tstart0.getD l.tstart)) ++ k.images.flatMap fun i => leBytes 8 i.id) else none
  | 5 => if cmd.ctx < 16 then some ((tree.segs.filter fun g => g.members.any fun m => mine.any fun l => l.id == m.launch).flatMap fun g =>
      (s.segNodes g).flatMap fun n => s.nodeRecord g n) else none
  | 6 => (match s.session cmd.sess with
      | some e => let p := s.ports.getD e.port HostPort.fresh; some (leBytes 8 p.packets ++ leBytes 8 p.discards ++ leBytes 8 p.retrans)
      | none => some (leBytes 24 0))
  | 7 => if cmd.ctx = 0xFF then some (leBytes 4 s.group ++ leBytes 8 (wrapN 64 s.ptpOffset)) else none
  | _ => none
/-- QUERY (R124). -/
def execQuery (s : State) : Res :=
  let cmd := s.cmdOf 13
  .next (match s.queryBody cmd (leAt cmd.body 0 2) with
    | some b => if cmd.ctx < 16 ∧ !s.isOpen cmd.ctx then s.refuse cmd stRefusedContext else s.endCmd cmd stDone 0 0 0 b {}
    | none => s.refuse cmd stRefusedFormat)
/-- What ATTEST returns for a nonce: measurement registers, serial number and nonce, the device key's signature over them, and its certificates, each after its length (R125). -/
def State.attestation (s : State) (nonce : List Byte) : List Byte :=
  let b := s.meas.flatMap id ++ s.serial ++ nonce
  b ++ s.devSign b ++ Config.certChain.flatMap fun c => leBytes 4 c.length ++ c
/-- ATTEST (R125): a session's is answered with its COMPLETION, one that came over the management port (session 0) over that port (R10, R27). -/
def execAttest (s : State) : Res :=
  let cmd := s.cmdOf 14
  let b := s.attestation (cmd.body.take 32)
  let s : State := { s with fv := s.fv + 1 }
  .next (if cmd.sess = 0 then (if s.mode = .reset then s else { s with mgmt := s.mgmt ++ [.attest b] })
    else s.endCmd cmd stDone 0 0 0 b {})
/-- SUBSCRIBE (R126). -/
def execSubscribe (s : State) : Res :=
  let cmd := s.cmdOf 15
  let mask := leAt cmd.body 0 4
  .next (if cmd.ctx < 16 ∧ !s.isOpen cmd.ctx then s.refuse cmd stRefusedContext
    else if cmd.ctx < 16 ∧ (s.ctx cmd.ctx).owner ≠ cmd.sess ∧ !s.isAdmin cmd.sess then s.refuse cmd stRefusedPrivilege
    else
      let put : Session → Session := fun e =>
        { e with subs := (if mask = 0 then [] else [(cmd.ctx, mask)]) ++ e.subs.filter fun u => u.1 != cmd.ctx }
      let s := match s.session cmd.sess with | some e => s.setSession (put e) | none => s
      s.endCmd cmd stDone 0 0 0 [] {})

end Sys2Proof.Machine
end

