-- ==== Sys2Proof/Machine/Chital.lean ====
section
/-! DEFINITION. The host ports: Chital packets, sessions, messages, and the receipt of a command (R94 to R108). -/

namespace Sys2Proof.Machine

/-! The command header and its checks (R100 to R106). -/

/-- Queued kinds (R101); the two DRAM kinds are immediate with CTX 0xFF. -/
def queuedKind (kind ctx : Nat) : Bool :=
  match kind with
  | 3 | 6 | 7 | 8 | 9 | 11 => true
  | 4 | 5 => ctx != 0xFF
  | _ => false
/-- CTX is permitted for a kind (R101, R105). -/
def ctxOk (kind ctx : Nat) : Bool :=
  match kind with
  | 4 | 5 | 13 | 15 => decide (ctx < 16) || ctx == 0xFF
  | 14 => ctx == 0xFF
  | _ => decide (ctx < 16)
/-- The bytes from `a` on, `n` of them, are zero. -/
def zeros (b : List Byte) (a n : Nat) : Bool := leAt b a n == 0
/-- A byte count of a host access (R101). -/
def spanOk (n : Nat) : Bool := decide (64 ≤ n) && decide (n ≤ 2 ^ 24) && n % 64 == 0
/-- A body's length, ranges and reserved fields (R101, R103, R124, R126). -/
def bodyOk (kind ctx : Nat) (b : List Byte) : Bool :=
  let n := b.length
  match kind with
  | 1 => n == 16 && leAt b 0 8 % 4096 == 0 && decide (1 ≤ leAt b 8 4) && decide (leAt b 8 4 ≤ 1048576) && decide (leAt b 12 1 ≤ 2) && zeros b 13 3
  | 2 => n == 0
  | 3 => n == 24 && leAt b 0 8 % 4096 == 0 && decide (1 ≤ leAt b 8 8) && decide (leAt b 8 8 ≤ 2 ^ 32)
  | 4 => decide (8 ≤ n) && spanOk (n - 8) && leAt b 0 8 % 64 == 0
  | 5 => n == 16 && leAt b 0 8 % 64 == 0 && spanOk (leAt b 8 4) && zeros b 12 4
  | 6 => decide (24 ≤ n) && n == 24 + leAt b 10 2 && decide (leAt b 10 2 ≤ 4096) && leAt b 10 2 % 4 == 0 && zeros b 12 4
  | 7 => decide (8 ≤ n) && decide (leAt b 0 1 ≤ 63) && decide (1 ≤ leAt b 1 1) && decide (leAt b 1 1 ≤ 64) && decide (leAt b 2 2 ≤ 1024) && zeros b 4 4
      && n == 8 + 32 * leAt b 1 1 + 4 * leAt b 2 2
  | 8 => n == 8 && decide (leAt b 0 1 ≤ 63) && zeros b 1 7
  | 9 => decide (8 ≤ n) && decide (leAt b 0 1 ≤ 63) && zeros b 1 1 && decide (1 ≤ leAt b 4 2) && decide (leAt b 4 2 ≤ 1024) && zeros b 6 2
      && n == 8 + 4 * leAt b 4 2
  | 10 => n == 8
  | 11 => n == 8 && decide (leAt b 0 1 ≤ 2) && zeros b 1 7
  | 12 => n == 8
  | 13 => n == 8 && zeros b 2 6 && (let q := leAt b 0 2
      decide (1 ≤ q) && decide (q ≤ 7) && (if q = 4 ∨ q = 5 then decide (ctx < 16) else if q = 2 ∨ q = 3 ∨ q = 7 then ctx == 0xFF else true))
  | 14 => n == 32
  | 15 => n == 8 && decide (leAt b 0 4 < 32) && zeros b 4 4
  | _ => false
/-- A command message (R100). -/
def cmdAt (sid : Nat) (m : List Byte) : Cmd :=
  let nd := leAt m 3 1
  { sess := sid, ctx := leAt m 1 1, queue := leAt m 2 1, kind := leAt m 0 1, tag := leAt m 8 8, deps := (List.range nd).map fun i => leAt m (32 + 8 * i) 8
    body := m.drop (32 + 8 * nd), resume := none }
/-- The header's own checks (R100, R103). -/
def headOk (m : List Byte) (c : Cmd) : Bool :=
  let q := queuedKind c.kind c.ctx
  decide (1 ≤ c.kind) && decide (c.kind ≤ 15) && ctxOk c.kind c.ctx && leAt m 4 4 == m.length && decide (32 + 8 * leAt m 3 1 ≤ m.length) && c.tag != 0
    && zeros m 16 16 && (if q then decide (c.queue < 16) && decide (leAt m 3 1 ≤ 8) else c.queue == 0 && leAt m 3 1 == 0)

/-- The final status of a kept tag (R104). -/
def Context.status (k : Context) (tag : Nat) : Option Nat := (k.kept.find? fun e => e.1 == tag).map (·.2)
/-- Kinds that SERVICE_ONLY refuses (R28). -/
def refusedKind (kind : Nat) : Bool := kind == 1 || (decide (3 ≤ kind) && decide (kind ≤ 9)) || kind == 11
/-- What refuses a well-formed command at its receive cycle (R27 to R29, R104, R105, R126). -/
def State.refusal (s : State) (c : Cmd) : Option Nat :=
  let k := s.ctx c.ctx
  if (s.mode ≠ .ready ∧ s.mode ≠ .thermalHalt) ∧ refusedKind c.kind = true then some stRefusedState
  else if s.mode = .thermalHalt ∧ (c.kind = 4 ∨ c.kind = 5) ∧ c.ctx = 0xFF then some stRefusedState
  else if c.ctx < 16 ∧ c.kind = 1 ∧ k.isOpen then some stRefusedContext
  else if c.ctx < 16 ∧ c.kind ≠ 1 ∧ (!k.isOpen || k.closing) = true then some stRefusedContext
  else if c.ctx < 16 ∧ c.kind ≠ 1 ∧ c.kind ≠ 15 ∧ k.owner ≠ c.sess then some stRefusedContext
  else if c.ctx < 16 ∧ c.kind = 15 ∧ k.owner ≠ c.sess ∧ !s.isAdmin c.sess then some stRefusedPrivilege
  else if s.pending c.ctx c.tag then some stRefusedTag
  else if c.deps.any fun d => !(s.pending c.ctx d) && (k.status d).isNone then some stRefusedTag
  else none
/-- The row of a kind's command. -/
def rowOfKind (kind : Nat) : Nat :=
  match kind with
  | 1 => 25 | 2 => 26 | 3 => 27 | 4 => 29 | 5 => 30 | 6 => 32 | 7 => 33 | 8 => 34 | 9 => 35 | 10 => 36 | 11 => 37 | 12 => 38 | 13 => 39 | 14 => 40
  | _ => 41
/-- A command acts next. -/
def State.act (s : State) (c : Cmd) : State :=
  { s with fetch := s.fetch ++ [eventItem (rowOfKind c.kind) ⟨[c.sess, c.ctx, c.queue, c.tag] ++ c.deps, c.body⟩] }
/-- A queued command joins the tail of its queue, unless a dependence has failed or its queue is full (R104, R106, R108). -/
def State.enqueue (s : State) (c : Cmd) : State :=
  let k := s.ctx c.ctx
  if c.deps.any fun d => !(s.pending c.ctx d) && k.status d != some stDone then s.endCmd c stDepFailed 0 0 0 [] {}
  else if (k.queues.getD c.queue []).length ≥ 256 then s.refuse c stRefusedResource
  else
    let c := { c with deps := c.deps.filter fun d => s.pending c.ctx d }
    (s.onCtx c.ctx fun k => { k with queues := k.queues.modify c.queue (· ++ [c]) }).wake
/-- A message is received on this cycle (R99, R103 to R108). One shorter than the header cannot be parsed; any other bad one is refused with its own CTX and TAG (R112; log 22, DESIGN CHOICE). -/
def State.receiveMessage (s : State) (sid : Nat) (m : List Byte) : State :=
  let c := cmdAt sid m
  if m.length < 32 then s.refuse { c with ctx := 0xFF, queue := 0, tag := 0 } stRefusedFormat
  else if !(headOk m c && bodyOk c.kind c.ctx c.body) then s.refuse c stRefusedFormat
  else match s.refusal c with
    | some st => s.refuse c st
    | none => if queuedKind c.kind c.ctx then s.enqueue c else s.act c

/-! Sessions and packets (R95 to R99). -/

/-- Send an ACK packet (R98). -/
def State.sendAck (s : State) (e : Session) : State := (s.setSession { e with unacked := 0 }).send (e.pkt 0x02 0 false false [])
/-- What the host's ACK and SACK cover leaves the window (R98). -/
def Session.covered (e : Session) (ack sack : Nat) : Session :=
  { e with out := e.out.filter fun p =>
      let d := (p.seq + 2 ^ 32 - ack % 2 ^ 32) % 2 ^ 32
      decide (d < 2 ^ 31) && !(decide (1 ≤ d) && decide (d ≤ 64) && bitAt sack (d - 1)) }
/-- A packet is discarded and counted on its port (R95). -/
def State.discard (s : State) (port : Nat) : State :=
  { s with ports := s.ports.modify port fun p => { p with discards := p.discards + 1 } }
/-- A frame has come with a packet of a type: the port takes it, or discards it, counted when its header is wrong (R94 to R96). -/
def State.packet (s : State) (typ : Nat) (f : Frame → Packet → State) : State :=
  let fr := frameOf s.arg
  if fr.chital then
    match packetAt fr.bytes with
    | none => s.discard fr.port
    | some p => if p.typ = typ then f fr p else s
  else s
/-- The frame comes from where the session was opened, and to there (R97). -/
def Session.binds (e : Session) (f : Frame) : Bool := e.port == f.port && e.own == f.dst && e.addr == f.src && e.udp == f.sport
/-- A packet of a session has arrived (R95, R97, R98); the port counts it (R124; log 22, DESIGN CHOICE). -/
def State.arrived (s : State) (typ : Nat) (f : State → Session → Packet → State) : State :=
  s.packet typ fun fr p =>
    match s.session p.sid with
    | some e =>
      if e.binds fr then
        let e := e.covered p.ack p.sack
        let s : State := { s.setSession e with ports := s.ports.modify e.port fun q => { q with packets := q.packets + 1 } }
        f (s.pump e.sid) ((s.pump e.sid).session e.sid |>.getD e) p
      else s
    | none => s
/-- A message that has grown too long, or that a new FIRST cuts, is reported (R99). -/
def State.cutMessage (s : State) (sid : Nat) : State :=
  s.refuse { sess := sid, ctx := 0xFF, queue := 0, kind := 0, tag := 0, deps := [], body := [], resume := none } stRefusedFormat
/-- The longest message (R99). -/
def maxMessage : Nat := 2 ^ 24 + 4096
/-- A DATA payload is taken in SEQ order (R99). -/
def State.take (s : State) (e : Session) (p : DataPkt) : State :=
  let e : Session := { e with rxNext := (e.rxNext + 1) % 2 ^ 32 }
  let cut := p.first && e.msg.isSome
  let s := if cut then s.cutMessage e.sid else s
  let e : Session := if p.first then { e with msg := none, skip := false } else e
  let text := if p.first then some p.bytes else if e.skip then none else e.msg.map (· ++ p.bytes)
  match text with
  | none => s.setSession { e with skip := e.skip && !p.last, msg := none }
  | some b =>
    if b.length > maxMessage then (s.setSession { e with msg := none, skip := !p.last }).cutMessage e.sid
    else if p.last then (s.setSession { e with msg := none }).receiveMessage e.sid b
    else s.setSession { e with msg := some b }
/-- The next packet is already held: it is taken after what this one has caused. -/
def State.takeHeld (s : State) (sid : Nat) : State :=
  match s.session sid with
  | some e =>
    match e.held.find? fun p => p.seq == e.rxNext with
    | some p => { s with fetch := s.fetch ++ [eventItem 18 ⟨[sid, p.seq], []⟩] }
    | none => s
  | none => s
/-- One more DATA packet that the device has not acknowledged: an ACK goes out no later than after 16 (R98). -/
def State.countData (s : State) (sid : Nat) : State :=
  match s.session sid with
  | some e => if e.unacked + 1 ≥ 16 then s.sendAck e else s.setSession { e with unacked := e.unacked + 1 }
  | none => s
/-- DATA (R98, R99): taken in order, held up to 64 ahead, or a duplicate, which is acknowledged again. With two operands it names a packet already held, by session and SEQ. -/
def execData (s : State) : Res :=
  .next (if s.arg.n.length = 2 then
      match s.session (s.arg.nat 0) with
      | some e =>
        match e.held.find? fun q => q.seq == s.arg.nat 1 && q.seq == e.rxNext with
        | some q => (s.take { e with held := e.held.filter fun o => o.seq != q.seq } q).takeHeld e.sid
        | none => s
      | none => s
    else s.arrived 0x01 fun s e p =>
      let q : DataPkt := { seq := p.seq, first := p.first, last := p.last, bytes := p.bytes, retries := 0 }
      let d := (p.seq + 2 ^ 32 - e.rxNext) % 2 ^ 32
      if d = 0 then ((s.take e q).countData e.sid).takeHeld e.sid
      else if d ≤ 64 then
        if e.held.any fun o => o.seq == p.seq then s.sendAck e
        else (s.setSession { e with held := e.held ++ [q] }).countData e.sid
      else if d < 2 ^ 31 then s
      else s.sendAck e)
/-- ACK (R98). -/
def execAck (s : State) : Res := .next (s.arrived 0x02 fun s _ _ => s)
/-- PROBE is answered with an ACK (R96). -/
def execProbe (s : State) : Res := .next (s.arrived 0x07 fun s e _ => s.sendAck e)

/-- A session ends: each context that it owns is closed, and the notifications are discarded (R97, R121). -/
def State.endSession (s : State) (sid : Nat) : State :=
  let own := (List.range 16).filter fun c => s.isOpen c && (s.ctx c).owner == sid
  let s : State := { s with sessions := s.sessions.filter fun e => e.sid != sid }
  own.foldl (fun s c => if (s.ctx c).closing then s.onCtx c fun k => { k with closeCmd := none } else s.closeContext c none) s
/-- CLOSE (R97). -/
def execClose (s : State) : Res := .next (s.arrived 0x06 fun s e _ => s.endSession e.sid)
/-- OPEN (R97): what refuses it, in the order of R96's codes from the module's state down; a ROLE above 1, of which R96 says nothing, is a role refused (log 22, DESIGN CHOICE). -/
def State.openFails (s : State) (addr role : Nat) : Option Nat :=
  if s.mode = .reset ∨ s.mode = .recovery then some 3
  else if role > 1 ∨ (role = 1 ∧ !s.allow.contains addr) then some 2
  else if s.sessions.length ≥ 64 then some 1 else none
/-- The session that a frame's OPEN asks for (R97). -/
def State.newSession (s : State) (f : Frame) (role : Nat) : Session :=
  { sid := s.nextSid, port := f.port, own := f.dst, addr := f.src, udp := f.sport, vlan := f.vlan, admin := role = 1
    rxNext := 0, held := [], unacked := 0, msg := none, skip := false, txNext := 0, out := [], wait := [], subs := [] }
/-- OPEN, answered with OPEN_OK or OPEN_FAIL (R96, R97). -/
def execOpenS (s : State) : Res :=
  .next (s.packet 0x03 fun f p =>
    let role := leAt p.bytes 0 1
    let e := s.newSession f role
    let s : State := { s with ports := s.ports.modify f.port fun q => { q with packets := q.packets + 1 } }
    match s.openFails f.src role with
    | some k => s.send ({ e with sid := 0 }.pkt 0x05 0 false false (leBytes 1 k))
    | none => State.send { s with sessions := s.sessions ++ [e], nextSid := s.nextSid + 1 } (e.pkt 0x04 0 false false []))
/-- SESSION_IDLE_TIMEOUT: no packet has come for 1 s (R97). -/
def execSessionIdleTimeout (s : State) : Res := .next (if (s.session (s.arg.nat 0)).isSome then s.endSession (s.arg.nat 0) else s)
/-- ACK_TIMER_EXPIRY (R98). -/
def execAckTimerExpiry (s : State) : Res :=
  .next (match s.session (s.arg.nat 0) with
    | some e => if e.unacked > 0 then s.sendAck e else s
    | none => s)
/-- RETRANSMIT_TIMER_EXPIRY: the packet goes out again, or after 12 times the session is lost (R97, R98). -/
def execRetransmitTimerExpiry (s : State) : Res :=
  .next (match s.session (s.arg.nat 0) with
    | none => s
    | some e =>
      match e.out.find? fun p => p.seq == s.arg.nat 1 with
      | none => s
      | some p =>
        if p.retries ≥ 12 then s.endSession e.sid
        else
          let e' : Session := { e with unacked := 0, out := e.out.map fun q => if q.seq = p.seq then { q with retries := q.retries + 1 } else q }
          let s : State := { s.setSession e' with ports := s.ports.modify e.port fun q => { q with retrans := q.retrans + 1 } }
          s.send (e.pkt 0x01 p.seq p.first p.last p.bytes))
/-- DISCARDED_PACKET: what has come is no packet that the port takes; one with a wrong header is counted on its port (R94, R95). -/
def execDiscardedPacket (s : State) : Res := .next (s.packet 0 fun _ _ => s)

/-! Other protocols (R94). -/

def State.port (s : State) (p : Nat) : HostPort := s.ports.getD p HostPort.fresh
/-- The address of a port in an IP version. -/
def HostPort.ip (p : HostPort) (ver : Nat) : Nat := if ver = 4 then p.ip4 else p.ip6
/-- What a port answers to the sender of a frame, if it is the one that the frame asks (log 34, DESIGN CHOICE for the tag). -/
def State.answer (s : State) (f : Frame) (k : TxKind) (bytes : List Byte) : State :=
  if f.fits && f.dst == (s.port f.port).ip f.ver then
    s.send { port := f.port, kind := k, src := f.dst, sport := 0, addr := f.src, udp := 0, vlan := f.vlan, sum := 0, head := [], sid := 0, seq := 0, ack := 0
             sack := 0, first := true, last := true, bytes := bytes }
  else s
/-- ARP_REQUEST: a request for the port's own address is answered with its MAC address. -/
def execArpRequest (s : State) : Res :=
  let f := frameOf s.arg
  .next (s.answer { f with ver := 4, frag := false } .arp (leBytes 6 (s.port f.port).mac))
/-- NEIGHBOR_DISCOVERY. -/
def execNeighborDiscovery (s : State) : Res :=
  let f := frameOf s.arg
  .next (s.answer { f with ver := 6 } .nd (leBytes 6 (s.port f.port).mac))
/-- ICMP_ECHO: the payload comes back. -/
def execIcmpEcho (s : State) : Res := .next (s.answer (frameOf s.arg) .echo s.arg.bytes)
/-- PORT_ADDRESS_CONFIG: operands port, MAC, IPv4 and IPv6 address. -/
def execPortAddressConfig (s : State) : Res :=
  .next (if s.managed then
      { s with ports := s.ports.modify (s.arg.nat 0) fun p => { p with mac := s.arg.nat 1, ip4 := s.arg.nat 2, ip6 := s.arg.nat 3 } }
    else s)
/-- ALLOW_LIST_INSTALL (R97). -/
def execAllowListInstall (s : State) : Res := .next (if s.managed then { s with allow := s.arg.n } else s)

end Sys2Proof.Machine
end

