-- ==== Sys2Proof/Machine/Copy.lean ====
section
/-! DEFINITION. The copies, FENCE and PMODE (R178 to R183, R232, R378 to R383). -/

namespace Sys2Proof.Machine

/-- The copy that an instruction starts at c (R181, R379); GATE is that of the form. -/
def Tile.copyJob (t : Tile) (c : Nat) (o : CpyOp) : CopyJob :=
  let sr := t.seqRec o.q.toNat
  { c := c, s0 := (t.s32 c o.s0.toNat).toInt, d0 := (t.s32 c o.d0.toNat).toInt, g0 := (t.s32 c o.g0.toNat).toInt
    gate := o.st.getLsbD 7, cvt := o.st.getLsbD 6, xpose := o.st.getLsbD 5, scale := o.st.getLsbD 4
    factor := if sr.ssrc < 4 then t.q32 c sr.ssrc else sr.sconst
    src := t.bufRec sr.srec, dst := t.bufRec sr.drec, msk := t.bufRec sr.mrec, sr := sr
    n := sr.levels.foldl (fun acc l => acc * l.1) 1, k := 0, cls := o.cls.toNat }
/-- A copy starts: its channel is taken and its first beat reads at c + 2 (R181). -/
def Tile.startCopy (t : Tile) (cur : Cur) (o : CpyOp) (i : Instr) : Tile :=
  ({ t.noteClass cur.c i with copies := t.copies.set o.ch.toNat (some (t.copyJob cur.c o)) }).sched (cur.c + 2) phRead cur.c 6 (t.chk cur.c)
    (.copyBeat o.ch.toNat)
/-- No word issues before cycle u; until cycle h the word waits, and a stop records it (R255, R378). -/
def Tile.holdUntil (t : Tile) (cur : Cur) (u h : Nat) : Tile :=
  { t with seq := { t.seq with minDue := max t.seq.minDue u, waitTo := h, waitPc := some (cur.pc, cur.dly) } }

/-- CPY. -/
def execCpy (o : CpyOp) (s : State) : Res := slotOp (.cpy o) s fun t => t.startCopy s.cur o (.cpy o)
/-- CPYM: the bundle's MX command issues at completion + 1 (R183). -/
def execCpym (o : CpyOp) (s : State) : Res :=
  slotOp (.cpym o) s fun t =>
    let u := (t.copyJob s.cur.c o).completion + 1
    let t := t.startCopy s.cur o (.cpym o)
    ({ t with chains := t.chains ++ [(u, o.ch.toNat, s.cur.mx)] }).sched u phRelease s.cur.c 6 false
      (.event (eventItem rowChained ⟨[s.cur.x, s.cur.y, o.ch.toNat], []⟩))
/-- CPYG: a bitmap gates the beats (R379). -/
def execCpyg (o : CpyOp) (s : State) : Res := slotOp (.cpyg o) s fun t => t.startCopy s.cur o (.cpyg o)
/-- CPYW: the next word waits for completion (R378). -/
def execCpyw (o : CpyOp) (s : State) : Res :=
  slotOp (.cpyw o) s fun t => let u := (t.copyJob s.cur.c o).completion; (t.startCopy s.cur o (.cpyw o)).holdUntil s.cur u u

/-- FENCE: the next word issues at c + 1 + F, plus WAIT (R232). -/
def execFence (o : FenceOp) (s : State) : Res :=
  slotOp (.fence o) s fun t => t.holdUntil s.cur (s.cur.c + 1 + o.f.toNat + s.cur.wait) (s.cur.c + 1 + o.f.toNat)
/-- PMODE: the rule of the sub-region's next step (R228, R383). -/
def execPmode (o : PmodeOp) (s : State) : Res :=
  slotOp (.pmode o) s fun t => { t with rules := t.rules.modify o.sub.toNat fun r => { r with next := some (o.rule.toNat, o.ety) } }

end Sys2Proof.Machine
end

