-- ==== Sys2Proof/Machine/Debug.lean ====
section
/-! DEFINITION. The debug unit: control word, watch filter, trace ring, precise stops and their resumes (R264 to R267). -/

namespace Sys2Proof.Machine

/-- The stop record (R267). -/
def Tile.stopBytes (t : Tile) (c : Nat) : List Byte :=
  leBytes 8 (t.gcy c) ++ leBytes 4 t.seq.pc ++ leBytes 1 (t.preds c) ++ leBytes 1 (t.tlvl c) ++ leBytes 2 0
    ++ (List.range 4).flatMap fun k => leBytes 4 (t.spr c (spLC k)).toNat

/-- Markhor sends a message into a tile: its payloads come in its own slots (R57, R264). -/
def State.sendIn (s : State) (x y : Nat) (m : SvcIn) : State :=
  (s.onTile x y fun t => { t with svcIn := t.svcIn ++ [m] }).postEv (nextSlot x y s.now) phEnd rowDownstream [x, y]
/-- DEBUG_CONTROL_WRITE: kind 0 control word, 1 watch filter, 2 trace ring, as service messages over Distaff; 3 a stop request, 4 the GCY at which a stopped tile issues again, which reach the tile at once (R27, R264, R267; log 33, DESIGN CHOICE). -/
def execDebugControlWrite (s : State) : Res :=
  let x := s.arg.nat 0
  let y := s.arg.nat 1
  let v := s.arg.nat 3
  .next (if !s.inGrid x y || !s.managed then s
    else match s.arg.nat 2 with
      | 0 => s.sendIn x y ⟨0, leBytes 4 v, 0⟩
      | 1 => s.sendIn x y ⟨1, leBytes 512 v, 0⟩
      | 2 => s.sendIn x y ⟨2, s.arg.bytes.take 4096, 0⟩
      | 3 => s.onTile x y fun t => t.requestStop s.now
      | 4 => if (s.tile x y).seq.mode = .debug then s.postEv (max s.now ((s.tile x y).cycleOf v)) phRelease rowDebugResume [x, y] else s
      | _ => s)
/-- DEBUG_STOP: the ITB-marked word that is due does not issue, and the stop is recorded and logged; the requests up to this cycle have landed, and later ones stay (R267). The log entry of KIND 7 has CAUSE 0 (R262; log 15, DESIGN CHOICE). -/
def execDebugStop (s : State) : Res :=
  .next (s.onTile (s.arg.nat 0) (s.arg.nat 1) fun t =>
    if t.seq.mode = .run ∧ t.seq.due = none ∧ t.seq.hold = .none ∧ (t.stopReq.any fun r => decide (r ≤ s.now)) = true then
      let t := { t with stopRec := t.stopRec ++ [t.stopBytes s.now], stopReq := t.stopReq.filter fun r => decide (s.now < r), stopAt := some s.now, stopSlot := if t.log.length < 32 then some t.log.length else none }
      { t.addLog s.now t.seq.pc 0 7 0 with seq := { t.seq with mode := .debug } }
    else t)
/-- The log entry of the stop takes the cycles lost (R267). -/
def Tile.endStop (t : Tile) (b c : Nat) : Tile :=
  let lost := sat32u (c - b)
  { t with
    log := match t.stopSlot with | some k => t.log.modify k fun e => { e with lost := lost } | none => t.log
    logLost := t.logLost + lost, stopAt := none, stopSlot := none, seq := { t.seq with mode := .run, due := some c } }
/-- DEBUG_RESUME: a stopped tile issues again from the recorded PC (R267). -/
def execDebugResume (s : State) : Res :=
  .next (s.onTile (s.arg.nat 0) (s.arg.nat 1) fun t =>
    match t.stopAt with
    | some b => if t.seq.mode = .debug then t.endStop b s.now else t
    | none => t)

end Sys2Proof.Machine
end

