-- ==== Sys2Proof/Machine/Loader.lean ====
section
/-! DEFINITION. LOAD_IMAGE and the load checks: the image's layout, its loop-nest records, its planes and its code halves (R40, R62, R123, R133, R134, R171, R178 to R180, R204, R222, R268, R271, R283, R308, R311, R357, R365, R370, R379, R382, R400, R401). -/

namespace Sys2Proof.Machine

/-- A failed load check: cause and ENTRY. -/
abbrev Reject := Nat × Nat
/-- A check that fails with cause 0x03, or 0x02, at an entry. -/
def bad3 (entry : Nat) (c : Bool) : Option Reject := if c then some (0x03, entry) else none
def bad2 (entry : Nat) (c : Bool) : Option Reject := if c then some (0x02, entry) else none
/-- The first failure of a list of checks. -/
def firstReject : List (Option Reject) → Option Reject
  | [] => none
  | some r :: _ => some r
  | none :: l => firstReject l

/-! Registers that a slot writes (R283). -/

/-- Files as numbers: 0 S, 1 P, 2 M, 3 V, 4 Q, 5 special; S0 and P0 are not counted. -/
def wS (i : Nat) : List (Nat × Nat) := if i = 0 then [] else [(0, i)]
def wP (i : Nat) : List (Nat × Nat) := if i = 0 then [] else [(1, i)]
def wV (i n : Nat) : List (Nat × Nat) := (List.range n).map fun k => (3, i + k)
def wLoop (k : Nat) : List (Nat × Nat) := [(5, spLS k), (5, spLE k), (5, spLC k), (5, spLM k)]
/-- SRCTR, advanced by an SR conversion (R210). -/
def wSr (mode : Nat) : List (Nat × Nat) := if mode = 5 then [(5, spSRCTR)] else []

/-- The registers that a slot's instruction writes, by its encoding alone (R283). -/
def writesOf (i : Instr) : List (Nat × Nat) :=
  match i with
  | .add o | .sub o | .andS o | .orS o | .xor o | .andn o | .shl o | .shr o | .sra o | .rol o | .minS o | .maxS o
  | .minu o | .maxu o | .slt o | .sltu o | .seq o | .adds o | .subs o | .mul o | .mulh o | .mulhu o | .div o | .divu o
  | .rem o | .remu o | .fadd o | .fsub o | .fmul o | .ffma o | .fmin o | .fmax o | .frcps o | .frsqs o
  | .absS o | .clz o | .popc o | .brev o | .fabs o | .fneg o | .fcvti o | .icvtf o | .frcp o | .frsq o | .selp o => wS o.d.toNat
  | .addi o | .andi o | .ori o | .xori o | .shli o | .shri o | .srai o | .slti o | .sltiu o
  | .ldw o | .ldh o | .ldhu o | .ldb o | .ldbu o => wS o.d.toNat
  | .movi o | .seth o | .movk o => wS o.d.toNat
  | .ptos o => wS o.d.toNat
  | .rdsp o | .rdcyc o | .rdwp o => wS o.d.toNat
  | .wrsp o => [(5, o.imm.toNat % 64)]
  | .peq o | .pne o | .plt o | .pltu o | .pge o | .pgeu o | .pflt o | .pfle o | .pfun o => wP o.pd.toNat
  | .pand o | .por o | .pxor o | .pnot o | .pset o => wP o.pd.toNat
  | .call _ | .callIndirect _ => wS 31
  | .loopCounted o _ | .loopRegisterCount o _ | .loopUntil o _ => wLoop o.lvl.toNat
  | .chkon | .chkoff => [(5, spCHKCTL)]
  | .vmulw o | .vmulwu o | .vmacw o | .vmacwu o => wV o.vd.toNat 2
  | .vadd o | .vsub o | .vadds o | .vaddsu o | .vsubs o | .vsubsu o | .vmul o | .vmulh o | .vmulhu o
  | .vand o | .vor o | .vxor o | .vandn o | .vshl o | .vshr o | .vsra o | .vmin o | .vmax o | .vminu o | .vmaxu o | .vavg o
  | .vfadd o | .vfsub o | .vfmul o | .vffma o | .vfmin o | .vfmax o | .vfrcps o | .vfrsqs o | .vfscale o | .vsel o
  | .vshuf o | .vzip o | .vunzip o
  | .vabs o | .vclz o | .vpopc o | .vshli o | .vshri o | .vsrai o | .vfabs o | .vfneg o | .vfrcp o | .vfrsq o | .vfexp2 o
  | .vmov o | .vnarrow o | .vnarrowu o | .vrot o | .vrev o
  | .mtov o | .vsplat o | .vins o | .viota o | .vzero o => wV o.vd.toNat 1
  | .vwiden o => wV o.vd.toNat (if o.n 1 1 = 1 then 4 else 2)
  | .vcvt o => wV o.vd.toNat (max 1 (fmtWidth (o.n 7 3) / tyWidth o.ty)) ++ wSr (o.n 2 0)
  | .vqcvt o | .vdeq o => wV o.vd.toNat 1 ++ wSr (o.n 2 0)
  | .vceq o | .vclt o | .vcltu o | .vfceq o | .vfclt o | .vfcle o | .vfcun o
  | .mand o | .mor o | .mxor o | .mnot o | .mbit o => [(2, o.vd.toNat % 8)]
  | .mpop o | .mfirst o | .vext o
  | .vrsum o | .vrsumu o | .vrmax o | .vrmin o | .vfrsum o | .vfrmax o | .vfrmin o => wS (o.vd.toNat % 32)
  | .vqmax o | .vqscale o => [(4, o.vd.toNat % 4)]
  | .mstat o => wS o.d.toNat
  | .vld o | .vldb o => wV o.v.toNat 1
  | .vldx o => wV o.v.toNat 1
  | .aadd o | .amax o | .amin o | .axch o | .acas o => wS o.s.toNat
  | .recv o => wV o.v.toNat 1
  | .recvs o => wS o.s.toNat
  | .align d => wS d.toNat
  | .rbmark _ _ => [(5, spRBNEXT)]
  | .svsave o => wS o.s.toNat
  | .svload _ => (List.range 31).map (fun k => (0, k + 1)) ++ (List.range 7).map (fun k => (1, k + 1)) ++ (List.range 4).map (fun k => (4, k))
      ++ (List.range 16).map (fun k => (5, 32 + k)) ++ [(5, spSRSEED), (5, spSRCTR), (5, spFPST), (5, spK)]
  | _ => []

/-- Two slots of a word write one register. -/
def sharesWrite : List (List (Nat × Nat)) → Bool
  | [] => false
  | l :: r => r.any (fun m => l.any m.contains) || sharesWrite r

/-! Checks of one slot against its plane (R283). -/

/-- The target-table entries that a control instruction names (R308). -/
def targetsOf (i : Instr) : List Nat :=
  match i with
  | .tree o => ([o.t0, o.t1, o.t2, o.t3].take (o.last.toNat + 1)).map fun x => x.target.toNat
  | .jmp t | .call t => [t.toNat]
  | _ => []
/-- The accumulator block that an MX command names. -/
def blockOf (i : Instr) : Option Nat :=
  match i with
  | .msq o | .msqTa o | .msqTb o | .msqTab o => some o.blk.toNat
  | .msqIndexed o => some o.blk.toNat
  | .mzero b => some b.toNat
  | .mdrain o => some o.blk.toNat
  | .mdrainm o => some o.blk.toNat
  | _ => none
/-- A record in a space that CP instructions and drains accept: local, plane, accumulator (R357, R365). -/
def BufRec.plain (r : BufRec) : Bool := r.space == 0 || r.space == 1 || r.space == 3
/-- MDRAIN's record (R357). -/
def BufRec.drains (r : BufRec) : Bool := r.plain && (r.fmt == 9 || r.fmt == 10 || r.fmt == 19 || r.fmt == 20 || r.fmt == 22)
/-- An atomic's record (R365). -/
def BufRec.atomic (r : BufRec) : Bool := r.plain && (r.fmt == 21 || r.fmt == 22)
/-- A form with more than 256 indices (R370). -/
def manyIndices (w nb : Nat) : Bool := w == 1 || (w == 4 && decide (nb > 1)) || (w == 8 && decide (nb > 2))
/-- Formats that CVT takes (R379). -/
def cvtFmt (f : Nat) : Bool := decide (1 ≤ f ∧ f ≤ 10) || decide (19 ≤ f ∧ f ≤ 22)
/-- A copy against its sequencer record (R178, R180, R365, R379). -/
def Tile.copyBad (t : Tile) (o : CpyOp) : Bool :=
  let q := t.seqRec o.q.toNat
  let src := t.bufRec q.srec
  let dst := t.bufRec q.drec
  let msk := t.bufRec q.mrec
  let cvt := o.st.getLsbD 6
  src.space == 4 || dst.space == 4
    || (o.st.getLsbD 5 && dst.space != 2)
    || (!cvt && src.fmt != dst.fmt)
    || (o.st.getLsbD 4 && !cvt && dst.fmt != 22)
    || (cvt && !(cvtFmt src.fmt && cvtFmt dst.fmt))
    || (o.st.getLsbD 7 && !((msk.space == 0 || msk.space == 1) && msk.fmt == 0))

/-- The checks of an instruction that need its plane: a tile that holds it (R283, R308, R357, R365, R370, R379, R382). -/
def Tile.slotBad (t : Tile) (i : Instr) : Bool :=
  (targetsOf i).any (fun k => !bitAt (t.cfg.nat (offTarget + 4 * k) 4) 16)
    || (match blockOf i with | some b => decide (b ≥ t.lay.acc) | none => false)
    || (match i with
      | .mdrain o => !(t.bufRec o.bn.toNat).drains
      | .mdrainm o => !(t.bufRec o.bn.toNat).drains
      | .vld o | .vst o | .vldb o => !(t.bufRec o.bn.toNat).plain
      | .vldx o | .vstx o => let r := t.bufRec o.bn.toNat; !r.plain || manyIndices r.width (o.nb.toNat + 1)
      | .aadd o | .amax o | .amin o | .axch o | .acas o => !(t.bufRec o.bn.toNat).atomic
      | .sendm o => !(t.bufRec o.bn.toNat).plain
      | .recvm o => !(t.bufRec o.bn.toNat).plain
      | .cpy o | .cpym o | .cpyg o | .cpyw o => t.copyBad o
      | .pmode o => !bitAt (t.ruleWord o.sub.toNat) 63
      | _ => false)

/-- An MX command that CPYM may chain (R280). -/
def chainable (d : Decoded) : Bool :=
  match d with
  | .instr (.msq _) | .instr (.msqTa _) | .instr (.msqTb _) | .instr (.msqTab _) | .instr (.msqIndexed _)
  | .instr (.mzero _) | .instr (.mdrain _) | .instr (.mdrainm _) => true
  | _ => false

/-- The checks of a control word: its slots' encodings, the path tags, the chained command, the planes' records, the registers written (R271, R282, R283). -/
def Tile.checkWord (t : Tile) (e : Nat) : Option Reject :=
  let w := t.ctlWord e
  if e = 0 ∨ e = 511 then bad3 e (w != 0)
  else if w = 0 then none
  else
    let slots := (slotsOf w).map fun s => (s.1, decodeItem ⟨s.1, s.2.1⟩, s.2.2)
    let ct := decodeCt (bitsAt w 0 48)
    let tests := match isTree ct with | some o => o.last.toNat + 1 | none => 0
    let cpym := isCpym (decodeCp (bitsAt w 48 48))
    firstReject (
      (slots.map fun s => match s.2.1 with
        | .bad c => some (c, e)
        | .empty => bad3 e (s.2.2 != 0)
        | .instr _ => none)
      ++ (slots.map fun s => bad2 e (s.2.2 == 7 || (s.2.2 != 0 && tests == 0) || (decide (s.2.2 ≤ 4) && decide (s.2.2 > tests))))
      ++ [bad2 e (cpym && slots.any fun s => s.1 == .mx && (s.2.2 != 0 || !chainable s.2.1))]
      ++ (slots.map fun s => match s.2.1 with | .instr i => bad2 e (t.slotBad i) | _ => none)
      ++ [bad2 e (sharesWrite (slots.map fun s => match s.2.1 with | .instr i => writesOf i | _ => []))])

/-! Checks of a plane's tables. -/

/-- A target-table entry (R308). -/
def Tile.checkTarget (t : Tile) (k : Nat) : Option Reject :=
  let v := t.cfg.nat (offTarget + 4 * k) 4
  bad3 k (if bitAt v 16 then v / 2 ^ 17 != 0 || decide (v % 65536 ≥ t.codeLen) else v != 0)

/-- A scale source matches its format (R204). -/
def scaleSrcOk (f src : Nat) : Bool := if isMx f then src == 1 else if isSc f then src == 1 || src == 2 else src == 0
/-- A format-table entry (R203, R204). -/
def Tile.checkFmt (t : Tile) (k : Nat) : Option Reject :=
  let v := t.cfg.nat (offFmt + 8 * k) 8
  let e := fmtEntryOf v
  bad3 k (if e.v then
      !(decide (1 ≤ e.afmt ∧ e.afmt ≤ 20) && decide (1 ≤ e.bfmt ∧ e.bfmt ≤ 20)) || bitsAt v 48 2 != 0 || decide (e.ornd > 4) || bitsAt v 0 37 != 0
        || !(e.ofmt == 9 || e.ofmt == 10 || e.ofmt == 19 || e.ofmt == 20 || e.ofmt == 22)
        || !(scaleSrcOk e.afmt e.asrc && scaleSrcOk e.bfmt e.bsrc)
        || (e.pint != 0 && (decide (e.afmt ≥ 10) || decide (e.bfmt ≥ 10)))
    else v != 0)

/-- The byte range of a record's in-bounds indices, from its four corners: first byte, and the byte after the last (R178). -/
def BufRec.extent (r : BufRec) : Int × Int :=
  let at_ : Int → Int → Int := fun i0 i1 => 8 * (r.base : Int) + (i0 * r.istep + i1 * r.ostep) * (r.width : Int)
  let a := (r.iext : Int) - 1
  let b := (r.oext : Int) - 1
  let lo := min (min (at_ 0 0) (at_ a 0)) (min (at_ 0 b) (at_ a b))
  let hi := max (max (at_ 0 0) (at_ a 0)) (max (at_ 0 b) (at_ a b))
  (lo / 8, (hi + (r.width : Int) + 7) / 8)
/-- The parts that the range of a record of each space may lie in (R178). -/
def Layout.recParts (l : Layout) (space : Nat) : List (Nat × Nat) :=
  match space with
  | 0 => [(0, l.cb), (l.cb, l.pb), (l.ab, l.vb)]
  | 1 => [(0, l.pl)]
  | 2 => [(0, 131072)]
  | _ => [(0, 4608 * l.acc)]
/-- A buffer record; one that nothing names and whose bits are all zero is unused (R176, R178; log 13, DESIGN CHOICE). -/
def Tile.checkBuf (t : Tile) (named : Nat → Bool) (k : Nat) : Option Reject :=
  let v := t.cfg.nat (offBuf + 32 * k) 32
  let r := bufRecOf v
  let x := r.extent
  bad3 k ((v != 0 || named k) && (decide (r.space > 4) || decide (r.fmt > 22) || r.bmode == 3 || bitsAt v 240 2 != 0 || bitsAt v 0 112 != 0 || r.oext == 0 || r.iext == 0
    || (r.space != 4 && !((t.lay.recParts r.space).any fun p => decide ((p.1 : Int) ≤ x.1) && decide (x.2 ≤ (p.2 : Int))))))

/-- A sequencer record; one that no copy names and whose bits are all zero is unused (R178, R179; log 13, DESIGN CHOICE). -/
def Tile.checkSeq (t : Tile) (named : Nat → Bool) (k : Nat) : Option Reject :=
  let v := t.cfg.nat (offSeq + 48 * k) 48
  let q := seqRecOf v
  let n := bitsAt v 366 3
  firstReject [
    bad3 k ((v != 0 || named k) && (n == 0 || decide (n > 6) || decide (q.rnd > 4) || decide (q.ssrc > 4) || bitsAt v 288 40 != 0
      || v % 2 ^ 288 / 2 ^ (48 * n) != 0 || decide (q.levels.foldl (fun acc l => acc * l.1) 1 > 2 ^ 32 - 1))),
    bad2 k (v != 0 && ((t.bufRec q.srec).space == 4 || (t.bufRec q.drec).space == 4))]

/-- A plane-rule entry by itself (R221, R222). -/
def Tile.checkRule (t : Tile) (k : Nat) : Option Reject :=
  let v := t.ruleWord k
  let last := bitsAt v 16 12
  bad3 k (if bitAt v 63 then
      (bitAt v 60 && (bitsAt v 61 2 == 0 || bitsAt v 61 2 == 3)) || bitsAt v 58 2 == 0 || bitsAt v 40 18 != 0 || bitsAt v 0 16 != 0
        || decide (last < bitsAt v 28 12) || decide (last ≥ t.lay.pl / 64)
    else v != 0)
/-- Every granule of the plane region lies in exactly one valid entry (R222). -/
def Tile.checkGranules (t : Tile) : Option Reject :=
  let rules := ((List.range 16).map t.ruleWord).filter fun v => bitAt v 63
  (List.range (t.lay.pl / 64)).findSome? fun g =>
    bad3 g ((rules.filter fun v => decide (bitsAt v 28 12 ≤ g) && decide (g ≤ bitsAt v 16 12)).length != 1)

/-- The partition word (R171). -/
def checkPart (w : Nat) : Option Reject :=
  let l := layoutOf w
  let code := bitsAt w 50 6
  bad3 0xFFFFFFFF (decide (code = 0 ∨ code > 32) || decide (bitsAt w 43 7 > 64) || decide (l.acc > 128) || decide (l.vreg > 64)
    || bitsAt w 56 8 != 0 || bitsAt w 0 30 != 0
    || decide (l.cb + 4096 + 2 * l.pl + 4608 * l.acc + 512 * l.vreg > poolTop))

/-- A switch entry by itself (R40). -/
def Tile.checkSwitch (t : Tile) (e : Nat) : Option Reject :=
  let v := t.switchWord e
  bad3 e (((List.range 5).any fun p => decide (swSource v p > 5)) || bitsAt v 0 10 != 0 || (e == 511 && swAct v == 0))

/-- The buffer records that an instruction names itself, and the sequencer record that a copy names, with whether it reads the bitmap. -/
def namedBuf (i : Instr) : List Nat :=
  match i with
  | .mdrain o => [o.bn.toNat]
  | .mdrainm o => [o.bn.toNat]
  | .vld o | .vst o | .vldb o => [o.bn.toNat]
  | .vldx o | .vstx o => [o.bn.toNat]
  | .aadd o | .amax o | .amin o | .axch o | .acas o => [o.bn.toNat]
  | .sendm o => [o.bn.toNat]
  | .recvm o => [o.bn.toNat]
  | _ => []
def namedSeq (i : Instr) : List (Nat × Bool) :=
  match i with
  | .cpy o | .cpym o | .cpyw o => [(o.q.toNat, false)]
  | .cpyg o => [(o.q.toNat, true)]
  | _ => []
/-- The instructions of a plane's control words. -/
def Tile.words (t : Tile) : List Instr :=
  (List.range 512).flatMap fun e => (slotsOf (t.ctlWord e)).filterMap fun s => match decodeItem ⟨s.1, s.2.1⟩ with | .instr i => some i | _ => none
/-- The buffer records that instructions and sequencer records name (R178). -/
def Tile.bufsNamed (t : Tile) (is : List Instr) : List Nat :=
  let seqs := is.flatMap namedSeq
  is.flatMap namedBuf ++ (List.range 16).flatMap fun k =>
    let q := t.seqRec k
    (if t.cfg.nat (offSeq + 48 * k) 48 = 0 ∧ (seqs.all fun e => e.1 != k) = true then [] else [q.srec, q.drec]) ++ if seqs.contains (k, true) then [q.mrec] else []
/-- Every check of a plane by itself. -/
def checkPlane (p : Mem) : Option Reject :=
  let t := planeTile p
  let is := t.words
  let bufs := t.bufsNamed is
  let seqs := (is.flatMap namedSeq).map (·.1)
  let all : Nat → (Nat → Option Reject) → Option Reject := fun n f => (List.range n).findSome? f
  firstReject [checkPart t.partWord, all 64 t.checkTarget, all 16 t.checkFmt, all 32 (t.checkBuf bufs.contains),
    all 16 (t.checkSeq seqs.contains), all 512 t.checkSwitch, all 16 t.checkRule, t.checkGranules, all 512 t.checkWord]

/-! Code halves (R268, R283, R311). -/

/-- The halfwords of a code half decoded in order, at most `fuel`: the address of each issue word, with the word; none where a LIT is wrong, with its address. -/
def codeWords (half : List Nat) : Nat → Nat → List (Nat × Nat) ⊕ Nat
  | 0, _ => .inl []
  | n + 1, a =>
    match half[a]? with
    | none => .inl []
    | some w =>
      let lit := w / 16 % 512 == 511
      if lit && (w / 2 ^ 13 != 0 || decide (a + 3 > half.length)) then .inr a
      else match codeWords half n (if lit then a + 3 else a + 1) with
        | .inl l => .inl ((a, w) :: l)
        | .inr b => .inr b
/-- The LOOP of a control word. -/
def loopOf (d : Decoded) : Option LoopOp :=
  match d with
  | .instr (.loopCounted o _) | .instr (.loopRegisterCount o _) | .instr (.loopUntil o _) => some o
  | _ => none
/-- A code section under the plane that serves its positions: its literals, its LOOP ends. It is no longer than its half. -/
def checkCode (p : Mem) (code : List Byte) : Option Reject :=
  let t := planeTile p
  let max := t.codeLen
  let given := (List.range (code.length / 2)).map fun k => leAt code (2 * k) 2
  let half := given ++ List.replicate (max - given.length) 0
  match codeWords half max 0 with
  | .inr a => some (0x03, a)
  | .inl ws =>
    let lits := (ws.filter fun e => e.2 / 16 % 512 == 511).map (·.1)
    ws.findSome? fun e =>
      let idx := e.2 / 16 % 512
      if idx = 0 ∨ idx = 511 then none
      else match loopOf (decodeCt (bitsAt (t.ctlWord idx) 0 48)) with
        | none => none
        | some o =>
          let last := e.1 + o.fin.toNat
          bad3 e.1 (decide (last ≥ max) || lits.any fun a => decide (a ≤ last) && decide (last ≤ a + 2))

/-- A code section that no plane section of its set meets: its literals, within the section itself (R283; log 13, DESIGN CHOICE). -/
def checkLits (code : List Byte) : Option Reject :=
  match codeWords ((List.range (code.length / 2)).map fun k => leAt code (2 * k) 2) code.length 0 with
  | .inr a => some (0x03, a)
  | .inl _ => none

/-! The layout (R400, R401). -/

def Sec.end_ (e : Sec) : Nat := e.off + e.len
/-- Two sections' rectangles share a position. -/
def Sec.meets (a b : Sec) : Bool :=
  decide (a.rx0 ≤ b.rx1) && decide (b.rx0 ≤ a.rx1) && decide (a.ry0 ≤ b.ry1) && decide (b.ry0 ≤ a.ry1)
/-- A section entry by itself. -/
def Sec.bad (e : Sec) (len nsec : Nat) : Bool :=
  let placed := 2 ≤ e.ty && e.ty ≤ 4
  let script := e.ty == 5 || e.ty == 6
  e.ty == 0 || decide (e.ty > 6) || e.rsv != 0
    || (if placed then decide (e.cset > 15) || decide (e.rx1 < e.rx0) || decide (e.ry1 < e.ry0)
        else e.cset != 0 || e.rx0 != 0 || e.ry0 != 0 || e.rx1 != 0 || e.ry1 != 0)
    || (!script && e.lnr != 0) || (e.ty != 4 && e.addr != 0)
    || e.off % 64 != 0 || decide (e.end_ > len) || decide (e.off < 0x40 + 32 * nsec)
/-- Pairs of a list, each once. -/
def anyPair {α : Type} (p : α → α → Bool) : List α → Bool
  | [] => false
  | a :: l => l.any (p a) || anyPair p l
/-- Bytes outside the header, the entries and the sections are zero. -/
def gapsZero (m : Mem) (len nsec : Nat) (secs : List Sec) : Bool :=
  m.all fun c => decide (c.1 < 0x40 + 32 * nsec) || decide (len ≤ c.1) || secs.any fun e => decide (e.off ≤ c.1) && decide (c.1 < e.end_)
/-- The header, the entries and the sections' places. -/
def checkLayout (s : State) (m : Mem) (len : Nat) (secs : List Sec) : Option Reject :=
  let nsec := imgNsec m
  let nlnr := imgNlnr m
  let none_ := 0xFFFFFFFF
  bad3 none_ (m.nat 0 4 != 0x474D494C || m.nat 4 2 != 1 || m.nat 0x18 8 != len || m.nat 6 1 != s.sku || m.nat 7 1 != 0 || m.nat 0x20 32 != 0
    || nsec == 0 || decide (nsec > 65536) || nlnr == 0 || decide (nlnr > 65535) || decide (0x40 + 32 * nsec > len)
    || secs.any (fun e => e.bad len nsec)
    || anyPair (fun a b => decide (a.off < b.end_) && decide (b.off < a.end_)) secs
    || !gapsZero m len nsec secs
    || (match secs.filter fun e => e.ty == 1 with | [e] => e.len != 64 * nlnr | _ => true)
    || secs.any (fun e => (e.ty == 2 && e.len != planeBytes) || (e.ty == 3 && (e.len % 2 != 0 || e.len == 0)) || (e.ty == 4 && e.len == 0))
    || anyPair (fun a b => a.ty == 4 && b.ty == 4 && a.cset == b.cset && a.meets b && decide (a.addr < b.addr + b.len) && decide (b.addr < a.addr + a.len)) secs
    || secs.any (fun e => (e.ty == 5 || e.ty == 6) && decide (e.lnr ≥ nlnr))
    || anyPair (fun a b => (a.ty == 5 || a.ty == 6) && a.ty == b.ty && a.lnr == b.lnr && (hdrAt m a.off).unit == (hdrAt m b.off).unit) secs)

/-! Loop-nest records (R133, R134), the region's sections (R401) and the switch programs at its boundary (R40). -/

/-- The fields of a record by themselves; the arrival and release segments that R391 builds from it pass R62. -/
def Lnr.fieldsBad (r : Lnr) : Bool :=
  let pos := (List.range 4).map fun i => r.order / 4 ^ i % 4
  let pre := (List.range 4).map fun d => r.preload / 16 ^ d % 16
  decide (r.x0 > 191) || decide (r.y0 > 191) || decide (r.w = 0 ∨ r.w > 192) || decide (r.h = 0 ∨ r.h > 192)
    || r.cnt.any (· == 0) || decide (r.ndim = 0 ∨ r.ndim > 4) || r.period == 0 || r.param % 64 != 0 || decide (r.cset > 15) || r.level != 0
    || decide (r.dom ≥ 2 ^ 30)
    || (r.cnt.drop r.ndim).any (· != 1) || decide (r.total > 2 ^ 40)
    || decide (1 ≤ r.pper ∧ r.pper ≤ 4095)
    || !((List.range r.ndim).all fun d => (pos.take r.ndim).contains d) || !((pos.zipIdx.drop r.ndim).all fun e => e.1 == e.2)
    || pre.any (fun v => decide (v > 4)) || anyPair (fun a b => a != 0 && a == b) pre || (pre.drop r.ndim).any (· != 0)
/-- The step out of a tile through an output: 0 N, 1 E, 2 S, 3 W. -/
def portStep (port : Nat) : Int × Int := match port with | 0 => (0, -1) | 1 => (1, 0) | 2 => (0, 1) | _ => (-1, 0)
/-- An output's link leaves the region, other than an edge link (R40, R46). -/
def State.leaves (s : State) (r : Lnr) (x y port : Nat) : Bool :=
  match s.neighbour x y port with
  | some p => !r.covers p.1 p.2
  | none => false
/-- A record against the image. -/
def checkLnr (s : State) (m : Mem) (secs : List Sec) (writes : Bool) (i : Nat) : Option Reject :=
  let r := imgLnr m secs i
  let planes := secs.filter fun e => e.ty == 2 && e.cset == r.cset
  bad3 i (r.fieldsBad || (writes && decide (1 ≤ r.rbsp ∧ r.rbsp ≤ 4111))
    || planes.any (fun e =>
        let t := planeTile (Mem.write [] 0 (m.bytes e.off planeBytes))
        decide (r.param < t.lay.cb) || decide (r.param + 4096 > t.lay.pb) || decide (r.entry ≥ t.codeLen))
    || r.tiles.any fun p =>
        let rx := p.1 - r.x0
        let ry := p.2 - r.y0
        (secs.filter fun e => e.serves 2 r.cset rx ry).length != 1 || (secs.filter fun e => e.serves 3 r.cset rx ry).length != 1
          || (let t := planeTile (planeOf m secs r.cset rx ry)
              (List.range 4).any fun port => s.leaves r p.1 p.2 port && (List.range 512).any fun e => swSource (t.switchWord e) port != 0))

/-- Data sections lie in the scratchpad of the planes that serve their positions (R401). -/
def dataBad (m : Mem) (secs : List Sec) (e : Sec) : Bool :=
  secs.any fun p => p.ty == 2 && p.cset == e.cset && p.meets e &&
    (let l := (planeTile (Mem.write [] 0 (m.bytes p.off planeBytes))).lay
     decide (e.addr < l.cb) || decide (e.addr + e.len > l.pb))

/-- A code section is longer than its half, in a plane that serves one of its positions (R401). -/
def codeBad (m : Mem) (secs : List Sec) (e : Sec) : Bool :=
  secs.any fun p => p.ty == 2 && p.cset == e.cset && p.meets e && decide (e.len / 2 > (planeTile (Mem.write [] 0 (m.bytes p.off planeBytes))).codeLen)

/-- The load checks of an image, in order: those of R401, the records' places with their fields among them, then the planes and the code halves (R123, R283, R401). -/
def State.loadChecks (s : State) (m : Mem) (len : Nat) : Option Reject :=
  let secs := imgSecs m
  match checkLayout s m len secs with
  | some r => some r
  | none =>
    let planeAt : Sec → Mem := fun e => Mem.write [] 0 (m.bytes e.off planeBytes)
    let writes := secs.any fun e => e.ty == 5 && (hdrAt m e.off).nwr != 0
    firstReject [
      (List.range (imgNlnr m)).findSome? (checkLnr s m secs writes),
      bad3 0xFFFFFFFF (secs.any fun e => (e.ty == 3 && codeBad m secs e) || (e.ty == 4 && dataBad m secs e)),
      (secs.filter fun e => e.ty == 2).findSome? fun e => checkPlane (planeAt e),
      (secs.filter fun e => e.ty == 3).findSome? fun c =>
        let code := m.bytes c.off c.len
        match secs.filter fun e => e.ty == 2 && e.cset == c.cset && e.meets c with
        | [] => checkLits code
        | ps => ps.findSome? fun e => checkCode (planeAt e) code]

/-! The image id, and the command (R123). -/

/-- The offsets of an image's id fields: the header's, the records', the scripts'. -/
def idFields (m : Mem) (secs : List Sec) : List Nat :=
  8 :: ((match secs.find? fun e => e.ty == 1 with
      | some e => (List.range (min (imgNlnr m) 65535)).map fun i => e.off + 64 * i
      | none => [])
    ++ (secs.filter fun e => e.ty == 5 || e.ty == 6).map fun e => e.off + 8)
/-- The id of an image's bytes (R123). -/
def imageId (m : Mem) (len : Nat) (fields : List Nat) : Nat :=
  leAt (sha384 ((fields.foldl (fun m a => m.clear a 8) m).bytes 0 len)) 0 8

/-- The cause that ends the reading of `len` bytes from a virtual address, none when every page answers (R75, R123). -/
def imageReadCause (tbl : Option (List Pte)) (va len : Nat) : Option Nat :=
  match tbl with
  | none => some 0x24
  | some l =>
    (List.range ((va % 4096 + len + 4095) / 4096)).findSome? fun k =>
      let a := va / 4096 * 4096 + 4096 * k
      match findPte l a with
      | none => some 0x24
      | some e => if !e.rd then some 0x25 else if e.pa + (a - e.va) ≥ dramTop then some 0x26 else none

/-- LOAD_IMAGE: the bytes are read at the dispatch (R123); flits of writes in progress to them may have been performed (R236). -/
def execLoadImage (s : State) : Res :=
  let cmd := s.cmdOf 3
  let va := leAt cmd.body 0 8
  let len := leAt cmd.body 8 8
  .next (s.inContext cmd fun s =>
    match imageReadCause (s.table cmd.ctx) va len with
    | some c => (s.endCmd cmd stFaulted c s.now 0 [] {}).settleClose cmd.ctx
    | none =>
      let s := s.readFlits fun pa => (physSpans ((s.table cmd.ctx).getD []) va len).any (touches pa)
      { s with loads := s.loads ++ [{ cmd := cmd, bytes := s.imageMem cmd.ctx va len }] })

/-- IMAGE_LOAD_COMPLETE, of a context's command with a tag: the id, the checks, the registration (R123). -/
def execImageLoadComplete (s : State) : Res :=
  let ctx := s.arg.nat 0
  let tag := s.arg.nat 1
  .next (match s.loads.find? fun j => j.cmd.ctx == ctx && j.cmd.tag == tag with
    | none => s
    | some j =>
      let s : State := { s with loads := s.loads.erase j }
      let m := j.bytes
      let len := leAt j.cmd.body 8 8
      let want := leAt j.cmd.body 16 8
      let fields := idFields m (imgSecs m)
      let end_ : Nat → Nat → FaultRec → State := fun st cause r =>
        (s.endCmd j.cmd st cause (if st = stFaulted then s.now else 0) 0 [] r).settleClose ctx
      if imageId m len fields ≠ want ∨ (fields.any fun a => m.nat a 8 != want) = true then end_ stRefusedImage 0 {}
      else match s.loadChecks m len with
        | some r => end_ stFaulted r.1 { entry := r.2 }
        | none =>
          let k := s.ctx ctx
          if (k.images.any fun i => i.id == want) = true then end_ stRefusedImage 0 {}
          else if k.images.length ≥ 64 then end_ stRefusedResource 0 {}
          else
            let s := s.onCtx ctx fun k => { k with images := k.images ++ [{ id := want, va := leAt j.cmd.body 0 8, len := len }] }
            (s.endDone j.cmd).settleClose ctx)

end Sys2Proof.Machine
end

