-- ==== Sys2Proof/Machine/Matrix.lean ====
section
/-! DEFINITION. The matrix instructions (R348 to R362), and the command that a CPYM chains (R183, R349). -/

namespace Sys2Proof.Machine

/-! Effects, at the issue cycle of the MX slot or of the chained command. -/

/-- The engine is occupied for `n` cycles from c (R165, R348). -/
def Tile.useMx (t : Tile) (c n : Nat) : Tile := { t with mxFree := c + n }
/-- A block's drain tag (R355). -/
def Tile.setTag (t : Tile) (blk fe : Nat) : Tile := { t with tags := (blk, fe) :: t.tags.filter fun e => e.1 != blk }

/-- An MSQ of entry `fe` starts: its tag, its occupation and its first beat (R352 to R355). -/
def Tile.startMsq (t : Tile) (cur : Cur) (fe sa sb b blk : Nat) (ta tb acc : Bool) : Tile :=
  let ent := t.fmtEntry fe
  let nb := ent.bounds b
  let t := (t.useMx cur.c (b + nb)).setTag blk fe
  let job : MsqJob := { c := cur.c, slot := cur.slot, sa := sa, sb := sb, ta := ta, tb := tb, ent := ent, b := b, blk := blk, acc := acc
                        q := 0, a := [], bb := [], first := true }
  ({ t with msq := some job, mxSlots := [sa, sb], mxReadTo := cur.c + b + nb - 2 }).sched cur.c phRead cur.c cur.slot (t.chk cur.c) .msqBeat
/-- An MSQ whose entry is named directly. -/
def Tile.msqDirect (t : Tile) (cur : Cur) (o : MsqOp) (ta tb : Bool) : Tile :=
  t.startMsq cur o.fe.toNat o.sa.toNat o.sb.toNat (o.beats.toNat + 1) o.blk.toNat ta tb o.acc
/-- An MSQ whose entry a loop counter selects (R205). -/
def Tile.msqByIndex (t : Tile) (cur : Cur) (o : MsqIxOp) : Tile :=
  t.startMsq cur (t.msqIndex cur.c o) o.sa.toNat o.sb.toNat (o.beats.toNat + 1) o.blk.toNat (o.form.getLsbD 0) (o.form.getLsbD 1) o.acc
/-- MZERO's write of the whole block at c + 2 (R356). -/
def Tile.zeroBlock (t : Tile) (cur : Cur) (blk : Nat) : Tile :=
  (t.useMx cur.c 1).sched (cur.c + 2) phWrite cur.c cur.slot (t.chk cur.c)
    (.write { rank := 3, iss := cur.c, slot := cur.slot, pool := true, els := [], run := some (t.blkAddr blk, List.replicate 4608 0), sink := .mst, pre := [] })
/-- A drain: 32 rows, each read at c + 2 + i (R358). -/
def Tile.drain (t : Tile) (cur : Cur) (bn x blk : Nat) (masks : Option (Nat × Nat)) (zm : Bool) : Tile :=
  let ent := t.fmtEntry (t.tagOf blk)
  let sx := t.s32 cur.c x
  let u := (sx.setWidth 16).toInt
  let v := ((sx >>> 16).setWidth 16).toInt
  let mr := masks.map fun m => t.m.read m.1 cur.c
  let mc := masks.map fun m => t.m.read m.2 cur.c
  (List.range 32).foldl (fun t i => t.sched (cur.c + 2 + i) phRead cur.c cur.slot (t.chk cur.c)
    (.drainRow blk i (t.bufRec bn, bn) u v mr mc zm ent.ofmt ent.ornd)) (t.useMx cur.c 32)
/-- MSCL's scale entry (R361). -/
def Tile.putScale (t : Tile) (cur : Cur) (o : SclOp) : Tile :=
  let i := (if o.bank then 512 else 0) + o.idx.toNat
  { t.useMx cur.c 1 with scl := (i, (t.s32 cur.c o.v.toNat).toNat) :: t.scl.filter fun e => e.1 != i }
/-- MSTAT's read at the end of c (R362). -/
def Tile.readMst (t : Tile) (cur : Cur) (o : StatOp) : Tile :=
  ((t.useMx cur.c 1).putS cur o.d 2 0).sched cur.c phEnd cur.c cur.slot false (.mstat o.d.toNat o.clr)

/-! MSQ (R352 to R354). -/

/-- MSQ. -/
def execMsq (o : MsqOp) (s : State) : Res := slotOp (.msq o) s fun t => t.msqDirect s.cur o false false
/-- MSQ.TA: A through the row port. -/
def execMsqTa (o : MsqOp) (s : State) : Res := slotOp (.msqTa o) s fun t => t.msqDirect s.cur o true false
/-- MSQ.TB: B through the row port. -/
def execMsqTb (o : MsqOp) (s : State) : Res := slotOp (.msqTb o) s fun t => t.msqDirect s.cur o false true
/-- MSQ.TAB: both through the row port. -/
def execMsqTab (o : MsqOp) (s : State) : Res := slotOp (.msqTab o) s fun t => t.msqDirect s.cur o true true
/-- An indexed MSQ of any form (R205). -/
def execMsqIndexed (o : MsqIxOp) (s : State) : Res := slotOp (.msqIndexed o) s fun t => t.msqByIndex s.cur o

/-! Blocks, slots, scales and status. -/

/-- MZERO (R356). -/
def execMzero (blk : BitVec 7) (s : State) : Res := slotOp (.mzero blk) s fun t => t.zeroBlock s.cur blk.toNat
/-- MDRAIN (R358). -/
def execMdrain (o : DrainOp) (s : State) : Res := slotOp (.mdrain o) s fun t => t.drain s.cur o.bn.toNat o.x.toNat o.blk.toNat none false
/-- MDRAINM (R358). -/
def execMdrainm (o : DrainMOp) (s : State) : Res :=
  slotOp (.mdrainm o) s fun t => t.drain s.cur o.bn.toNat o.x.toNat o.blk.toNat (some (o.mr.toNat, o.mc.toNat)) o.zm
/-- MCLAIM: the slot is claimed at c + 1 (R360, R175). -/
def execMclaim (slot : BitVec 3) (s : State) : Res :=
  slotOp (.mclaim slot) s fun t => (t.useMx s.cur.c 1).setClaim slot.toNat (s.cur.c + 1) true
/-- MREL: the slot is released at c + 1 (R360, R175). -/
def execMrel (slot : BitVec 3) (s : State) : Res :=
  slotOp (.mrel slot) s fun t => (t.useMx s.cur.c 1).setClaim slot.toNat (s.cur.c + 1) false
/-- MSCL (R361). -/
def execMscl (o : SclOp) (s : State) : Res := slotOp (.mscl o) s fun t => t.putScale s.cur o
/-- MSTAT (R362). -/
def execMstat (o : StatOp) (s : State) : Res := slotOp (.mstat o) s fun t => t.readMst s.cur o

/-! The chained command (R183, R349). -/

/-- The effect of a matrix command on the cycle `cur.c`. -/
def Tile.chainEffect (t : Tile) (cur : Cur) (i : Instr) : Tile :=
  match i with
  | .msq o => t.msqDirect cur o false false
  | .msqTa o => t.msqDirect cur o true false
  | .msqTb o => t.msqDirect cur o false true
  | .msqTab o => t.msqDirect cur o true true
  | .msqIndexed o => t.msqByIndex cur o
  | .mzero blk => t.zeroBlock cur blk.toNat
  | .mdrain o => t.drain cur o.bn.toNat o.x.toNat o.blk.toNat none false
  | .mdrainm o => t.drain cur o.bn.toNat o.x.toNat o.blk.toNat (some (o.mr.toNat, o.mc.toNat)) o.zm
  | .mclaim k => (t.useMx cur.c 1).setClaim k.toNat (cur.c + 1) true
  | .mrel k => (t.useMx cur.c 1).setClaim k.toNat (cur.c + 1) false
  | .mscl o => t.putScale cur o
  | .mstat o => t.readMst cur o
  | _ => t

/-- A chained command on its issue cycle: its causes are imprecise, with SRC 6, and discard it; the engine is occupied on that cycle either way (R165, R349). -/
def Tile.chained (t : Tile) (x y c bits : Nat) : Tile :=
  let cur : Cur := { Cur.none with x := x, y := y, c := c, slot := 6 }
  match decodeItem ⟨.mx, bits⟩ with
  | .instr i =>
    match t.mxBusy c 1 ++ t.mxOwn c i ++ t.earlyCause c i with
    | [] => t.chainEffect cur i
    | l => { t.raiseAll c 6 l with mxFree := max t.mxFree (c + 1) }
  | _ => t

/-- CHAINED_COMMAND_ISSUE: the copy of a channel completed one cycle ago (R183). -/
def execChainedCommandIssue (s : State) : Res :=
  let x := s.arg.nat 0
  let y := s.arg.nat 1
  .next (s.onTile x y fun t =>
    match t.chains.find? fun e => e.1 == s.now && e.2.1 == s.arg.nat 2 with
    | some e => ({ t with chains := t.chains.erase e }).chained x y s.now e.2.2
    | none => t)

end Sys2Proof.Machine
end

