-- ==== Sys2Proof/Machine/MemFabric.lean ====
section
/-! DEFINITION. The vector memory instructions, the atomics, and sending and receiving (R364 to R377). -/

namespace Sys2Proof.Machine

/-! Vector loads and stores (R368, R369). -/

/-- The elements of one beat: position in the beat, bit address or none for a zero. -/
def beatElems (n j : Nat) (l : List CpElem) : List (Nat × Option Nat) :=
  l.filterMap fun e => if e.2.1 = j then some (e.1 % n, match e.2.2 with | .at_ ba => some ba | _ => none) else none
/-- One beat of a load: its read at c + 2 + j, its result at c + 4 + j; with no active element it writes nothing. -/
def Tile.loadBeat (t : Tile) (cur : Cur) (v w j : Nat) (els : List (Nat × Option Nat)) : Tile :=
  let m := (packLanes w (els.map fun e => (e.1, 0))).1
  let t := if m = 0 then t else t.pushRW cur.c cur.slot ⟨.v, 4 * v + j, 4 + j, m, 0⟩
  t.sched (cur.c + 2 + j) phRead cur.c cur.slot (t.chk cur.c) (.loadV v j w els)
/-- A load of `nb` beats. -/
def Tile.vload (t : Tile) (cur : Cur) (v w nb : Nat) (l : List CpElem) : Tile :=
  (List.range nb).foldl (fun t j => t.loadBeat cur v w j (beatElems (1024 / w) j l)) t
/-- A store of `nb` beats: beat j writes at c + 3 + j, rank 2 (R218). -/
def Tile.vstore (t : Tile) (cur : Cur) (v f nb : Nat) (l : List CpElem) : Tile :=
  let w := fmtWidth f
  (List.range nb).foldl (fun t j =>
    let src := (t.vBeat cur.c v j).toNat
    let els := (beatElems (1024 / w) j l).filterMap fun e => e.2.map fun ba => (⟨ba, w, fmtStore f (laneAt w src e.1), 0⟩ : WrElem)
    t.sched (cur.c + 3 + j) phWrite cur.c cur.slot (t.chk cur.c)
      (.write { rank := 2, iss := cur.c, slot := cur.slot, pool := true, els := els, run := none, sink := .fpst, pre := [] })) t
/-- The format and the width of a record's elements. -/
def Tile.recFmt (t : Tile) (bn : BitVec 5) : Nat := (t.bufRec bn.toNat).fmt
def Tile.recWidth (t : Tile) (bn : BitVec 5) : Nat := (t.bufRec bn.toNat).width

/-- VLD. -/
def execVld (o : VMemOp) (s : State) : Res :=
  slotOp (.vld o) s fun t => (t.vload s.cur o.v.toNat (t.recWidth o.bn) (o.nb.toNat + 1) (t.vmemElems s.cur.c o 1)).noteClass s.cur.c (.vld o)
/-- VST. -/
def execVst (o : VMemOp) (s : State) : Res :=
  slotOp (.vst o) s fun t => (t.vstore s.cur o.v.toNat (t.recFmt o.bn) (o.nb.toNat + 1) (t.vmemElems s.cur.c o 1)).noteClass s.cur.c (.vst o)
/-- VLDX: indices from Vi. -/
def execVldx (o : VMemXOp) (s : State) : Res :=
  slotOp (.vldx o) s fun t => (t.vload s.cur o.v.toNat (t.recWidth o.bn) (o.nb.toNat + 1) (t.vmemXElems s.cur.c o)).noteClass s.cur.c (.vldx o)
/-- VSTX: indices from Vi. -/
def execVstx (o : VMemXOp) (s : State) : Res :=
  slotOp (.vstx o) s fun t => (t.vstore s.cur o.v.toNat (t.recFmt o.bn) (o.nb.toNat + 1) (t.vmemXElems s.cur.c o)).noteClass s.cur.c (.vstx o)
/-- VLDB: one element, read again each beat. -/
def execVldb (o : VMemOp) (s : State) : Res :=
  slotOp (.vldb o) s fun t => (t.vload s.cur o.v.toNat (t.recWidth o.bn) (o.nb.toNat + 1) (t.vmemElems s.cur.c o 0)).noteClass s.cur.c (.vldb o)

/-! Atomics (R371, R372). -/

/-- An atomic of an opcode: it reads and writes at c + 2, its scalar is available at c + 3; out of bounds under ZERO the scalar is zero. -/
def Tile.atom (t : Tile) (cur : Cur) (op : Nat) (o : AtomOp) (i : Instr) : Tile :=
  let r := t.bufRec o.bn.toNat
  let t := (t.noteClass cur.c i).putS cur o.s 3 0
  match t.placeLin r (t.operandBase cur.c o.x o.imm.toInt) with
  | .at_ ba =>
    t.sched (cur.c + 2) phRead cur.c cur.slot (t.chk cur.c)
      (.atomic op (r.fmt == 22) (ba / 8) (t.s32 cur.c o.v.toNat) (t.s32 cur.c o.s.toNat) o.s.toNat)
  | _ => t

/-- AADD. -/
def execAadd (o : AtomOp) (s : State) : Res := slotOp (.aadd o) s fun t => t.atom s.cur 0x08 o (.aadd o)
/-- AMAX. -/
def execAmax (o : AtomOp) (s : State) : Res := slotOp (.amax o) s fun t => t.atom s.cur 0x09 o (.amax o)
/-- AMIN. -/
def execAmin (o : AtomOp) (s : State) : Res := slotOp (.amin o) s fun t => t.atom s.cur 0x0A o (.amin o)
/-- AXCH. -/
def execAxch (o : AtomOp) (s : State) : Res := slotOp (.axch o) s fun t => t.atom s.cur 0x0B o (.axch o)
/-- ACAS. -/
def execAcas (o : AtomOp) (s : State) : Res := slotOp (.acas o) s fun t => t.atom s.cur 0x0C o (.acas o)

/-! Sending (R374, R375). -/

/-- Beat j's cycle on the Local input; an earlier-issued form keeps the input, and the beat is lost (R375). -/
def Tile.takeInput (t : Tile) (cur : Cur) (at_ : Nat) : Bool × Tile :=
  if t.localIn.contains at_ then (false, t.sched at_ phEnd cur.c cur.slot false .lost)
  else (true, { t with localIn := t.localIn ++ [at_] })
/-- A beat of register data enters the Local input at c + 1 + j. -/
def Tile.sendBeat (t : Tile) (cur : Cur) (port j : Nat) (data : BitVec 512) : Tile :=
  let r := t.takeInput cur (cur.c + 1 + j)
  if r.1 then { r.2 with out := r.2.out ++ [.inject (cur.c + 1 + j) port ⟨data, false⟩] } else r.2
/-- SEND (R374). -/
def execSend (o : SendOp) (s : State) : Res :=
  slotOp (.send o) s fun t =>
    let v := t.vreg s.cur.c o.v.toNat 2
    (List.range (o.nb.toNat + 1)).foldl (fun t j => t.sendBeat s.cur o.port.toNat j (BitVec.ofNat 512 (v / 2 ^ (512 * j)))) t
/-- SENDS: word 0 from a scalar, the others zero (R374). -/
def execSends (o : SendsOp) (s : State) : Res :=
  slotOp (.sends o) s fun t => t.sendBeat s.cur o.port.toNat 0 ((t.s32 s.cur.c o.s.toNat).setWidth 512)
/-- SENDM: beat j is read at c + j (R374). -/
def execSendm (o : SendmOp) (s : State) : Res :=
  slotOp (.sendm o) s fun t =>
    let w := t.recWidth o.bn
    let l := t.flitElems s.cur.c o.bn.toNat o.x o.imm (o.nb.toNat + 1)
    let t := t.noteClass s.cur.c (.sendm o)
    (List.range (o.nb.toNat + 1)).foldl (fun t j =>
      let r := t.takeInput s.cur (s.cur.c + 1 + j)
      r.2.sched (s.cur.c + j) phRead s.cur.c s.cur.slot (t.chk s.cur.c)
        (.sendm (if r.1 then some o.port.toNat else none) w (beatElems (512 / w) j l))) t

/-! Receiving (R376, R377). -/

/-- The claim of beat j at c + j. -/
def Tile.claimBeat (t : Tile) (cur : Cur) (j : Nat) (k : ClaimKind) : Tile :=
  t.sched (cur.c + j) phClaim cur.c cur.slot (t.chk cur.c) (.claim k j)
/-- RECV: two flits fill a 128-byte beat, available when the last of them is (R377). -/
def execRecv (o : RecvOp) (s : State) : Res :=
  slotOp (.recv o) s fun t =>
    let nb := o.nb.toNat + 1
    let v := o.v.toNat
    let t := (List.range ((nb + 1) / 2)).foldl (fun t k =>
      let both := 2 * k + 1 < nb
      t.pushRW s.cur.c s.cur.slot ⟨.v, 4 * v + k, if both then 2 * k + 3 else 2 * k + 2, if both then 2 ^ 1024 - 1 else 2 ^ 512 - 1, 0⟩) t
    (List.range nb).foldl (fun t j => t.claimBeat s.cur j (.toV v j)) t
/-- RECVS (R377). -/
def execRecvs (o : RecvsOp) (s : State) : Res :=
  slotOp (.recvs o) s fun t => (t.putS s.cur o.s 2 0).claimBeat s.cur 0 (.toS o.s.toNat o.word.toNat)
/-- RECVM (R377). -/
def execRecvm (o : RecvmOp) (s : State) : Res :=
  slotOp (.recvm o) s fun t =>
    let w := t.recWidth o.bn
    let l := t.flitElems s.cur.c o.bn.toNat o.x o.imm (o.nb.toNat + 1)
    (List.range (o.nb.toNat + 1)).foldl (fun t j => t.claimBeat s.cur j (.toM (t.recFmt o.bn) (beatElems (512 / w) j l))) (t.noteClass s.cur.c (.recvm o))

end Sys2Proof.Machine
end

