-- ==== Sys2Proof/Machine/ScalarFp.lean ====
section
/-! DEFINITION. The FP32 instructions of SA and SB (R295 to R299). -/

namespace Sys2Proof.Machine

/-- d = rne32(a + b) (R296). -/
def execFadd (o : RR) (s : State) : Res := slotOp (.fadd o) s fun t => t.fp2 s.cur o 3 fpAdd

/-- d = rne32(a - b) (R296). -/
def execFsub (o : RR) (s : State) : Res := slotOp (.fsub o) s fun t => t.fp2 s.cur o 3 fpSub

/-- d = rne32(a * b) (R296). -/
def execFmul (o : RR) (s : State) : Res := slotOp (.fmul o) s fun t => t.fp2 s.cur o 3 fpMul

/-- d = rne32(a * b + c) (R296). -/
def execFfma (o : RR) (s : State) : Res := slotOp (.ffma o) s fun t => t.fp2 s.cur o 3 (fun a b => fpFma a b (t.s32 s.cur.c o.c.toNat))

/-- Minimum (R298). -/
def execFmin (o : RR) (s : State) : Res := slotOp (.fmin o) s fun t => t.fp2 s.cur o 3 (fpMinMax false)

/-- Maximum (R298). -/
def execFmax (o : RR) (s : State) : Res := slotOp (.fmax o) s fun t => t.fp2 s.cur o 3 (fpMinMax true)

/-- Sign cleared, no flag (R296). -/
def execFabs (o : RR) (s : State) : Res := slotOp (.fabs o) s fun t => t.r1 s.cur o 3 fpAbs

/-- Sign flipped, no flag (R296). -/
def execFneg (o : RR) (s : State) : Res := slotOp (.fneg o) s fun t => t.r1 s.cur o 3 fpNeg

/-- FP32 to INT32 under mode x (R296). -/
def execFcvti (o : RR) (s : State) : Res := slotOp (.fcvti o) s fun t => t.fp1 s.cur o 3 (fpToInt o.x.toNat)

/-- INT32 to FP32 under mode x (R296). -/
def execIcvtf (o : RR) (s : State) : Res := slotOp (.icvtf o) s fun t => t.fp1 s.cur o 3 (intToFp o.x.toNat)

/-- Reciprocal approximation, at c + 4 (R297). -/
def execFrcp (o : RR) (s : State) : Res := slotOp (.frcp o) s fun t => t.fp1 s.cur o 4 (fpApprox false)

/-- Reciprocal square root approximation, at c + 4 (R297). -/
def execFrsq (o : RR) (s : State) : Res := slotOp (.frsq o) s fun t => t.fp1 s.cur o 4 (fpApprox true)

/-- Reciprocal refinement (R299). -/
def execFrcps (o : RR) (s : State) : Res := slotOp (.frcps o) s fun t => t.fp2 s.cur o 3 (fpRefine false)

/-- Reciprocal square root refinement (R299). -/
def execFrsqs (o : RR) (s : State) : Res := slotOp (.frsqs o) s fun t => t.fp2 s.cur o 3 (fpRefine true)

end Sys2Proof.Machine
end

