-- ==== Sys2Proof/Machine/Scheduler.lean ====
section
/-! DEFINITION. The dispatch unit: readiness, the decision of a cycle, and the dispatch of a launch (R101 to R107, R113, R114, R116, R130, R133, R141, R153). -/

namespace Sys2Proof.Machine

/-! Readiness (R107, R116, R141). -/

/-- A launch is staged on its region: dispatched, before its start (R141). One that a halt has stopped has passed its TSTART and waits for a replay: it holds its tiles, but is not staged. -/
def State.stagedNow (s : State) (l : Launch) : Bool :=
  (l.phase == .staged || (l.phase == .fixed && decide (s.now < l.runStart))) && !l.replays
def Lnr.overlaps (a b : Lnr) : Bool :=
  decide (a.x0 < b.x0 + b.w) && decide (b.x0 < a.x0 + a.w) && decide (a.y0 < b.y0 + b.h) && decide (b.y0 < a.y0 + a.h)
/-- A launch with this record is region-free (R141). -/
def State.regionReady (s : State) (r : Lnr) (opening : Nat) : Bool :=
  !(s.launches.any fun l => s.stagedNow l && l.lnr.overlaps r) && s.segRoom r opening
/-- The loop-nest record of an image of a context, when the image is registered and holds it. -/
def State.findLnr (s : State) (ctx img idx : Nat) : Option Lnr :=
  (s.imageOf ctx img).bind fun m => if idx < imgNlnr m then some (imgLnr m (imgSecs m) idx) else none
/-- The region of a launch of this record is free; one that its dispatch will refuse waits for none. -/
def State.launchReady (s : State) (ctx img idx : Nat) : Bool :=
  match s.findLnr ctx img idx with
  | some r => decide (r.x0 + r.w > s.gridW) || decide (r.y0 + r.h > 192) || s.regionReady r (s.ctx ctx).opening
  | none => true
/-- The region of a launch that goes on from its save is free (R120). -/
def State.resumeReady (s : State) (id : Nat) : Bool :=
  match s.launchOf id with | some l => s.regionReady l.lnr l.opening | none => false
/-- The head of a queue is ready; a dependence leaves its command's list when it is complete (R104, R107). -/
def State.cmdReady (s : State) (c : Cmd) : Bool :=
  match c.resume with
  | some id => s.resumeReady id
  | none =>
    c.deps.isEmpty
      && (match c.kind with
        | 6 => s.launchReady c.ctx (leAt c.body 0 8) (leAt c.body 8 2)
        | 8 => decide ((s.runs.filter fun r => r.cmd.ctx == c.ctx).length < 16)
        | _ => true)
/-- A node of a run is ready (R116). -/
def State.nodeReady (s : State) (r : Run) (i : Nat) : Bool :=
  match r.nodes.getD i .done, r.graph.nodes[i]? with
  | .waiting, some n =>
    ((List.range 64).all fun j => !(bitAt n.pred j) || r.nodes.getD j .waiting == .done) && s.launchReady r.cmd.ctx n.img n.lnr
  | .saved id, some _ => s.resumeReady id
  | _, _ => false
/-- The node of a run that its key dispatches next: saved nodes first, then in ascending order (R107, R120). -/
def State.nextNode (s : State) (r : Run) : Option Nat :=
  let ready := (List.range r.nodes.length).filter (s.nodeReady r)
  (ready.find? fun i => r.nodes.getD i .waiting != .waiting) <|> ready.head?

/-! The decision (R107). -/

/-- A candidate: a node of a run, or the head of a queue. -/
inductive Pick where
  | node (run node : Nat)
  | head (c : Cmd)
  deriving DecidableEq, Repr
/-- The candidate of a key, 16 × context + queue. -/
def State.candidate (s : State) (key : Nat) : Option Pick :=
  let mine := s.runs.filter fun r => 16 * r.cmd.ctx + r.cmd.queue == key && r.fate.isNone
  match mine.findSome? fun r => (s.nextNode r).map fun i => Pick.node r.id i with
  | some p => some p
  | none =>
    match ((s.ctx (key / 16)).queues.getD (key % 16) []).head? with
    | some c => if s.cmdReady c then some (.head c) else none
    | none => none
/-- The choice among the keys of a priority, from its pointer on. -/
def State.chooseAt (s : State) (prio : Nat) : Option (Nat × Pick) :=
  let keys := ((List.range 256).map fun i => (s.pointers.getD prio 0 + i) % 256).filter fun k => k % 16 / 4 == prio
  keys.findSome? fun k => (s.candidate k).map fun p => (k, p)
/-- The decision: the highest priority that has a candidate. -/
def State.choose (s : State) : Option (Nat × Nat × Pick) := [3, 2, 1, 0].findSome? fun pr => (s.chooseAt pr).map fun e => (pr, e.1, e.2)

/-- A saved launch is dispatched again: it is staged for its resume (R120, R158), unless another context now holds its group id in a node that it needs (R153). -/
def State.restage (s : State) (id : Nat) : State :=
  match s.launchOf id with
  | none => s
  | some l =>
    if s.segClash l.lnr l.opening then s.endLaunch l stFaulted 0x86 s.now ((l.stopped.map (·.b)).getD 0) { entry := l.lnrIdx }
    else
      (s.setLaunch { l with
        phase := .staged, resume := l.stopped.map (·.off), d := s.now, lf := none, scripts := l.scripts.map fun c => { c with ready := none } }).loadNow id
/-- What is chosen leaves its queue or its run and acts (R106, R107). -/
def State.take1 (s : State) (p : Pick) : State :=
  match p with
  | .head c =>
    let s := s.onCtx c.ctx fun k => { k with queues := k.queues.modify c.queue fun q => q.drop 1 }
    (match c.resume with
    | some id => s.restage id
    | none =>
      let row := match c.kind with | 3 => 27 | 4 => 29 | 5 => 30 | 6 => 32 | 7 => 33 | 8 => 34 | 9 => 35 | _ => 37
      { s with fetch := s.fetch ++ [eventItem row ⟨[c.sess, c.ctx, c.queue, c.tag] ++ c.deps, c.body⟩] })
  | .node run i =>
    match s.runs.find? fun r => r.id == run with
    | none => s
    | some r =>
      let saved := match r.nodes.getD i .waiting with | .saved id => some id | _ => none
      let s := s.onRun run fun r => { r with nodes := r.nodes.set i .running }
      match saved with
      | some id => s.restage id
      | none => { s with
          picked := some (run, i), fetch := s.fetch ++ [eventItem 32 ⟨[r.cmd.sess, r.cmd.ctx, r.cmd.queue, r.cmd.tag], []⟩] }
/-- DISPATCH: at most one decision on each cycle, none while a halt, a thermal halt or the loss of a unit forbids it (R29, R107, R256, R257). -/
def execDispatch (s : State) : Res :=
  .next (if s.mode ≠ .ready ∨ s.halted ∨ s.noDispatch ∨ s.decidedAt = some s.now then s
    else
      let s : State := { s with decidedAt := some s.now }
      match s.choose with
      | none => s
      | some (pr, k, p) => State.wake ({ s with pointers := s.pointers.set pr ((k + 1) % 256) }.take1 p))

/-! The dispatch of a launch (R101, R113, R114, R116, R130, R133, R153). -/

/-- What a LAUNCH or a node asks for: image, record, parameter bytes, START_AT, level. -/
structure Ask where
  img : Nat
  lnr : Nat
  params : List Byte
  startAt : Nat
  level : Nat
  deriving DecidableEq, Repr
def askCmd (b : List Byte) (level : Nat) : Ask :=
  { img := leAt b 0 8, lnr := leAt b 8 2, params := slice b 24 (leAt b 10 2), startAt := leAt b 16 8, level := level }
def askNode (r : Run) (n : NodeRec) : Ask :=
  let p := r.graph.params
  { img := n.img, lnr := n.lnr, params := ((p.drop n.pfirst).take n.pcount).flatMap (leBytes 4)
    startAt := if n.saidx = 0xFFFF then 0 else p.getD n.saidx 0 + p.getD (n.saidx + 1) 0 * 2 ^ 32, level := r.level }
/-- What refuses a launch at its dispatch: status and cause. -/
def State.launchRefusal (s : State) (ctx : Nat) (a : Ask) : Option (Nat × Nat) :=
  match s.imageOf ctx a.img with
  | none => some (stRefusedImage, 0)
  | some m =>
    let secs := imgSecs m
    let r := imgLnr m secs a.lnr
    let bridge := secs.any fun e => e.ty == 6
    if imgNlnr m ≤ a.lnr then some (stRefusedFormat, 0)
    else if s.gridW < r.x0 + r.w ∨ 192 < r.y0 + r.h then some (stRefusedSku, 0)
    else if a.level = 0 ∧ r.rbsp = 0 then some (stRefusedLevel, 0)
    else if bridge ∧ a.startAt = 0 then some (stRefusedFormat, 0)
    else if s.segClash r (s.ctx ctx).opening then some (stFaulted, 0x86)
    else none
/-- The launch that is staged at its dispatch. -/
def State.newLaunch (s : State) (cmd : Cmd) (node : Option (Nat × Nat)) (a : Ask) (m : Mem) : Launch :=
  let secs := imgSecs m
  { id := s.nextId, cmd := cmd, node := node, opening := (s.ctx cmd.ctx).opening, image := a.img, lnrIdx := a.lnr
    lnr := { imgLnr m secs a.lnr with level := a.level }, level := a.level, params := a.params, startAt := a.startAt
    scripts := (imgScripts m secs a.lnr).map (·.2.2), d := s.now, lf := none, tstart0 := none, tstart := 0, runStart := 0, phase := .staged
    stop := none, behind := none, stopped := none, preemptAgain := false, discardFrom := none, retire := none, ckpt := 0, resumedFrom := 0, halts := 0
    resume := none, log := [], logCount := 0, logLost := 0 }
/-- A LAUNCH or a node of a run is dispatched. -/
def State.dispatchLaunch (s : State) (cmd : Cmd) (node : Option (Nat × Nat)) (a : Ask) : State :=
  match s.launchRefusal cmd.ctx a with
  | some (st, cause) =>
    let w0 := if st = stFaulted then s.now else 0
    (match node with
    | none => s.endCmd cmd st cause w0 0 [] (if st = stFaulted then { entry := a.lnr } else {})
    | some (run, i) => s.nodeEnds run i ⟨st, cause, w0, 0, {}⟩)
  | none =>
    match s.imageOf cmd.ctx a.img with
    | some m => State.loadNow { s with launches := s.launches ++ [s.newLaunch cmd node a m], nextId := s.nextId + 1 } s.nextId
    | none => s
/-- LAUNCH, at its dispatch: of a command, or of the node that DISPATCH has picked (R101, R116). -/
def execLaunch (s : State) : Res :=
  let cmd := s.cmdOf 6
  .next (match s.picked with
    | some (run, i) =>
      let s : State := { s with picked := none }
      match s.runs.find? fun r => r.id == run with
      | none => s
      | some r =>
        match r.graph.nodes[i]? with
        | some n => s.dispatchLaunch r.cmd (some (run, i)) (askNode r n)
        | none => s
    | none => s.inContext cmd fun s => s.dispatchLaunch cmd none (askCmd cmd.body (s.ctx cmd.ctx).level))

end Sys2Proof.Machine
end

