-- ==== Sys2Proof/Machine/VectorInt.lean ====
section
/-! DEFINITION. The vector engine: what every VX instruction shares, and integer lanes (R324 to R331). -/

namespace Sys2Proof.Machine

/-- A VX instruction occupies the engine for its beats (R165, R326). -/
def Tile.useVx (t : Tile) (c : Nat) (o : VxOp) : Tile := { t with vxFree := c + o.nb }
/-- A VX instruction: it traps in place of acting, or occupies the engine and enters its result (R324, R326). -/
def vxOp (i : Instr) (o : VxOp) (s : State) (res : Tile → Out) : Res :=
  slotOp i s fun t => (t.useVx s.cur.c o).pushOut s.cur.c s.cur.slot (res t)

/-- Operand registers read at c, and the active results (R324, R325). -/
def Tile.vx1 (t : Tile) (c : Nat) (o : VxOp) : Nat := t.vreg c o.va.toNat o.nb
def Tile.vx2 (t : Tile) (c : Nat) (o : VxOp) : Nat := t.vreg c o.vb.toNat o.nb
def Tile.vx3 (t : Tile) (c : Nat) (o : VxOp) : Nat := t.vreg c o.vc.toNat o.nb
def Tile.act (t : Tile) (c : Nat) (o : VxOp) : Nat := t.maskField c o.mask

/-- Two-operand and one-operand integer lanes of a tile. -/
def Tile.int2 (t : Tile) (c : Nat) (o : VxOp) (f : Nat → Nat → Nat → Nat) : Out := intLanes2 o (t.vx1 c o) (t.vx2 c o) (t.act c o) f
def Tile.int1 (t : Tile) (c : Nat) (o : VxOp) (f : Nat → Nat → Nat) : Out := intLanes1 o (t.vx1 c o) (t.act c o) f
/-- A widening product of a tile, added to the pair Vd, Vd + 1 with `acc` (R331). -/
def Tile.wide (t : Tile) (c : Nat) (o : VxOp) (sg acc : Bool) : Out :=
  wideMul o (t.vx1 c o) (t.vx2 c o) (t.act c o) sg
    (if acc then some (t.vreg c o.vd.toNat o.nb, t.vreg c (o.vd.toNat + 1) o.nb) else none)

/-- VADD (R330). -/
def execVadd (o : VxOp) (s : State) : Res := vxOp (.vadd o) o s fun t => t.int2 s.cur.c o lane_add
/-- VSUB (R330). -/
def execVsub (o : VxOp) (s : State) : Res := vxOp (.vsub o) o s fun t => t.int2 s.cur.c o lane_sub
/-- VADDS (R330). -/
def execVadds (o : VxOp) (s : State) : Res := vxOp (.vadds o) o s fun t => t.int2 s.cur.c o (fun w a b => satPat w true (sInt w a + sInt w b))
/-- VADDSU (R330). -/
def execVaddsu (o : VxOp) (s : State) : Res := vxOp (.vaddsu o) o s fun t => t.int2 s.cur.c o (fun w a b => satPat w false ((a : Int) + b))
/-- VSUBS (R330). -/
def execVsubs (o : VxOp) (s : State) : Res := vxOp (.vsubs o) o s fun t => t.int2 s.cur.c o (fun w a b => satPat w true (sInt w a - sInt w b))
/-- VSUBSU (R330). -/
def execVsubsu (o : VxOp) (s : State) : Res := vxOp (.vsubsu o) o s fun t => t.int2 s.cur.c o (fun w a b => satPat w false ((a : Int) - b))
/-- VMUL (R330). -/
def execVmul (o : VxOp) (s : State) : Res := vxOp (.vmul o) o s fun t => t.int2 s.cur.c o (fun w a b => a * b % 2 ^ w)
/-- VMULH (R330). -/
def execVmulh (o : VxOp) (s : State) : Res := vxOp (.vmulh o) o s fun t => t.int2 s.cur.c o (fun w a b => wrapN w (sInt w a * sInt w b / (2 ^ w : Nat)))
/-- VMULHU (R330). -/
def execVmulhu (o : VxOp) (s : State) : Res := vxOp (.vmulhu o) o s fun t => t.int2 s.cur.c o (fun w a b => a * b / 2 ^ w)
/-- VMULW (R331). -/
def execVmulw (o : VxOp) (s : State) : Res := vxOp (.vmulw o) o s fun t => t.wide s.cur.c o true false
/-- VMULWU (R331). -/
def execVmulwu (o : VxOp) (s : State) : Res := vxOp (.vmulwu o) o s fun t => t.wide s.cur.c o false false
/-- VMACW (R331). -/
def execVmacw (o : VxOp) (s : State) : Res := vxOp (.vmacw o) o s fun t => t.wide s.cur.c o true true
/-- VMACWU (R331). -/
def execVmacwu (o : VxOp) (s : State) : Res := vxOp (.vmacwu o) o s fun t => t.wide s.cur.c o false true
/-- VAND (R330). -/
def execVand (o : VxOp) (s : State) : Res := vxOp (.vand o) o s fun t => t.int2 s.cur.c o (fun _ a b => a &&& b)
/-- VOR (R330). -/
def execVor (o : VxOp) (s : State) : Res := vxOp (.vor o) o s fun t => t.int2 s.cur.c o (fun _ a b => a ||| b)
/-- VXOR (R330). -/
def execVxor (o : VxOp) (s : State) : Res := vxOp (.vxor o) o s fun t => t.int2 s.cur.c o (fun _ a b => a ^^^ b)
/-- VANDN (R330). -/
def execVandn (o : VxOp) (s : State) : Res := vxOp (.vandn o) o s fun t => t.int2 s.cur.c o lane_andn
/-- VSHL (R330). -/
def execVshl (o : VxOp) (s : State) : Res := vxOp (.vshl o) o s fun t => t.int2 s.cur.c o (fun w a b => shlW w a (b % w))
/-- VSHR (R330). -/
def execVshr (o : VxOp) (s : State) : Res := vxOp (.vshr o) o s fun t => t.int2 s.cur.c o (fun w a b => shrW a (b % w))
/-- VSRA (R330). -/
def execVsra (o : VxOp) (s : State) : Res := vxOp (.vsra o) o s fun t => t.int2 s.cur.c o (fun w a b => sraW w a (b % w))
/-- VMIN (R330). -/
def execVmin (o : VxOp) (s : State) : Res := vxOp (.vmin o) o s fun t => t.int2 s.cur.c o (fun w a b => if sInt w a ≤ sInt w b then a else b)
/-- VMAX (R330). -/
def execVmax (o : VxOp) (s : State) : Res := vxOp (.vmax o) o s fun t => t.int2 s.cur.c o (fun w a b => if sInt w a ≤ sInt w b then b else a)
/-- VMINU (R330). -/
def execVminu (o : VxOp) (s : State) : Res := vxOp (.vminu o) o s fun t => t.int2 s.cur.c o (fun _ a b => min a b)
/-- VMAXU (R330). -/
def execVmaxu (o : VxOp) (s : State) : Res := vxOp (.vmaxu o) o s fun t => t.int2 s.cur.c o (fun _ a b => max a b)
/-- VABS (R330). -/
def execVabs (o : VxOp) (s : State) : Res := vxOp (.vabs o) o s fun t => t.int1 s.cur.c o lane_abs
/-- VAVG (R330). -/
def execVavg (o : VxOp) (s : State) : Res := vxOp (.vavg o) o s fun t => t.int2 s.cur.c o lane_avg
/-- VCLZ (R330). -/
def execVclz (o : VxOp) (s : State) : Res := vxOp (.vclz o) o s fun t => t.int1 s.cur.c o clzW
/-- VPOPC (R330). -/
def execVpopc (o : VxOp) (s : State) : Res := vxOp (.vpopc o) o s fun t => t.int1 s.cur.c o (fun w a => popCount w a)
/-- VSHLI (R330). -/
def execVshli (o : VxOp) (s : State) : Res := vxOp (.vshli o) o s fun t => t.int1 s.cur.c o (fun w a => shlW w a (o.n 4 0))
/-- VSHRI (R330). -/
def execVshri (o : VxOp) (s : State) : Res := vxOp (.vshri o) o s fun t => t.int1 s.cur.c o (fun _ a => shrW a (o.n 4 0))
/-- VSRAI (R330). -/
def execVsrai (o : VxOp) (s : State) : Res := vxOp (.vsrai o) o s fun t => t.int1 s.cur.c o (fun w a => sraW w a (o.n 4 0))

end Sys2Proof.Machine
end

