-- ==== Sys2Proof/Machine/VectorConv.lean ====
section
/-! DEFINITION. Conversions and quantisation of the vector engine (R337 to R343). -/

namespace Sys2Proof.Machine

/-- A conversion's result, and under SR the advance of SRCTR by b, available at c + 1 (R210). -/
def srAdvance (o : VxOp) (ctr : BitVec 32) (r : Out) : Out :=
  if o.n 2 0 = 5 then { r with ws := r.ws ++ [rwSp spSRCTR 1 ((ctr + BitVec.ofNat 32 o.nb).setWidth 64)] } else r
def Tile.srSeed (t : Tile) (c : Nat) : BitVec 32 := (t.spr c spSRSEED).setWidth 32
def Tile.srCtr (t : Tile) (c : Nat) : BitVec 32 := (t.spr c spSRCTR).setWidth 32
/-- The Q register that an operand field names (R339). -/
def Tile.qSel (t : Tile) (c : Nat) (o : VxOp) (f : BitVec 6) : Nat := t.qIndex c (o.n 4 4 == 1) f.toNat

/-- VCVT (R337). -/
def execVcvt (o : VxOp) (s : State) : Res := vxOp (.vcvt o) o s fun t => 
    srAdvance o (t.srCtr s.cur.c) (vcvtOut o (t.vx1 s.cur.c o) (t.act s.cur.c o) (t.srSeed s.cur.c) (t.srCtr s.cur.c))
/-- VWIDEN (R338). -/
def execVwiden (o : VxOp) (s : State) : Res := vxOp (.vwiden o) o s fun t => vwidenOut o (t.vx1 s.cur.c o) (t.act s.cur.c o)
/-- VNARROW (R338). -/
def execVnarrow (o : VxOp) (s : State) : Res := vxOp (.vnarrow o) o s fun t => vnarrowOut o (t.vx1 s.cur.c o) (t.act s.cur.c o) false
/-- VNARROWU (R338). -/
def execVnarrowu (o : VxOp) (s : State) : Res := vxOp (.vnarrowu o) o s fun t => vnarrowOut o (t.vx1 s.cur.c o) (t.act s.cur.c o) true
/-- VQMAX (R340). -/
def execVqmax (o : VxOp) (s : State) : Res := vxOp (.vqmax o) o s fun t => 
    { ws := [rwQ (t.qSel s.cur.c o o.vd) (6 + o.nb) (qmaxOf o (t.vx1 s.cur.c o) (t.act s.cur.c o))], fl := [] }
/-- VQSCALE (R341). -/
def execVqscale (o : VxOp) (s : State) : Res := vxOp (.vqscale o) o s fun t => 
    let r := qscaleOf (o.n 7 5 + 11) (t.q32 s.cur.c (t.qSel s.cur.c o o.va))
    { ws := [rwQ (t.qSel s.cur.c o o.vd) 4 r.1], fl := if r.2 = 0 then [] else [(4, r.2)] }
/-- VQCVT (R342). -/
def execVqcvt (o : VxOp) (s : State) : Res := vxOp (.vqcvt o) o s fun t => 
    srAdvance o (t.srCtr s.cur.c)
      (vqcvtOut o (t.vx1 s.cur.c o) (t.q32 (s.cur.c + 2) (t.qSel s.cur.c o o.vb)) (t.act s.cur.c o) (t.srSeed s.cur.c) (t.srCtr s.cur.c))
/-- VDEQ (R343). -/
def execVdeq (o : VxOp) (s : State) : Res := vxOp (.vdeq o) o s fun t => 
    srAdvance o (t.srCtr s.cur.c)
      (vdeqOut o (t.vx1 s.cur.c o) (t.q32 (s.cur.c + 2) (t.qSel s.cur.c o o.vb)) (t.act s.cur.c o) (t.srSeed s.cur.c) (t.srCtr s.cur.c))

end Sys2Proof.Machine
end

