-- ==== Sys2Proof/Machine/VectorFloat.lean ====
section
/-! DEFINITION. Float lanes and float compares of the vector engine (R332 to R334). -/

namespace Sys2Proof.Machine

/-- Two-operand and one-operand float lanes of a tile. -/
def Tile.flt2 (t : Tile) (c : Nat) (o : VxOp) (f : Fmt → Nat → Nat → Nat × Flags) : Out := floatLanes2 o (t.vx1 c o) (t.vx2 c o) (t.act c o) f
def Tile.flt1 (t : Tile) (c : Nat) (o : VxOp) (f : Fmt → Nat → Nat × Flags) : Out := floatLanes1 o (t.vx1 c o) (t.act c o) f
/-- A compare of a tile (R334). -/
def Tile.cmp (t : Tile) (c : Nat) (o : VxOp) (f : Nat → Nat → Nat → Bool × Flags) : Out := cmpLanes o (t.vx1 c o) (t.vx2 c o) (t.act c o) f
/-- A float compare: 0 equal, 1 less, 2 less or equal, 3 unordered. -/
def Tile.fcmp (t : Tile) (c : Nat) (o : VxOp) (op : Nat) : Out := t.cmp c o fun _ a b => (tyFmt o.ty).compare op a b

/-- a * b + c in lanes, one rounding (R332). -/
def fmaLanes (o : VxOp) (va vb vc m : Nat) : Out :=
  let w := tyWidth o.ty
  let f := tyFmt o.ty
  let ab := (lanes w o.nb va).zip (lanes w o.nb vb)
  laneOutF o.vd.toNat w o.nb 4 m (List.zipWith (fun x y => f.fmaV (f.val x.1) (f.val x.2) (f.val y)) ab (lanes w o.nb vc))

/-- VFADD (R332). -/
def execVfadd (o : VxOp) (s : State) : Res := vxOp (.vfadd o) o s fun t => t.flt2 s.cur.c o fun f a b => f.addV (f.val a) (f.val b)
/-- VFSUB (R332). -/
def execVfsub (o : VxOp) (s : State) : Res := vxOp (.vfsub o) o s fun t => t.flt2 s.cur.c o fun f a b => f.addV (f.val a) (f.val b).negate
/-- VFMUL (R332). -/
def execVfmul (o : VxOp) (s : State) : Res := vxOp (.vfmul o) o s fun t => t.flt2 s.cur.c o fun f a b => f.mulV (f.val a) (f.val b)
/-- VFFMA (R332). -/
def execVffma (o : VxOp) (s : State) : Res := vxOp (.vffma o) o s fun t => fmaLanes o (t.vx1 s.cur.c o) (t.vx2 s.cur.c o) (t.vx3 s.cur.c o) (t.act s.cur.c o)
/-- VFMIN (R333, R298). -/
def execVfmin (o : VxOp) (s : State) : Res := vxOp (.vfmin o) o s fun t => t.flt2 s.cur.c o fun f a b => f.minMax false a b
/-- VFMAX (R333, R298). -/
def execVfmax (o : VxOp) (s : State) : Res := vxOp (.vfmax o) o s fun t => t.flt2 s.cur.c o fun f a b => f.minMax true a b
/-- VFABS (R332). -/
def execVfabs (o : VxOp) (s : State) : Res := vxOp (.vfabs o) o s fun t => t.flt1 s.cur.c o fun f a => (a % f.signBit, 0)
/-- VFNEG (R332). -/
def execVfneg (o : VxOp) (s : State) : Res := vxOp (.vfneg o) o s fun t => t.flt1 s.cur.c o fun f a => (a ^^^ f.signBit, 0)
/-- VFRCP (R333, R297). -/
def execVfrcp (o : VxOp) (s : State) : Res := vxOp (.vfrcp o) o s fun t => t.flt1 s.cur.c o fun f a => f.approx false a
/-- VFRSQ (R333, R297). -/
def execVfrsq (o : VxOp) (s : State) : Res := vxOp (.vfrsq o) o s fun t => t.flt1 s.cur.c o fun f a => f.approx true a
/-- VFRCPS (R332, R299). -/
def execVfrcps (o : VxOp) (s : State) : Res := vxOp (.vfrcps o) o s fun t => t.flt2 s.cur.c o fun f a b => f.refine false (f.val a) (f.val b)
/-- VFRSQS (R332, R299). -/
def execVfrsqs (o : VxOp) (s : State) : Res := vxOp (.vfrsqs o) o s fun t => t.flt2 s.cur.c o fun f a b => f.refine true (f.val a) (f.val b)
/-- The roots that VFEXP2 multiplies: enough for the least exponent of FP32. -/
def exp2Roots : List Nat := rootsOfTwo 150 (2 * 2 ^ expBits)
/-- VFEXP2 (R332, R333). -/
def execVfexp2 (o : VxOp) (s : State) : Res := vxOp (.vfexp2 o) o s fun t => 
    let roots := exp2Roots
    t.flt1 s.cur.c o fun f a => f.exp2 roots a
/-- VFSCALE (R332). -/
def execVfscale (o : VxOp) (s : State) : Res := vxOp (.vfscale o) o s fun t => t.flt2 s.cur.c o fun f a b => f.scaleBy a (sInt f.bits b)
/-- VCEQ (R334). -/
def execVceq (o : VxOp) (s : State) : Res := vxOp (.vceq o) o s fun t => t.cmp s.cur.c o fun _ a b => (a == b, 0)
/-- VCLT (R334). -/
def execVclt (o : VxOp) (s : State) : Res := vxOp (.vclt o) o s fun t => t.cmp s.cur.c o fun w a b => (decide (sInt w a < sInt w b), 0)
/-- VCLTU (R334). -/
def execVcltu (o : VxOp) (s : State) : Res := vxOp (.vcltu o) o s fun t => t.cmp s.cur.c o fun _ a b => (decide (a < b), 0)
/-- VFCEQ (R334). -/
def execVfceq (o : VxOp) (s : State) : Res := vxOp (.vfceq o) o s fun t => t.fcmp s.cur.c o 0
/-- VFCLT (R334). -/
def execVfclt (o : VxOp) (s : State) : Res := vxOp (.vfclt o) o s fun t => t.fcmp s.cur.c o 1
/-- VFCLE (R334). -/
def execVfcle (o : VxOp) (s : State) : Res := vxOp (.vfcle o) o s fun t => t.fcmp s.cur.c o 2
/-- VFCUN (R334). -/
def execVfcun (o : VxOp) (s : State) : Res := vxOp (.vfcun o) o s fun t => t.fcmp s.cur.c o 3

end Sys2Proof.Machine
end

