-- ==== Sys2Proof/Machine/VectorMove.lean ====
section
/-! DEFINITION. Mask operations, moves, reductions, permutes and VSHRINK of the vector engine (R335, R336, R344 to R347). -/

namespace Sys2Proof.Machine

/-- The elements that an instruction processes (R324). -/
def elemsOf (o : VxOp) : Nat := o.nb * 1024 / tyWidth o.ty
/-- A whole mask register, available at c + 2 (R335). -/
def maskWhole (o : VxOp) (v : Nat) : Out := { ws := [⟨.m, o.vd.toNat % 8, 2, allOnes, v &&& allOnes⟩], fl := [] }
/-- A mask operand (R277). -/
def Tile.ma (t : Tile) (c : Nat) (o : VxOp) : Nat := t.mreg c (o.va.toNat % 8)
def Tile.mb (t : Tile) (c : Nat) (o : VxOp) : Nat := t.mreg c (o.vb.toNat % 8)
/-- A scalar operand of VX. -/
def Tile.sa (t : Tile) (c : Nat) (o : VxOp) : Nat := (t.s32 c (o.va.toNat % 32)).toNat
def Tile.sb (t : Tile) (c : Nat) (o : VxOp) : Nat := (t.s32 c (o.vb.toNat % 32)).toNat
/-- Elements below E whose bit is set and which are active (R335). -/
def Tile.marked (t : Tile) (c : Nat) (o : VxOp) : List Nat :=
  let m := t.ma c o &&& t.act c o
  (List.range (elemsOf o)).filter fun i => bitAt m i
/-- A move: latency 2, result i by its index. -/
def Tile.moveOut (t : Tile) (c : Nat) (o : VxOp) (f : Nat → Nat) : Out :=
  laneOut o.vd.toNat (tyWidth o.ty) o.nb 2 (t.act c o) ((List.range (elemsOf o)).map fun i => f i % 2 ^ tyWidth o.ty)
/-- VEXT of a vector register (R336). -/
def Tile.vextOut (t : Tile) (c : Nat) (o : VxOp) : Out :=
  let w := tyWidth o.ty
  let i := t.sb c o
  if i < (elemsOf o) && !bitAt (t.act c o) i then Out.none
  else
    let x := if i < (elemsOf o) then laneAt w (t.vx1 c o) i else 0
    scalarOut (o.vd.toNat % 32) 3 (if tyIsInt o.ty && o.n 0 0 == 0 then wrapN 32 (sInt w x) else x)
/-- VINS (R336). -/
def Tile.vinsOut (t : Tile) (c : Nat) (o : VxOp) : Out :=
  let i := t.sb c o
  laneOut o.vd.toNat (tyWidth o.ty) o.nb 2 (if i < (elemsOf o) then 2 ^ i else 0)
    ((List.range (elemsOf o)).map fun _ => t.sa c o % 2 ^ tyWidth o.ty)

/-- MAND (R335). -/
def execMand (o : VxOp) (s : State) : Res := vxOp (.mand o) o s fun t => maskWhole o (t.ma s.cur.c o &&& t.mb s.cur.c o)
/-- MOR (R335). -/
def execMor (o : VxOp) (s : State) : Res := vxOp (.mor o) o s fun t => maskWhole o (t.ma s.cur.c o ||| t.mb s.cur.c o)
/-- MXOR (R335). -/
def execMxor (o : VxOp) (s : State) : Res := vxOp (.mxor o) o s fun t => maskWhole o (t.ma s.cur.c o ^^^ t.mb s.cur.c o)
/-- MNOT (R335). -/
def execMnot (o : VxOp) (s : State) : Res := vxOp (.mnot o) o s fun t => maskWhole o (allOnes - t.ma s.cur.c o)
/-- MPOP (R335). -/
def execMpop (o : VxOp) (s : State) : Res := vxOp (.mpop o) o s fun t => scalarOut (o.vd.toNat % 32) 3 (t.marked s.cur.c o).length
/-- MBIT (R335). -/
def execMbit (o : VxOp) (s : State) : Res := vxOp (.mbit o) o s fun t => 
    maskOut (o.vd.toNat % 8) o.nb (tyWidth o.ty) allOnes ((List.range (elemsOf o)).map fun i => (decide (t.sa s.cur.c o ≤ i ∧ i < t.sb s.cur.c o), 0))
/-- MTOV (R335). -/
def execMtov (o : VxOp) (s : State) : Res := vxOp (.mtov o) o s fun t => t.moveOut s.cur.c o fun i => if bitAt (t.ma s.cur.c o) i then 2 ^ tyWidth o.ty - 1 else 0
/-- MFIRST (R335). -/
def execMfirst (o : VxOp) (s : State) : Res := vxOp (.mfirst o) o s fun t => scalarOut (o.vd.toNat % 32) 3 ((t.marked s.cur.c o).headD 0xFFFFFFFF)
/-- VSEL (R336). -/
def execVsel (o : VxOp) (s : State) : Res := vxOp (.vsel o) o s fun t => 
    let m := t.mreg s.cur.c (o.vc.toNat % 8)
    let a := t.vx1 s.cur.c o
    let b := t.vx2 s.cur.c o
    t.moveOut s.cur.c o fun i => laneAt (tyWidth o.ty) (if bitAt m i then a else b) i
/-- VMOV (R336). -/
def execVmov (o : VxOp) (s : State) : Res := vxOp (.vmov o) o s fun t => t.moveOut s.cur.c o (laneAt (tyWidth o.ty) (t.vx1 s.cur.c o))
/-- VSPLAT (R336). -/
def execVsplat (o : VxOp) (s : State) : Res := vxOp (.vsplat o) o s fun t => t.moveOut s.cur.c o fun _ => if o.n 0 0 = 1 then (t.kreg s.cur.c).toNat else t.sa s.cur.c o
/-- VEXT (R336). -/
def execVext (o : VxOp) (s : State) : Res := vxOp (.vext o) o s fun t => 
    if o.n 1 1 = 1 then scalarOut (o.vd.toNat % 32) 3 (t.q32 s.cur.c (o.va.toNat % 4)) else t.vextOut s.cur.c o
/-- VINS (R336). -/
def execVins (o : VxOp) (s : State) : Res := vxOp (.vins o) o s fun t => t.vinsOut s.cur.c o
/-- VIOTA (R336). -/
def execViota (o : VxOp) (s : State) : Res := vxOp (.viota o) o s fun t => t.moveOut s.cur.c o fun i => t.sa s.cur.c o + i
/-- VZERO (R336). -/
def execVzero (o : VxOp) (s : State) : Res := vxOp (.vzero o) o s fun t => t.moveOut s.cur.c o fun _ => 0

/-! Reductions (R344). -/

/-- VRSUM (R344). -/
def execVrsum (o : VxOp) (s : State) : Res := vxOp (.vrsum o) o s fun t => intReduce o (t.vx1 s.cur.c o) (t.act s.cur.c o) true (fun _ => 0) (· + ·)
/-- VRSUMU (R344). -/
def execVrsumu (o : VxOp) (s : State) : Res := vxOp (.vrsumu o) o s fun t => intReduce o (t.vx1 s.cur.c o) (t.act s.cur.c o) false (fun _ => 0) (· + ·)
/-- VRMAX (R344). -/
def execVrmax (o : VxOp) (s : State) : Res := vxOp (.vrmax o) o s fun t => intReduce o (t.vx1 s.cur.c o) (t.act s.cur.c o) true (fun w => 2 ^ (w - 1)) max
/-- VRMIN (R344). -/
def execVrmin (o : VxOp) (s : State) : Res := vxOp (.vrmin o) o s fun t => intReduce o (t.vx1 s.cur.c o) (t.act s.cur.c o) true (fun w => 2 ^ (w - 1) - 1) min
/-- VFRSUM (R344). -/
def execVfrsum (o : VxOp) (s : State) : Res := vxOp (.vfrsum o) o s fun t => floatReduce o (t.vx1 s.cur.c o) (t.act s.cur.c o) 0x80000000 fadd32
/-- VFRMAX (R344). -/
def execVfrmax (o : VxOp) (s : State) : Res := vxOp (.vfrmax o) o s fun t => floatReduce o (t.vx1 s.cur.c o) (t.act s.cur.c o) 0xFF800000 (fmtFP32.minMax true)
/-- VFRMIN (R344). -/
def execVfrmin (o : VxOp) (s : State) : Res := vxOp (.vfrmin o) o s fun t => floatReduce o (t.vx1 s.cur.c o) (t.act s.cur.c o) 0x7F800000 (fmtFP32.minMax false)

/-! Permutes (R345, R346). -/

/-- VSHUF (R345). -/
def execVshuf (o : VxOp) (s : State) : Res := vxOp (.vshuf o) o s fun t => 
    permOut o (t.act s.cur.c o) (vshufLane (tyWidth o.ty) (t.vx1 s.cur.c o) (t.vx2 s.cur.c o) (t.pattern (o.n 5 0)))
/-- VROT (R346). -/
def execVrot (o : VxOp) (s : State) : Res := vxOp (.vrot o) o s fun t => 
    let a := t.vx1 s.cur.c o
    let k := t.sb s.cur.c o
    permOut o (t.act s.cur.c o) fun i => laneAt (tyWidth o.ty) a ((i + k) % elemsOf o)
/-- VZIP (R346). -/
def execVzip (o : VxOp) (s : State) : Res := vxOp (.vzip o) o s fun t => 
    permOut o (t.act s.cur.c o) (vzipLane (tyWidth o.ty) (elemsOf o) (o.n 0 0) (t.vx1 s.cur.c o) (t.vx2 s.cur.c o))
/-- VUNZIP (R346). -/
def execVunzip (o : VxOp) (s : State) : Res := vxOp (.vunzip o) o s fun t => 
    permOut o (t.act s.cur.c o) (vunzipLane (tyWidth o.ty) (elemsOf o) (o.n 0 0) (t.vx1 s.cur.c o) (t.vx2 s.cur.c o))
/-- VREV (R346). -/
def execVrev (o : VxOp) (s : State) : Res := vxOp (.vrev o) o s fun t => 
    let a := t.vx1 s.cur.c o
    permOut o (t.act s.cur.c o) fun i => laneAt (tyWidth o.ty) a (elemsOf o - 1 - i)

/-- VSHRINK: the allotment falls to 4 n from c + 1; a larger count has no effect (R347). -/
def execVshrink (o : VxOp) (s : State) : Res :=
  slotOp (.vshrink o) s fun t =>
    let t := t.useVx s.cur.c o
    let n := 4 * o.n 4 0
    if n < t.allotAt s.cur.c then { t with shrink := some (s.cur.c + 1, n), allot := t.allotAt s.cur.c } else t

end Sys2Proof.Machine
end

