-- ==== Sys2Proof/Machine/Dispatch.lean ====
section
/-! DEFINITION. Dispatch: one arm per instruction, each a call of its meaning. -/

namespace Sys2Proof.Machine

def exec (i : Instr) (s : State) : Host.Outcome State Fault Refusal :=
  match i with
  | .nop o => Sys2Proof.Machine.execNop o s
  | .lit o lit => Sys2Proof.Machine.execLit o lit s
  | .add o => Sys2Proof.Machine.execAdd o s
  | .sub o => Sys2Proof.Machine.execSub o s
  | .andS o => Sys2Proof.Machine.execAndS o s
  | .orS o => Sys2Proof.Machine.execOrS o s
  | .xor o => Sys2Proof.Machine.execXor o s
  | .andn o => Sys2Proof.Machine.execAndn o s
  | .shl o => Sys2Proof.Machine.execShl o s
  | .shr o => Sys2Proof.Machine.execShr o s
  | .sra o => Sys2Proof.Machine.execSra o s
  | .rol o => Sys2Proof.Machine.execRol o s
  | .minS o => Sys2Proof.Machine.execMinS o s
  | .maxS o => Sys2Proof.Machine.execMaxS o s
  | .minu o => Sys2Proof.Machine.execMinu o s
  | .maxu o => Sys2Proof.Machine.execMaxu o s
  | .slt o => Sys2Proof.Machine.execSlt o s
  | .sltu o => Sys2Proof.Machine.execSltu o s
  | .seq o => Sys2Proof.Machine.execSeq o s
  | .adds o => Sys2Proof.Machine.execAdds o s
  | .subs o => Sys2Proof.Machine.execSubs o s
  | .absS o => Sys2Proof.Machine.execAbsS o s
  | .clz o => Sys2Proof.Machine.execClz o s
  | .popc o => Sys2Proof.Machine.execPopc o s
  | .brev o => Sys2Proof.Machine.execBrev o s
  | .mul o => Sys2Proof.Machine.execMul o s
  | .mulh o => Sys2Proof.Machine.execMulh o s
  | .mulhu o => Sys2Proof.Machine.execMulhu o s
  | .div o => Sys2Proof.Machine.execDiv o s
  | .divu o => Sys2Proof.Machine.execDivu o s
  | .rem o => Sys2Proof.Machine.execRem o s
  | .remu o => Sys2Proof.Machine.execRemu o s
  | .selp o => Sys2Proof.Machine.execSelp o s
  | .addi o => Sys2Proof.Machine.execAddi o s
  | .andi o => Sys2Proof.Machine.execAndi o s
  | .ori o => Sys2Proof.Machine.execOri o s
  | .xori o => Sys2Proof.Machine.execXori o s
  | .shli o => Sys2Proof.Machine.execShli o s
  | .shri o => Sys2Proof.Machine.execShri o s
  | .srai o => Sys2Proof.Machine.execSrai o s
  | .slti o => Sys2Proof.Machine.execSlti o s
  | .sltiu o => Sys2Proof.Machine.execSltiu o s
  | .movi o => Sys2Proof.Machine.execMovi o s
  | .seth o => Sys2Proof.Machine.execSeth o s
  | .movk o => Sys2Proof.Machine.execMovk o s
  | .fadd o => Sys2Proof.Machine.execFadd o s
  | .fsub o => Sys2Proof.Machine.execFsub o s
  | .fmul o => Sys2Proof.Machine.execFmul o s
  | .ffma o => Sys2Proof.Machine.execFfma o s
  | .fmin o => Sys2Proof.Machine.execFmin o s
  | .fmax o => Sys2Proof.Machine.execFmax o s
  | .fabs o => Sys2Proof.Machine.execFabs o s
  | .fneg o => Sys2Proof.Machine.execFneg o s
  | .fcvti o => Sys2Proof.Machine.execFcvti o s
  | .icvtf o => Sys2Proof.Machine.execIcvtf o s
  | .frcp o => Sys2Proof.Machine.execFrcp o s
  | .frsq o => Sys2Proof.Machine.execFrsq o s
  | .frcps o => Sys2Proof.Machine.execFrcps o s
  | .frsqs o => Sys2Proof.Machine.execFrsqs o s
  | .peq o => Sys2Proof.Machine.execPeq o s
  | .pne o => Sys2Proof.Machine.execPne o s
  | .plt o => Sys2Proof.Machine.execPlt o s
  | .pltu o => Sys2Proof.Machine.execPltu o s
  | .pge o => Sys2Proof.Machine.execPge o s
  | .pgeu o => Sys2Proof.Machine.execPgeu o s
  | .pflt o => Sys2Proof.Machine.execPflt o s
  | .pfle o => Sys2Proof.Machine.execPfle o s
  | .pfun o => Sys2Proof.Machine.execPfun o s
  | .pand o => Sys2Proof.Machine.execPand o s
  | .por o => Sys2Proof.Machine.execPor o s
  | .pxor o => Sys2Proof.Machine.execPxor o s
  | .pnot o => Sys2Proof.Machine.execPnot o s
  | .pset o => Sys2Proof.Machine.execPset o s
  | .ptos o => Sys2Proof.Machine.execPtos o s
  | .rdsp o => Sys2Proof.Machine.execRdsp o s
  | .wrsp o => Sys2Proof.Machine.execWrsp o s
  | .rdcyc o => Sys2Proof.Machine.execRdcyc o s
  | .rdwp o => Sys2Proof.Machine.execRdwp o s
  | .ldw o => Sys2Proof.Machine.execLdw o s
  | .ldh o => Sys2Proof.Machine.execLdh o s
  | .ldhu o => Sys2Proof.Machine.execLdhu o s
  | .ldb o => Sys2Proof.Machine.execLdb o s
  | .ldbu o => Sys2Proof.Machine.execLdbu o s
  | .stw o => Sys2Proof.Machine.execStw o s
  | .sth o => Sys2Proof.Machine.execSth o s
  | .stb o => Sys2Proof.Machine.execStb o s
  | .tree o => Sys2Proof.Machine.execTree o s
  | .jmp t => Sys2Proof.Machine.execJmp t s
  | .jmpIndirect r => Sys2Proof.Machine.execJmpIndirect r s
  | .call t => Sys2Proof.Machine.execCall t s
  | .callIndirect r => Sys2Proof.Machine.execCallIndirect r s
  | .loopCounted o cnt => Sys2Proof.Machine.execLoopCounted o cnt s
  | .loopRegisterCount o r => Sys2Proof.Machine.execLoopRegisterCount o r s
  | .loopUntil o pk => Sys2Proof.Machine.execLoopUntil o pk s
  | .waitc o => Sys2Proof.Machine.execWaitc o s
  | .bara lvl => Sys2Proof.Machine.execBara lvl s
  | .barw o => Sys2Proof.Machine.execBarw o s
  | .step lvl => Sys2Proof.Machine.execStep lvl s
  | .trap imm => Sys2Proof.Machine.execTrap imm s
  | .align d => Sys2Proof.Machine.execAlign d s
  | .rbmark b imm => Sys2Proof.Machine.execRbmark b imm s
  | .vadd o => Sys2Proof.Machine.execVadd o s
  | .vsub o => Sys2Proof.Machine.execVsub o s
  | .vadds o => Sys2Proof.Machine.execVadds o s
  | .vaddsu o => Sys2Proof.Machine.execVaddsu o s
  | .vsubs o => Sys2Proof.Machine.execVsubs o s
  | .vsubsu o => Sys2Proof.Machine.execVsubsu o s
  | .vmul o => Sys2Proof.Machine.execVmul o s
  | .vmulh o => Sys2Proof.Machine.execVmulh o s
  | .vmulhu o => Sys2Proof.Machine.execVmulhu o s
  | .vmulw o => Sys2Proof.Machine.execVmulw o s
  | .vmulwu o => Sys2Proof.Machine.execVmulwu o s
  | .vmacw o => Sys2Proof.Machine.execVmacw o s
  | .vmacwu o => Sys2Proof.Machine.execVmacwu o s
  | .vand o => Sys2Proof.Machine.execVand o s
  | .vor o => Sys2Proof.Machine.execVor o s
  | .vxor o => Sys2Proof.Machine.execVxor o s
  | .vandn o => Sys2Proof.Machine.execVandn o s
  | .vshl o => Sys2Proof.Machine.execVshl o s
  | .vshr o => Sys2Proof.Machine.execVshr o s
  | .vsra o => Sys2Proof.Machine.execVsra o s
  | .vmin o => Sys2Proof.Machine.execVmin o s
  | .vmax o => Sys2Proof.Machine.execVmax o s
  | .vminu o => Sys2Proof.Machine.execVminu o s
  | .vmaxu o => Sys2Proof.Machine.execVmaxu o s
  | .vabs o => Sys2Proof.Machine.execVabs o s
  | .vavg o => Sys2Proof.Machine.execVavg o s
  | .vclz o => Sys2Proof.Machine.execVclz o s
  | .vpopc o => Sys2Proof.Machine.execVpopc o s
  | .vshli o => Sys2Proof.Machine.execVshli o s
  | .vshri o => Sys2Proof.Machine.execVshri o s
  | .vsrai o => Sys2Proof.Machine.execVsrai o s
  | .vfadd o => Sys2Proof.Machine.execVfadd o s
  | .vfsub o => Sys2Proof.Machine.execVfsub o s
  | .vfmul o => Sys2Proof.Machine.execVfmul o s
  | .vffma o => Sys2Proof.Machine.execVffma o s
  | .vfmin o => Sys2Proof.Machine.execVfmin o s
  | .vfmax o => Sys2Proof.Machine.execVfmax o s
  | .vfabs o => Sys2Proof.Machine.execVfabs o s
  | .vfneg o => Sys2Proof.Machine.execVfneg o s
  | .vfrcp o => Sys2Proof.Machine.execVfrcp o s
  | .vfrsq o => Sys2Proof.Machine.execVfrsq o s
  | .vfrcps o => Sys2Proof.Machine.execVfrcps o s
  | .vfrsqs o => Sys2Proof.Machine.execVfrsqs o s
  | .vfexp2 o => Sys2Proof.Machine.execVfexp2 o s
  | .vfscale o => Sys2Proof.Machine.execVfscale o s
  | .vceq o => Sys2Proof.Machine.execVceq o s
  | .vclt o => Sys2Proof.Machine.execVclt o s
  | .vcltu o => Sys2Proof.Machine.execVcltu o s
  | .vfceq o => Sys2Proof.Machine.execVfceq o s
  | .vfclt o => Sys2Proof.Machine.execVfclt o s
  | .vfcle o => Sys2Proof.Machine.execVfcle o s
  | .vfcun o => Sys2Proof.Machine.execVfcun o s
  | .mand o => Sys2Proof.Machine.execMand o s
  | .mor o => Sys2Proof.Machine.execMor o s
  | .mxor o => Sys2Proof.Machine.execMxor o s
  | .mnot o => Sys2Proof.Machine.execMnot o s
  | .mpop o => Sys2Proof.Machine.execMpop o s
  | .mbit o => Sys2Proof.Machine.execMbit o s
  | .mtov o => Sys2Proof.Machine.execMtov o s
  | .mfirst o => Sys2Proof.Machine.execMfirst o s
  | .vsel o => Sys2Proof.Machine.execVsel o s
  | .vmov o => Sys2Proof.Machine.execVmov o s
  | .vsplat o => Sys2Proof.Machine.execVsplat o s
  | .vext o => Sys2Proof.Machine.execVext o s
  | .vins o => Sys2Proof.Machine.execVins o s
  | .viota o => Sys2Proof.Machine.execViota o s
  | .vzero o => Sys2Proof.Machine.execVzero o s
  | .vcvt o => Sys2Proof.Machine.execVcvt o s
  | .vwiden o => Sys2Proof.Machine.execVwiden o s
  | .vnarrow o => Sys2Proof.Machine.execVnarrow o s
  | .vnarrowu o => Sys2Proof.Machine.execVnarrowu o s
  | .vqmax o => Sys2Proof.Machine.execVqmax o s
  | .vqscale o => Sys2Proof.Machine.execVqscale o s
  | .vqcvt o => Sys2Proof.Machine.execVqcvt o s
  | .vdeq o => Sys2Proof.Machine.execVdeq o s
  | .vrsum o => Sys2Proof.Machine.execVrsum o s
  | .vrsumu o => Sys2Proof.Machine.execVrsumu o s
  | .vrmax o => Sys2Proof.Machine.execVrmax o s
  | .vrmin o => Sys2Proof.Machine.execVrmin o s
  | .vfrsum o => Sys2Proof.Machine.execVfrsum o s
  | .vfrmax o => Sys2Proof.Machine.execVfrmax o s
  | .vfrmin o => Sys2Proof.Machine.execVfrmin o s
  | .vshuf o => Sys2Proof.Machine.execVshuf o s
  | .vrot o => Sys2Proof.Machine.execVrot o s
  | .vzip o => Sys2Proof.Machine.execVzip o s
  | .vunzip o => Sys2Proof.Machine.execVunzip o s
  | .vrev o => Sys2Proof.Machine.execVrev o s
  | .vshrink o => Sys2Proof.Machine.execVshrink o s
  | .msq o => Sys2Proof.Machine.execMsq o s
  | .msqTa o => Sys2Proof.Machine.execMsqTa o s
  | .msqTb o => Sys2Proof.Machine.execMsqTb o s
  | .msqTab o => Sys2Proof.Machine.execMsqTab o s
  | .msqIndexed o => Sys2Proof.Machine.execMsqIndexed o s
  | .mzero blk => Sys2Proof.Machine.execMzero blk s
  | .mdrain o => Sys2Proof.Machine.execMdrain o s
  | .mdrainm o => Sys2Proof.Machine.execMdrainm o s
  | .mclaim slot => Sys2Proof.Machine.execMclaim slot s
  | .mrel slot => Sys2Proof.Machine.execMrel slot s
  | .mscl o => Sys2Proof.Machine.execMscl o s
  | .mstat o => Sys2Proof.Machine.execMstat o s
  | .vld o => Sys2Proof.Machine.execVld o s
  | .vst o => Sys2Proof.Machine.execVst o s
  | .vldx o => Sys2Proof.Machine.execVldx o s
  | .vstx o => Sys2Proof.Machine.execVstx o s
  | .vldb o => Sys2Proof.Machine.execVldb o s
  | .aadd o => Sys2Proof.Machine.execAadd o s
  | .amax o => Sys2Proof.Machine.execAmax o s
  | .amin o => Sys2Proof.Machine.execAmin o s
  | .axch o => Sys2Proof.Machine.execAxch o s
  | .acas o => Sys2Proof.Machine.execAcas o s
  | .send o => Sys2Proof.Machine.execSend o s
  | .sends o => Sys2Proof.Machine.execSends o s
  | .sendm o => Sys2Proof.Machine.execSendm o s
  | .recv o => Sys2Proof.Machine.execRecv o s
  | .recvs o => Sys2Proof.Machine.execRecvs o s
  | .recvm o => Sys2Proof.Machine.execRecvm o s
  | .cpy o => Sys2Proof.Machine.execCpy o s
  | .cpym o => Sys2Proof.Machine.execCpym o s
  | .cpyg o => Sys2Proof.Machine.execCpyg o s
  | .cpyw o => Sys2Proof.Machine.execCpyw o s
  | .fence o => Sys2Proof.Machine.execFence o s
  | .pmode o => Sys2Proof.Machine.execPmode o s
  | .svsave o => Sys2Proof.Machine.execSvsave o s
  | .svload o => Sys2Proof.Machine.execSvload o s
  | .svmsg o => Sys2Proof.Machine.execSvmsg o s
  | .powerOnReset => Sys2Proof.Machine.execPowerOnReset s
  | .builtInTestComplete => Sys2Proof.Machine.execBuiltInTestComplete s
  | .firmwareInstall => Sys2Proof.Machine.execFirmwareInstall s
  | .mapInstall => Sys2Proof.Machine.execMapInstall s
  | .fullWaferSelfTest => Sys2Proof.Machine.execFullWaferSelfTest s
  | .fullWaferSelfTestComplete => Sys2Proof.Machine.execFullWaferSelfTestComplete s
  | .allowListInstall => Sys2Proof.Machine.execAllowListInstall s
  | .portAddressConfig => Sys2Proof.Machine.execPortAddressConfig s
  | .clockGroupConfig => Sys2Proof.Machine.execClockGroupConfig s
  | .debugControlWrite => Sys2Proof.Machine.execDebugControlWrite s
  | .clockLower => Sys2Proof.Machine.execClockLower s
  | .clockRaise => Sys2Proof.Machine.execClockRaise s
  | .thermalEmergency => Sys2Proof.Machine.execThermalEmergency s
  | .thermalRecovery => Sys2Proof.Machine.execThermalRecovery s
  | .arpRequest => Sys2Proof.Machine.execArpRequest s
  | .neighborDiscovery => Sys2Proof.Machine.execNeighborDiscovery s
  | .icmpEcho => Sys2Proof.Machine.execIcmpEcho s
  | .openS => Sys2Proof.Machine.execOpenS s
  | .data => Sys2Proof.Machine.execData s
  | .ack => Sys2Proof.Machine.execAck s
  | .probe => Sys2Proof.Machine.execProbe s
  | .close => Sys2Proof.Machine.execClose s
  | .ackTimerExpiry => Sys2Proof.Machine.execAckTimerExpiry s
  | .retransmitTimerExpiry => Sys2Proof.Machine.execRetransmitTimerExpiry s
  | .sessionIdleTimeout => Sys2Proof.Machine.execSessionIdleTimeout s
  | .openContext => Sys2Proof.Machine.execOpenContext s
  | .closeContext => Sys2Proof.Machine.execCloseContext s
  | .loadImage => Sys2Proof.Machine.execLoadImage s
  | .imageLoadComplete => Sys2Proof.Machine.execImageLoadComplete s
  | .writeDram => Sys2Proof.Machine.execWriteDram s
  | .readDram => Sys2Proof.Machine.execReadDram s
  | .hostDramAccessComplete => Sys2Proof.Machine.execHostDramAccessComplete s
  | .launch => Sys2Proof.Machine.execLaunch s
  | .graphDefine => Sys2Proof.Machine.execGraphDefine s
  | .graphRun => Sys2Proof.Machine.execGraphRun s
  | .graphPatch => Sys2Proof.Machine.execGraphPatch s
  | .cancel => Sys2Proof.Machine.execCancel s
  | .setDeterminism => Sys2Proof.Machine.execSetDeterminism s
  | .preempt => Sys2Proof.Machine.execPreempt s
  | .query => Sys2Proof.Machine.execQuery s
  | .attest => Sys2Proof.Machine.execAttest s
  | .subscribe => Sys2Proof.Machine.execSubscribe s
  | .dispatch => Sys2Proof.Machine.execDispatch s
  | .scriptLoadAndPin => Sys2Proof.Machine.execScriptLoadAndPin s
  | .configLoadComplete => Sys2Proof.Machine.execConfigLoadComplete s
  | .tstartFix => Sys2Proof.Machine.execTstartFix s
  | .planeSwap => Sys2Proof.Machine.execPlaneSwap s
  | .launchStart => Sys2Proof.Machine.execLaunchStart s
  | .iterationStart => Sys2Proof.Machine.execIterationStart s
  | .drainPoint => Sys2Proof.Machine.execDrainPoint s
  | .launchRetire => Sys2Proof.Machine.execLaunchRetire s
  | .switchEntryAdvance => Sys2Proof.Machine.execSwitchEntryAdvance s
  | .flitArrival => Sys2Proof.Machine.execFlitArrival s
  | .landingWindowExpiry => Sys2Proof.Machine.execLandingWindowExpiry s
  | .alignmentPoint => Sys2Proof.Machine.execAlignmentPoint s
  | .alignmentSample => Sys2Proof.Machine.execAlignmentSample s
  | .alignmentCompare => Sys2Proof.Machine.execAlignmentCompare s
  | .distaffUpstreamPayload => Sys2Proof.Machine.execDistaffUpstreamPayload s
  | .distaffDownstreamPayload => Sys2Proof.Machine.execDistaffDownstreamPayload s
  | .distaffBroadcastPayload => Sys2Proof.Machine.execDistaffBroadcastPayload s
  | .barrierRelease => Sys2Proof.Machine.execBarrierRelease s
  | .stepSkew => Sys2Proof.Machine.execStepSkew s
  | .rovingMessage => Sys2Proof.Machine.execRovingMessage s
  | .hardwareError => Sys2Proof.Machine.execHardwareError s
  | .launchStop => Sys2Proof.Machine.execLaunchStop s
  | .checkpoint => Sys2Proof.Machine.execCheckpoint s
  | .checkpointConfirm => Sys2Proof.Machine.execCheckpointConfirm s
  | .selfTestComplete => Sys2Proof.Machine.execSelfTestComplete s
  | .resumeStart => Sys2Proof.Machine.execResumeStart s
  | .preemptSaveComplete => Sys2Proof.Machine.execPreemptSaveComplete s
  | .contextKill => Sys2Proof.Machine.execContextKill s
  | .trapTake => Sys2Proof.Machine.execTrapTake s
  | .fetchStart => Sys2Proof.Machine.execFetchStart s
  | .fetchDataArrival => Sys2Proof.Machine.execFetchDataArrival s
  | .stagingInject => Sys2Proof.Machine.execStagingInject s
  | .stagingWriteLanding => Sys2Proof.Machine.execStagingWriteLanding s
  | .commitDecision => Sys2Proof.Machine.execCommitDecision s
  | .commitComplete => Sys2Proof.Machine.execCommitComplete s
  | .bridgeMessageArrival => Sys2Proof.Machine.execBridgeMessageArrival s
  | .bridgeSend => Sys2Proof.Machine.execBridgeSend s
  | .bridgeReceiveInject => Sys2Proof.Machine.execBridgeReceiveInject s
  | .ptpMessage => Sys2Proof.Machine.execPtpMessage s
  | .waitcRelease => Sys2Proof.Machine.execWaitcRelease s
  | .alignResume => Sys2Proof.Machine.execAlignResume s
  | .barwTimeout => Sys2Proof.Machine.execBarwTimeout s
  | .serviceTransferEnd => Sys2Proof.Machine.execServiceTransferEnd s
  | .chainedCommandIssue => Sys2Proof.Machine.execChainedCommandIssue s
  | .debugStop => Sys2Proof.Machine.execDebugStop s
  | .debugResume => Sys2Proof.Machine.execDebugResume s
  | .ret => Sys2Proof.Machine.execRet s
  | .xret => Sys2Proof.Machine.execXret s
  | .endS => Sys2Proof.Machine.execEndS s
  | .haltdbg => Sys2Proof.Machine.execHaltdbg s
  | .trig => Sys2Proof.Machine.execTrig s
  | .preemptpt => Sys2Proof.Machine.execPreemptpt s
  | .chkon => Sys2Proof.Machine.execChkon s
  | .chkoff => Sys2Proof.Machine.execChkoff s
  | .discardedPacket => Sys2Proof.Machine.execDiscardedPacket s
  | .counterDrift => Sys2Proof.Machine.execCounterDrift s
  | .poolSramUpset => Sys2Proof.Machine.execPoolSramUpset s
  | .preemptSaveFailure => Sys2Proof.Machine.execPreemptSaveFailure s
  | .clockGroupNChange => Sys2Proof.Machine.execClockGroupNChange s

end Sys2Proof.Machine
end

