-- ==== Sys2Proof/Machine/Fetch.lean ====
section
/-! DEFINITION. What the machine does between two items: the next thing that falls due, of the agenda or of a tile, and what comes of it (logs 4, 5). -/

namespace Sys2Proof.Machine

/-- A moment: cycle and phase. -/
abbrev Moment := Nat × Nat
def Moment.before (a b : Moment) : Bool := decide (a.1 < b.1) || (a.1 == b.1 && decide (a.2 < b.2))

/-- The micro-action that comes first, of equal ones the one entered first. -/
def firstAct : List Act → Option Act
  | [] => none
  | a :: r => match firstAct r with
    | some b => if Moment.before (b.at_, b.ph) (a.at_, a.ph) then some b else some a
    | none => some a

/-- What falls due. -/
inductive Coming where
  /-- the agenda's first event -/
  | event (d : Due)
  /-- a micro-action of a tile -/
  | act (x y : Nat) (a : Act)
  /-- a word of a tile -/
  | issue (x y c : Nat)
  deriving DecidableEq, Repr
def Coming.moment : Coming → Moment
  | .event d => (d.at_, d.ph)
  | .act _ _ a => (a.at_, a.ph)
  | .issue _ _ c => (c, phIssue)
/-- The earlier of two, the first when they are equal. -/
def earlier : Option Coming → Option Coming → Option Coming
  | none, b => b
  | some a, none => some a
  | some a, some b => if b.moment.before a.moment then some b else some a

/-- The write of memory that a V result to a released register will be: it performs with the other writes of its cycle (R347). -/
def PendWrite.releaseAct (e : PendWrite 1024) : Act :=
  ⟨e.avail, phWrite, e.iss, e.slot, false, .write { rank := 13, iss := e.iss, slot := e.slot, pool := true, els := [], run := none, sink := .fpst, pre := [] }⟩
/-- What falls due first in a tile. -/
def Tile.nextPick (t : Tile) (x y : Nat) : Option Coming :=
  earlier ((firstAct (t.acts ++ (t.vp.filter t.released).map PendWrite.releaseAct)).map (.act x y)) (if t.seq.mode = .run then t.seq.due.map (.issue x y) else none)
/-- What falls due first in the machine: the agenda before the tiles, the tiles in their order (log 5, DEDUCED). -/
def State.nextPick (s : State) : Option Coming :=
  s.tiles.foldl (fun b e => earlier b (e.2.nextPick (e.1 % 256) (e.1 / 256))) (s.agenda.head?.map .event)

/-- Whether an action is a write of cycle c: the writes of a tile on one cycle perform together (R217). -/
def Act.writesAt (a : Act) (c : Nat) : Option WReq :=
  match a.k with
  | .write r => if a.at_ = c then some r else none
  | _ => none

/-- A micro-action of a tile, taken out of its list, performs. -/
def State.runAct (s : State) (x y : Nat) (a : Act) : State :=
  let t := s.tile x y
  match a.k with
  | .event f => { s.setTile x y { t with acts := t.acts.erase a } with fetch := [f] }
  | .write _ =>
    let reqs := t.acts.filterMap fun b => b.writesAt a.at_
    let t : Tile := { t with acts := t.acts.filter fun b => (b.writesAt a.at_).isNone }
    s.setTile x y ((t.settle a.at_).performWrites a.at_ reqs)
  | _ =>
    let t : Tile := { t with acts := t.acts.erase a }
    s.setTile x y ((t.settle a.at_).perform x y (eventItem rowWindowExpiry ⟨[x, y], []⟩) a)

/-- A word of a tile issues: its items are fetched. -/
def State.runIssue (s : State) (x y c : Nat) : State :=
  let r := ((s.tile x y).settle c).issueWord x y c
  { s.setTile x y r.tile with fetch := r.items, cur := r.cur }

/-- What falls due comes about. -/
def State.run (s : State) (p : Coming) : State :=
  match p with
  | .event d => { s with agenda := s.agenda.drop 1, fetch := [d.item] }
  | .act x y a => s.runAct x y a
  | .issue x y c => s.runIssue x y c

/-- With nothing fetched, what falls due next comes about on its cycle; while Roving messages wait, or when nothing is due, the machine goes on by one cycle. -/
def State.tick (s : State) : State :=
  match s.nextPick with
  | none => s.advanceTo (s.now + 1)
  | some p =>
    if s.roving.isEmpty ∨ p.moment.1 ≤ s.now + 1 then ((s.advanceTo p.moment.1).run p).absorb else s.advanceTo (s.now + 1)

/-- An item is taken from the queue: its operands are latched, and it becomes the slot in execution (log 4, DESIGN CHOICE). -/
def State.latch (s : State) (f : FetchItem) (rest : List FetchItem) : State :=
  { s with fetch := rest, arg := f.arg, cur := { s.cur with slot := slotCode f.cls } }

end Sys2Proof.Machine
end

