-- ==== Sys2Proof/Machine/Item.lean ====
section
/-! DEFINITION. The execution of a fetched item. -/

namespace Sys2Proof.Machine

/-- An item executes, and what its tile hands over is drained. -/
def execItem (f : FetchItem) (s : State) : Host.Outcome State Fault Refusal :=
  match decodeItem f with
  | .instr i => match exec i s with
    | .next t => .next t.absorb
    | .fault r => .fault r
    | .refused r => .refused r
  | .empty => .next s
  | .bad c => .fault (.rejected c)

end Sys2Proof.Machine
end

