-- ==== Sys2Proof/Machine/Step.lean ====
section
/-! DEFINITION. One step: an item that has been fetched is decoded and executed; with none, what falls due next comes about. -/

namespace Sys2Proof.Machine

/-- One step of the machine (log 4, DESIGN CHOICE). -/
def step (s : State) : Host.Outcome State Fault Refusal :=
  match s.fetch with
  | f :: rest => execItem f (s.latch f rest)
  | [] => .next s.tick

/-- The item of a word stands first in the fetch queue (logs 3, 4). -/
def State.withFetchWord (s : State) (_nbits w : Nat) : State := { s with fetch := [itemOfWord w] }

end Sys2Proof.Machine
end

