-- ==== Sys2Proof/Safety.lean ====
section
/-! DEFINITION. The terms in which claims are stated: what a step answers, what a result changes and what it leaves, what lets an instruction act, and the canonical form of every memory. -/

namespace Sys2Proof.Machine

/-! Answers and frames. -/

/-- The answer is a next state, and `q` holds of it. -/
def Gives (r : Res) (q : State → Prop) : Prop := ∃ t, r = .next t ∧ q t

/-- Nothing outside the tile of the word in execution differs. -/
def OnlyTile (s t : State) : Prop :=
  { t with tiles := s.tiles } = s ∧ ∀ k, k ≠ tileKey s.cur.x s.cur.y → findTile k t.tiles = findTile k s.tiles

/-- Of a tile, nothing differs but its scalar registers: memory, flags, every other register and the sequencing are as before. -/
def OnlyScalars (a b : Tile) : Prop := { b with s := a.s } = a
/-- Nothing but scalar registers and FPST's flags. -/
def OnlyScalarsFlags (a b : Tile) : Prop := { b with s := a.s, fp := a.fp } = a
/-- Nothing but predicates. -/
def OnlyPreds (a b : Tile) : Prop := { b with p := a.p } = a
/-- Nothing but predicates and FPST's flags. -/
def OnlyPredsFlags (a b : Tile) : Prop := { b with p := a.p, fp := a.fp } = a
/-- Nothing but special registers. -/
def OnlySpecials (a b : Tile) : Prop := { b with sp := a.sp } = a
/-- Every byte of a tile's pool and operand memory reads as before. -/
def SameBytes (a b : Tile) : Prop := ∀ x, b.pool.get x = a.pool.get x ∧ b.opm.get x = a.opm.get x

/-! Register results: the new value from a cycle on; everything else, and the register before that cycle, as before (R162, R184). S0 and P0 discard theirs (R166). -/

/-- S[d] reads `v` from cycle `from_` on. -/
def ScalarWritten (a b : Tile) (d from_ : Nat) (v : Word) : Prop :=
  ∀ c i, b.s32 c i = if i = d ∧ i ≠ 0 ∧ from_ ≤ c then v else a.s32 c i
/-- P[d] reads `v` from cycle `from_` on. -/
def PredWritten (a b : Tile) (d from_ : Nat) (v : Bool) : Prop :=
  ∀ c i, b.pr c i = if i = d ∧ i ≠ 0 ∧ from_ ≤ c then v else a.pr c i
/-- The bits of `m` of special register `n` read as those of `v` from cycle `from_` on. -/
def SpecialWritten (a b : Tile) (n from_ : Nat) (m v : BitVec 64) : Prop :=
  ∀ c i, b.spr c i = if i = n ∧ from_ ≤ c then (a.spr c i &&& ~~~m) ||| (v &&& m) else a.spr c i
/-- Q[d] reads `v` from cycle `from_` on. -/
def ScaleWritten (a b : Tile) (d from_ : Nat) (v : Nat) : Prop :=
  ∀ c i, b.q32 c i = if i = d ∧ from_ ≤ c then v % 2 ^ 32 else a.q32 c i
/-- The bits of M[d] that `on` selects read as `f` from cycle `from_` on. -/
def MaskWritten (a b : Tile) (d from_ : Nat) (on f : Nat → Bool) : Prop :=
  ∀ c i k, k < 1024 → bitAt (b.mreg c i) k = if i = d ∧ on k = true ∧ from_ ≤ c then f k else bitAt (a.mreg c i) k
/-- Element `i` of width `w` of vector register `v`, read at cycle `c` (R168, R324). -/
def Tile.velem (t : Tile) (c w v i : Nat) : Nat := laneAt w (t.vBeat c v (i / (1024 / w))).toNat (i % (1024 / w))
/-- Element `p` of width `w` of the registers from `vd` on reads `f g p`, for the elements that `on g p` selects of register vd + g, from cycle `rel g p` on. -/
def LanesWritten (a b : Tile) (w vd : Nat) (on : Nat → Nat → Bool) (rel f : Nat → Nat → Nat) : Prop :=
  ∀ c v p, p < 4 * (1024 / w) →
    b.velem c w v p = if vd ≤ v ∧ on (v - vd) p = true ∧ rel (v - vd) p ≤ c then f (v - vd) p % 2 ^ w else a.velem c w v p
/-- FPST takes `f i` of the elements `i < n` that `on` selects, each at its cycle `rel i` (R167, R291, R326). -/
def FlagsTaken (a b : Tile) (n : Nat) (on : Nat → Bool) (rel : Nat → Nat) (f : Nat → Flags) : Prop :=
  ∀ c, flagsBetween b.fp 0 c = ((List.range n).filter fun i => on i && decide (rel i ≤ c)).foldl (fun acc i => acc ||| f i) (flagsBetween a.fp 0 c)
/-- FPST takes one instruction's flags at a cycle. -/
def FlagsAt (a b : Tile) (c : Nat) (f : Flags) : Prop := b.fp = if f = 0 then a.fp else a.fp ++ [(c, f)]

/-! What an instruction does, on the tile of its word, from its issue cycle. -/

/-- It writes one scalar, and nothing else. -/
def WritesScalar (s : State) (i : Instr) (d : BitVec 5) (lat : Nat) (v : Word) : Prop :=
  Gives (exec i s) fun t => OnlyTile s t ∧ ScalarWritten s.curTile t.curTile d.toNat (s.cur.c + lat) v
    ∧ OnlyScalars s.curTile t.curTile
/-- It writes one scalar and flags, and nothing else. -/
def WritesScalarFl (s : State) (i : Instr) (d : BitVec 5) (lat : Nat) (r : Word × Flags) : Prop :=
  Gives (exec i s) fun t => OnlyTile s t ∧ ScalarWritten s.curTile t.curTile d.toNat (s.cur.c + lat) r.1
    ∧ FlagsAt s.curTile t.curTile (s.cur.c + lat) r.2 ∧ OnlyScalarsFlags s.curTile t.curTile
/-- It writes one predicate, and nothing else. -/
def WritesPred (s : State) (i : Instr) (d : BitVec 3) (v : Bool) : Prop :=
  Gives (exec i s) fun t => OnlyTile s t ∧ PredWritten s.curTile t.curTile d.toNat (s.cur.c + 1) v
    ∧ OnlyPreds s.curTile t.curTile
/-- It writes one predicate and flags, and nothing else. -/
def WritesPredFl (s : State) (i : Instr) (d : BitVec 3) (r : Bool × Flags) : Prop :=
  Gives (exec i s) fun t => OnlyTile s t ∧ PredWritten s.curTile t.curTile d.toNat (s.cur.c + 1) r.1
    ∧ FlagsAt s.curTile t.curTile (s.cur.c + 1) r.2 ∧ OnlyPredsFlags s.curTile t.curTile
/-- It changes its tile as `f` does, and nothing else. -/
def Acts (s : State) (i : Instr) (f : Tile → Tile) : Prop :=
  Gives (exec i s) fun t => OnlyTile s t ∧ t.curTile = f s.curTile
/-- It traps in place of acting, on a precise cause: code, XVA, SUB (R239, R246). -/
def Traps (s : State) (i : Instr) (e : Cause) : Prop :=
  Gives (exec i s) fun t => OnlyTile s t ∧ t.curTile = s.curTile.takePrecise s.cur e

/-! Operands of the word in execution, and FP32 patterns by their bits (R188). -/

/-- S[r], read at issue (R162, R291). -/
def State.sReg (s : State) (r : BitVec 5) : Word := s.curTile.s32 s.cur.c r.toNat
/-- P[r], read at issue. -/
def State.pReg (s : State) (r : BitVec 3) : Bool := s.curTile.pr s.cur.c r.toNat
/-- Operand b: K with KB, else S[b] (R291). -/
def State.opnd (s : State) (kb : Bool) (b : BitVec 5) : Word := if kb then s.curTile.kreg s.cur.c else s.sReg b
def isNaN32 (a : Word) : Bool := decide (0x7F800000 < a.toNat % 2 ^ 31)
def isSNaN32 (a : Word) : Bool := isNaN32 a && !a.getLsbD 22
def isInf32 (a : Word) : Bool := a.toNat % 2 ^ 31 == 0x7F800000
def isZero32 (a : Word) : Bool := a.toNat % 2 ^ 31 == 0
def nan32 : Word := 0x7FC00000
/-- ∞ of the sign of a pattern's top bit. -/
def inf32 (neg : Bool) : Word := if neg then 0xFF800000 else 0x7F800000
def zero32 (neg : Bool) : Word := if neg then 0x80000000 else 0
/-- INV when one of the operands is a signalling NaN (R295). -/
def invOf (l : List Word) : Flags := if l.any isSNaN32 then fINV else 0
/-- Orders the patterns of numbers and infinities as their values; the two zeros are equal. -/
def fKey (a : Word) : Int := if a.toNat < 2 ^ 31 then (a.toNat : Int) else -((a.toNat : Int) - 2 ^ 31)
/-- The exact value of a finite pattern. -/
def finite32 (a : Word) : Option ExactNum := match fmtFP32.val a.toNat with | .num x => some x | _ => none
/-- The FP32 sum of two patterns with its flags: exact and rounded once for numbers; NaNs and infinities by the table (R295). -/
def FpSum (x y : Word) (r : Word × Flags) : Prop :=
  (isNaN32 x || isNaN32 y → r = (nan32, invOf [x, y]))
  ∧ (isInf32 x && isInf32 y → r = if x.msb = y.msb then (x, 0) else (nan32, fINV))
  ∧ (∀ v, finite32 y = some v → isInf32 x → r = (x, 0)) ∧ (∀ u, finite32 x = some u → isInf32 y → r = (y, 0))
  ∧ (∀ u v, finite32 x = some u → finite32 y = some v → r = fp32 (rne32 (u.add v)))
/-- A number that rounds as the exact quotient a / s does: it is the quotient, or an odd number of more than 100 bits between whose neighbours the quotient lies. -/
def QuotientOf (a s y : ExactNum) : Prop :=
  let against : Nat → Int := fun m => (({ y with neg := false, m := m } : ExactNum).mul { s with neg := false }).cmp { a with neg := false }
  y.neg = (a.neg != s.neg) ∧ (against y.m = 0 ∨ (2 ^ 100 ≤ y.m ∧ y.m % 2 = 1 ∧ against (y.m - 1) < 0 ∧ 0 < against (y.m + 1)))
/-- The k-th magnitude of a float format, from zero up, its exponent unbounded (R188, R189). -/
def Fmt.magnitude (f : Fmt) (k : Nat) : ExactNum :=
  if k < 2 ^ f.fb then ⟨false, k, 1 - (f.bias : Int) - f.fb⟩ else ⟨false, 2 ^ f.fb + k % 2 ^ f.fb, (k / 2 ^ f.fb : Nat) - (f.bias : Int) - f.fb⟩
/-- Of a magnitude y strictly between neighbours t and u, whether a mode takes u, the one away from zero; `odd`: t's last bit is set (R207, R209). -/
def Mode.takesAway (mode : Mode) (neg odd : Bool) (y t u : ExactNum) : Bool :=
  let half := ({ y with e := y.e + 1 } : ExactNum).cmp (t.add u)
  let above : ExactNum → Nat → ExactNum := fun a n => let d := a.add { t with neg := true }; { d with m := d.m * n }
  match mode with
  | .rne => decide (0 < half) || (half == 0 && odd)
  | .rtz => false
  | .rdn => neg
  | .rup => !neg
  | .rna => decide (0 ≤ half)
  | .sr h => decide (0 ≤ (above y 65536).cmp (above u (h + 1)))
/-- What a number rounds to in a format whose largest finite magnitude is `top`: a neighbour by the mode, with NX and UF, or what R208 gives beyond `top`. -/
def Fmt.Rounds (f : Fmt) (top : Nat) (mode : Mode) (x : ExactNum) (r : Nat × Flags) : Prop :=
  let y : ExactNum := { x with neg := false }
  let sign := if x.neg then 2 ^ (f.bits - 1) else 0
  let beyond := match mode with
    | .rne | .rna => f.ieee
    | .rtz | .sr _ => false
    | .rdn => f.ieee && x.neg
    | .rup => f.ieee && !x.neg
  (x.m = 0 → r = (sign, 0)) ∧ ∀ k, x.m ≠ 0 → (f.magnitude k).cmp y ≤ 0 → y.cmp (f.magnitude (k + 1)) < 0 →
    let exact := (f.magnitude k).cmp y == 0
    let n := if !exact && mode.takesAway x.neg (k % 2 == 1) y (f.magnitude k) (f.magnitude (k + 1)) then k + 1 else k
    r = if top < n then (sign + if beyond then top + 1 else top, fOF ||| fNX)
        else (sign + n, if exact then 0 else if n ≠ 0 ∧ n < 2 ^ f.fb then fUF ||| fNX else fNX)
/-- The float formats with the patterns of their largest finite magnitude and of what a NaN becomes (R188, R208). -/
def floatFormats : List (Fmt × Nat × Nat) :=
  [(fmtE2M1, 7, 0), (fmtE2M3, 0x1F, 0), (fmtE3M2, 0x1F, 0), (fmtE4M3, 0x7E, 0x7F), (fmtE5M2, 0x7B, 0x7E), (fmtFP16, 0x7BFF, 0x7E00), (fmtBF16, 0x7F7F, 0x7FC0), (fmtFP32, 0x7F7FFFFF, 0x7FC00000)]
/-- The integer that a number rounds to, from the floor of the exact value, and whether it differs from the number (R207, R209). -/
def roundedInt (mode : Mode) (x : ExactNum) : Int × Bool :=
  let e := min x.e 0
  let one : Int := 2 ^ (-e).toNat
  let lo := x.at e / one
  let part := x.at e % one
  let up := match mode with
    | .rne => decide (one < 2 * part) || (decide (one = 2 * part) && decide (lo % 2 = 1))
    | .rtz => decide (x.at e < 0)
    | .rdn => false
    | .rup => true
    | .rna => decide (one < 2 * part) || (decide (one = 2 * part) && decide (0 < x.at e))
    | .sr h => if 0 ≤ x.at e then decide ((h + 1) * one ≤ 65536 * part) else !decide ((h + 1) * one ≤ 65536 * (one - part))
  if part = 0 then (lo, false) else (if up then lo + 1 else lo, true)
/-- Rounded once to an element of a block format: to its float format, or to INT8 saturated to −127 … 127 with INV (R211, R212). -/
def blockRound (f : Nat) (mode : Mode) (y : ExactNum) : Nat × Flags :=
  let int : Nat × Flags :=
    let k := roundInt mode y
    if k.1 < -127 then (0x81, fINV) else if 127 < k.1 then (0x7F, fINV) else (wrapN 8 k.1, if k.2 then fNX else 0)
  match f with
  | 11 => fmtE2M1.round mode y
  | 12 => fmtE2M3.round mode y
  | 13 => fmtE3M2.round mode y
  | 14 | 17 => fmtE4M3.round mode y
  | 15 => fmtE5M2.round mode y
  | _ => int

/-! What lets an instruction act: the conditions that every slot shares (R164, R165, R170, R231). -/

/-- With the checker on, no operand register is read before its result is available (R164). -/
def State.readsReady (s : State) (i : Instr) : Bool :=
  !(s.curTile.chk s.cur.c) || (s.curTile.reads s.cur.c i).all fun r => (s.curTile.early s.cur.c r).1 == 0
/-- Every vector register that it names lies below the allotment (R170). -/
def State.regsAllotted (s : State) (i : Instr) : Bool := (vregsOf i).all fun v => decide (v < s.curTile.allotAt s.cur.c)
/-- With the checker on, its accesses keep the order of their class (R231). -/
def State.classReady (s : State) (i : Instr) : Bool :=
  !(s.curTile.chk s.cur.c) || (match s.curTile.performSpan i with
    | some (lo, _, wr, cls) => cls == 15 || decide ((if wr then s.curTile.clsAny.getD cls 0 else s.curTile.clsWr.getD cls 0) ≤ s.cur.c + lo)
    | none => true)
/-- A VX slot finds the vector engine free (R165). -/
def State.engineFree (s : State) : Bool := s.cur.slot != 2 || decide (s.curTile.vxFree ≤ s.cur.c)
/-- What every slot asks. -/
def State.mayAct (s : State) (i : Instr) : Bool := s.readsReady i && s.regsAllotted i && s.classReady i && s.engineFree

/-- No active loop level has its last body word at `pc` (R314). -/
def noLoopEnd (t : Tile) (c pc : Nat) : Prop := ∀ k < 4, lsAct (t.spr c (32 + k)) = true → (t.spr c (36 + k)).toNat ≠ pc

/-! Vector instructions: elements, and what they write (R324 to R326). -/

/-- Element `i` of a vector operand of the instruction's type, read at issue. -/
def State.elem (s : State) (o : VxOp) (v : BitVec 6) (i : Nat) : Nat := s.curTile.velem s.cur.c (tyWidth o.ty) v.toNat i
/-- Every form of the VX slot (R327). -/
def vxForms (o : VxOp) : List Instr :=
  [Instr.vadd o, .vsub o, .vadds o, .vaddsu o, .vsubs o, .vsubsu o, .vmul o, .vmulh o, .vmulhu o, .vmulw o, .vmulwu o, .vmacw o, .vmacwu o, .vand o,
   .vor o, .vxor o, .vandn o, .vshl o, .vshr o, .vsra o, .vmin o, .vmax o, .vminu o, .vmaxu o, .vabs o, .vavg o, .vclz o, .vpopc o, .vshli o, .vshri o,
   .vsrai o, .vfadd o, .vfsub o, .vfmul o, .vffma o, .vfmin o, .vfmax o, .vfabs o, .vfneg o, .vfrcp o, .vfrsq o, .vfrcps o, .vfrsqs o, .vfexp2 o,
   .vfscale o, .vceq o, .vclt o, .vcltu o, .vfceq o, .vfclt o, .vfcle o, .vfcun o, .mand o, .mor o, .mxor o, .mnot o, .mpop o, .mbit o, .mtov o,
   .mfirst o, .vsel o, .vmov o, .vsplat o, .vext o, .vins o, .viota o, .vzero o, .vcvt o, .vwiden o, .vnarrow o, .vnarrowu o, .vqmax o, .vqscale o,
   .vqcvt o, .vdeq o, .vrsum o, .vrsumu o, .vrmax o, .vrmin o, .vfrsum o, .vfrmax o, .vfrmin o, .vshuf o, .vrot o, .vzip o, .vunzip o, .vrev o,
   .vshrink o]
/-- E, the number of elements processed (R324). -/
def vxCount (o : VxOp) : Nat := (o.beats.toNat + 1) * 1024 / tyWidth o.ty
/-- Result `i` is active (R325). -/
def State.active (s : State) (o : VxOp) (i : Nat) : Bool := o.mask == 0 || bitAt (s.curTile.mreg s.cur.c o.mask.toNat) i
/-- The signed pattern of `w` bits nearest to an integer, and the unsigned one. -/
def satS (w : Nat) (i : Int) : Nat := wrapN w (max (-(2 ^ (w - 1) : Nat)) (min ((2 ^ (w - 1) : Nat) - 1) i))
def satU (w : Nat) (i : Int) : Nat := wrapN w (max 0 (min ((2 ^ w : Nat) - 1) i))
/-- Of a tile, nothing differs but vector registers and the vector engine's occupation, which lasts for the beats. -/
def OnlyVectors (o : VxOp) (c : Nat) (a b : Tile) : Prop := b.vxFree = c + (o.beats.toNat + 1) ∧ { b with vp := a.vp, vxFree := a.vxFree } = a
/-- The same beside flags, masks, scalars, scale registers or SRCTR. -/
def OnlyVectorsFlags (o : VxOp) (c : Nat) (a b : Tile) : Prop :=
  b.vxFree = c + (o.beats.toNat + 1) ∧ { b with vp := a.vp, fp := a.fp, vxFree := a.vxFree } = a
def OnlyMasksFlags (o : VxOp) (c : Nat) (a b : Tile) : Prop :=
  b.vxFree = c + (o.beats.toNat + 1) ∧ { b with m := a.m, fp := a.fp, vxFree := a.vxFree } = a
def OnlyVxScalars (o : VxOp) (c : Nat) (a b : Tile) : Prop :=
  b.vxFree = c + (o.beats.toNat + 1) ∧ { b with s := a.s, fp := a.fp, vxFree := a.vxFree } = a
def OnlyScales (o : VxOp) (c : Nat) (a b : Tile) : Prop :=
  b.vxFree = c + (o.beats.toNat + 1) ∧ { b with q := a.q, fp := a.fp, vxFree := a.vxFree } = a
def OnlyConverted (o : VxOp) (c : Nat) (a b : Tile) : Prop :=
  b.vxFree = c + (o.beats.toNat + 1) ∧ { b with vp := a.vp, fp := a.fp, sp := a.sp, vxFree := a.vxFree } = a

/-- Each active element of Vd takes its value, beat j at c + lat + j, and nothing else changes. -/
def WritesLanes (s : State) (i : Instr) (o : VxOp) (lat : Nat) (f : Nat → Nat) : Prop :=
  Gives (exec i s) fun t => OnlyTile s t ∧ OnlyVectors o s.cur.c s.curTile t.curTile
    ∧ LanesWritten s.curTile t.curTile (tyWidth o.ty) o.vd.toNat (fun g p => g == 0 && decide (p < vxCount o) && s.active o p)
        (fun _ p => s.cur.c + lat + p / (1024 / tyWidth o.ty)) (fun _ p => f p)
/-- The same with the flags of each active element at its beat's cycle. -/
def WritesLanesFl (s : State) (i : Instr) (o : VxOp) (lat : Nat) (f : Nat → Nat × Flags) : Prop :=
  Gives (exec i s) fun t => OnlyTile s t ∧ OnlyVectorsFlags o s.cur.c s.curTile t.curTile
    ∧ LanesWritten s.curTile t.curTile (tyWidth o.ty) o.vd.toNat (fun g p => g == 0 && decide (p < vxCount o) && s.active o p)
        (fun _ p => s.cur.c + lat + p / (1024 / tyWidth o.ty)) (fun _ p => (f p).1)
    ∧ FlagsTaken s.curTile t.curTile (vxCount o) (s.active o) (fun p => s.cur.c + lat + p / (1024 / tyWidth o.ty)) (fun p => (f p).2)
/-- Each active bit of M[d] takes its value at c + 1 + b, with the flags of each element at its beat's cycle, and nothing else changes. -/
def WritesMaskBits (s : State) (i : Instr) (o : VxOp) (on : Nat → Bool) (f : Nat → Bool × Flags) : Prop :=
  Gives (exec i s) fun t => OnlyTile s t ∧ OnlyMasksFlags o s.cur.c s.curTile t.curTile
    ∧ MaskWritten s.curTile t.curTile (o.vd.toNat % 8) (s.cur.c + o.beats.toNat + 2) (fun p => decide (p < vxCount o) && on p) (fun p => (f p).1)
    ∧ FlagsTaken s.curTile t.curTile (vxCount o) on (fun p => s.cur.c + 2 + p / (1024 / tyWidth o.ty)) (fun p => (f p).2)
/-- A scalar result of the vector engine, with flags, and nothing else changes. -/
def WritesVxScalar (s : State) (i : Instr) (o : VxOp) (lat : Nat) (r : Word × Flags) : Prop :=
  Gives (exec i s) fun t => OnlyTile s t ∧ OnlyVxScalars o s.cur.c s.curTile t.curTile
    ∧ ScalarWritten s.curTile t.curTile (o.vd.toNat % 32) (s.cur.c + lat) r.1 ∧ FlagsAt s.curTile t.curTile (s.cur.c + lat) r.2
/-- A scale result of the vector engine, with flags, and nothing else changes. -/
def WritesVxScale (s : State) (i : Instr) (o : VxOp) (q lat : Nat) (r : Nat × Flags) : Prop :=
  Gives (exec i s) fun t => OnlyTile s t ∧ OnlyScales o s.cur.c s.curTile t.curTile
    ∧ ScaleWritten s.curTile t.curTile q (s.cur.c + lat) r.1 ∧ FlagsAt s.curTile t.curTile (s.cur.c + lat) r.2
/-- A conversion to width `wd`: result p goes to position p / k of register Vd + p % k when the width grows k times, else to position p of Vd, available with the last source beat of its destination beat (R337, R338); under SR, SRCTR advances by the beats (R210). -/
def WritesConverted (s : State) (i : Instr) (o : VxOp) (wd : Nat) (sr : Bool) (f : Nat → Nat × Flags) : Prop :=
  let w := tyWidth o.ty
  Gives (exec i s) fun t => OnlyTile s t ∧ OnlyConverted o s.cur.c s.curTile t.curTile
    ∧ (if w ≤ wd then LanesWritten s.curTile t.curTile wd o.vd.toNat
          (fun g p => decide (g < wd / w) && decide (p * (wd / w) + g < vxCount o) && s.active o (p * (wd / w) + g))
          (fun _ p => s.cur.c + 3 + p / (1024 / wd)) (fun g p => (f (p * (wd / w) + g)).1)
        else LanesWritten s.curTile t.curTile wd o.vd.toNat (fun g p => g == 0 && decide (p < vxCount o) && s.active o p)
          (fun _ p => s.cur.c + 3 + min o.beats.toNat (w / wd * (p / (1024 / wd)) + (w / wd - 1))) (fun _ p => (f p).1))
    ∧ FlagsTaken s.curTile t.curTile (vxCount o) (s.active o) (fun p => s.cur.c + 3 + p / (1024 / w)) (fun p => (f p).2)
    ∧ (if sr then SpecialWritten s.curTile t.curTile 7 (s.cur.c + 1) (BitVec.allOnes 64)
            ((((s.curTile.spr s.cur.c 7).setWidth 32 : Word) + BitVec.ofNat 32 (o.beats.toNat + 1)).setWidth 64)
        else t.curTile.sp = s.curTile.sp)

/-- A packing conversion whose results are available by source beat (R342): source beat j at c + 3 + j, as are its flags. -/
def WritesPacked (s : State) (i : Instr) (o : VxOp) (wd : Nat) (sr : Bool) (f : Nat → Nat × Flags) : Prop :=
  let w := tyWidth o.ty
  let rel : Nat → Nat := fun p => s.cur.c + 3 + p / (1024 / w)
  Gives (exec i s) fun t => OnlyTile s t ∧ OnlyConverted o s.cur.c s.curTile t.curTile
    ∧ LanesWritten s.curTile t.curTile wd o.vd.toNat (fun g p => g == 0 && decide (p < vxCount o) && s.active o p) (fun _ p => rel p) (fun _ p => (f p).1)
    ∧ FlagsTaken s.curTile t.curTile (vxCount o) (s.active o) rel (fun p => (f p).2)
    ∧ (if sr then SpecialWritten s.curTile t.curTile 7 (s.cur.c + 1) (BitVec.allOnes 64)
            ((((s.curTile.spr s.cur.c 7).setWidth 32 : Word) + BitVec.ofNat 32 (o.beats.toNat + 1)).setWidth 64)
        else t.curTile.sp = s.curTile.sp)

/-- The log with one entry more of the launch that holds the tile; entries beyond the 32nd are not stored (R262). -/
def Tile.logged (t : Tile) (c pc cause kind lost : Nat) : List DevEntry :=
  if t.log.length < 32 then t.log ++ [⟨pc, cause, kind, t.rx, t.ry, min lost 0xFFFFFFFF, wrapN 32 ((t.gcy c : Int) - t.base)⟩] else t.log
/-- The exact sum of the element that a cell of a promotion holds and its scaled dot product, where the cell rounds one (R201). -/
def Promo.sum (p : Promo) (old : List Nat) (i j : Nat) : Option ExactNum :=
  let row := sideImg p.ent.afmt p.ent.asrc p.a p.sa i
  let col := sideImg p.ent.bfmt p.ent.bsrc p.b p.sb j
  let dot := (List.zipWith (· * ·) row.im col.im).sum
  let scale := fmtFP32.val (mul32 (fmtFP32.val (mul32 row.sc col.sc)) (.num ⟨false, 1, row.g + col.g⟩))
  match scale, fmtFP32.val (if p.fresh then 0 else old.getD (32 * i + j) 0) with
  | .num s, .num a => if row.bad || col.bad || dot == 0 then none else some (a.add ((numOfInt dot).mul s))
  | _, _ => none
/-- A pattern as a store writes it: bits [7:6] of a 6-bit format are zero (R185, R364). -/
def stored6 (fmt v : Nat) : Nat := if fmt = 7 ∨ fmt = 8 ∨ fmt = 12 ∨ fmt = 13 then v % 64 else v

/-! Accesses that fall due later (R216). -/

/-- A tile's memories are in canonical form. -/
def Tile.memWf (t : Tile) : Bool := t.pool.wf && t.opm.wf && t.cfg0.wf && t.cfg1.wf
/-- Bit `k` of a memory, bytes lowest bit first (R6). -/
def Mem.bit (m : Mem) (k : Nat) : Bool := (m.get (k / 8)).getLsbD (k % 8)
/-- No result to a released vector register becomes available at a cycle (R347). -/
def Tile.noReleased (t : Tile) (c : Nat) : Prop := ∀ e ∈ t.vp, e.avail = c → e.idx / 4 < t.allotAt c
/-- Of two tiles, the second owes `n` further actions; action `i` falls due at `at_ i`. -/
def Owes (t b : Tile) (n : Nat) (at_ : Nat → Nat) (what : Nat → Act → Prop) : Prop :=
  ∃ l : List Act, b.acts = t.acts ++ l ∧ l.length = n ∧ ∀ i a, l[i]? = some a → a.at_ = at_ i ∧ what i a
/-- The one write that an action makes or leads to: rank, and elements in ascending order (R217, R218). -/
def WriteOf (a : Act) (rank : Nat) (pool : Bool) (els : List WrElem) : Prop :=
  ∃ r : WReq, a.k = .write r ∧ r.rank = rank ∧ r.pool = pool ∧ r.els = els ∧ r.run = none
/-- Performing an action adds one action to the tile's, and changes no byte of its memories. -/
def LeadsTo (w b : Tile) (at_ : Nat) (what : Act → Prop) : Prop :=
  SameBytes w b ∧ ∃ a : Act, b.acts = w.acts ++ [a] ∧ a.at_ = at_ ∧ what a
/-- The bit address of an in-bounds or clamped element, if it has one (R177). -/
def Place.ba : Place → Option Nat
  | .at_ x => some x
  | _ => none
def Place.traps : Place → Bool
  | .trap _ _ => true
  | _ => false

/-! The matrix engine (R351 to R358). -/

/-- An MSQ of entry `fe` starts at `c`: it occupies the engine for its beats and its promotion boundaries, tags its block, and owes its first beat; nothing else changes (R352 to R355). -/
def MsqStarted (t b : Tile) (c slot fe sa sb n blk : Nat) (ta tb acc : Bool) : Prop :=
  let e := t.fmtEntry fe
  let nb := (n * e.rate + e.interval - 1) / e.interval
  b.mxFree = c + n + nb ∧ (∀ k, b.tagOf k = if k = blk then fe else t.tagOf k)
  ∧ b.msq = some ⟨c, slot, sa, sb, ta, tb, e, n, blk, acc, 0, [], [], true⟩
  ∧ b.mxSlots = [sa, sb] ∧ b.mxReadTo = c + n + nb - 2 ∧ Owes t b 1 (fun _ => c) (fun _ a => a.k = .msqBeat)
  ∧ { b with mxFree := t.mxFree, tags := t.tags, msq := t.msq, mxSlots := t.mxSlots, mxReadTo := t.mxReadTo, acts := t.acts } = t
/-- An action writes a block's bytes on cycle `at_`, and no other byte of the pool or of operand memory. -/
def BlockWrite (a : Act) (at_ base : Nat) (bs : List Byte) : Prop :=
  ∃ r, a.k = .write r ∧ r.rank = 3 ∧ ∀ w : Tile, w.noReleased at_ →
    (∀ k, (w.performWrites at_ [r]).opm.get k = w.opm.get k)
    ∧ ∀ k, (w.performWrites at_ [r]).pool.get k = if base ≤ k ∧ k < base + bs.length then bs.getD (k - base) 0 else w.pool.get k
/-- MZERO starts at `c`: it owes zeros for its whole block at c + 2, and nothing else changes (R356). -/
def BlockCleared (t b : Tile) (c blk : Nat) : Prop :=
  b.mxFree = c + 1 ∧ { b with mxFree := t.mxFree, acts := t.acts } = t
  ∧ Owes t b 1 (fun _ => c + 2) fun _ a => BlockWrite a (c + 2) (t.blkAddr blk) (List.replicate 4608 0)
/-- A drain starts at `c`: it owes row k's read at c + 2 + k and its write on the next cycle, converted by the entry of the block's tag, masked elements as zero or −∞; nothing else changes (R358). -/
def RowsDrained (t b : Tile) (c blk bn : Nat) (x : Word) (masks : Option (BitVec 1024 × BitVec 1024)) (zm : Bool) : Prop :=
  let low : Word → Int := fun v => (v.setWidth 16).toInt
  let e := t.fmtEntry (t.tagOf blk)
  let r := t.bufRec bn
  b.mxFree = c + 32 ∧ { b with mxFree := t.mxFree, acts := t.acts } = t
  ∧ Owes t b 32 (fun k => c + 2 + k) fun k a => ∀ (px py : Nat) (ev : FetchItem) (w : Tile), w.memWf = true →
      let masked : Nat → Bool := fun j => match masks with
        | some (mr, mc) => !(mr.getLsbD ((low (x >>> 16) + k) % 1024).toNat) || !(mc.getLsbD ((low x + j) % 1024).toNat)
        | none => false
      let val : Nat → FVal := fun j => if masked j then (if zm then .num ⟨false, 0, 0⟩ else .inf true) else fmtFP32.val (w.pool.nat (w.blkAddr blk + 128 * k + 4 * j) 4)
      LeadsTo w (w.perform px py ev a) (c + 3 + k) fun a' => WriteOf a' 3 true
        ((List.range 32).filterMap fun (j : Nat) => (w.place r (low x + (j : Int)) (low (x >>> 16) + (k : Int))).ba.map fun ba =>
          ⟨ba, r.width, (fmtConvert e.ofmt (modeOf e.ornd) (val j)).1, (fmtConvert e.ofmt (modeOf e.ornd) (val j)).2⟩)

/-! Events of the module (R67 to R70, R94 to R126). -/

/-- An instruction with these operands falls due at a cycle. -/
def State.owes (t : State) (at_ : Nat) (i : Instr) (n : List Nat) : Prop :=
  ∃ d ∈ t.agenda, d.at_ = at_ ∧ d.item = eventItem (encode i).bits ⟨n, []⟩
/-- Cycle a is the first from c on that is an alignment point of a tile, by its own counter (R49). -/
def Tile.firstPoint (t : Tile) (c a : Nat) : Prop :=
  let point : Nat → Prop := fun k => t.gcy k ≠ 0 ∧ t.gcy k % 65536 = 0
  c ≤ a ∧ point a ∧ ∀ k, c ≤ k → k < a → ¬ point k
/-- A tile's exchange at its next alignment point is due, after the one that begins on this cycle, if any; of a counter that is a number of 64 bits. -/
def State.owesPoint (t : State) (x y : Nat) : Prop :=
  let w := t.tile x y
  (-2 ^ 63 : Int) ≤ w.gofs → w.gofs < 2 ^ 63 → t.now < 2 ^ 62 →
    ∃ a, t.owes a .alignmentPoint [x, y] ∧ w.firstPoint (if w.align.any (fun e => e.at_ == t.now) then t.now + 1 else t.now) a
/-- Everything that was due still is. -/
def KeepsDue (s t : State) : Prop := ∀ d ∈ s.agenda, d ∈ t.agenda
/-- Of all tiles one hands something over at the end of the step, and that alone (R63, R66, R67). -/
def State.handsOver (s : State) (x y : Nat) (o : Emit) : Prop :=
  x < 256 ∧ ∃ a t b, s.tiles = a ++ (tileKey x y, t) :: b ∧ t.out = [o] ∧ ∀ e ∈ a ++ b, e.1 ≠ tileKey x y ∧ e.2.out = []
/-- Of two messages that wait in a field, the first goes before the second: ALERT and THERMAL before TRIG, then by the origin's slot (R69). -/
def RovPend.goesBefore (p q : RovPend) : Prop :=
  (p.msg.kind ≠ 1 ∧ q.msg.kind = 1) ∨ ((p.msg.kind = 1 ↔ q.msg.kind = 1) ∧ p.slot < q.slot)
/-- Of all tiles one changes, to `u`. -/
def TileBecomes (s t : State) (x y : Nat) (u : Tile) : Prop :=
  { t with tiles := s.tiles } = s ∧ t.tile x y = u ∧ ∀ k, k ≠ tileKey x y → findTile k t.tiles = findTile k s.tiles
/-- A notification's header fields (R110). -/
structure Report where
  kind : Nat
  ctx : Nat
  queue : Nat
  status : Nat
  cause : Nat
  tag : Nat
  w0 : Nat
  w1 : Nat
  deriving DecidableEq, Repr
/-- A notification's bytes are those of a header and a body (R110). -/
def Note.says (e : Note) (r : Report) (body : List Byte) : Prop :=
  e.ctx = r.ctx ∧ e.queue = r.queue ∧ e.bytes.length = 48 + body.length ∧ e.bytes.drop 48 = body
    ∧ leAt e.bytes 0 1 = r.kind % 2 ^ 8 ∧ leAt e.bytes 1 1 = r.ctx % 2 ^ 8 ∧ leAt e.bytes 2 1 = r.queue % 2 ^ 8 ∧ leAt e.bytes 3 1 = r.status % 2 ^ 8
    ∧ leAt e.bytes 4 1 = r.cause % 2 ^ 8 ∧ leAt e.bytes 5 3 = 0 ∧ leAt e.bytes 8 4 = (48 + body.length) % 2 ^ 32 ∧ leAt e.bytes 12 4 = 0
    ∧ leAt e.bytes 16 8 = r.tag % 2 ^ 64 ∧ leAt e.bytes 24 8 = e.event % 2 ^ 64 ∧ leAt e.bytes 32 8 = r.w0 % 2 ^ 64 ∧ leAt e.bytes 40 8 = r.w1 % 2 ^ 64
/-- A notification for a session that is lost, of a context of its own that closes for want of it (R121). -/
def State.lostCtx (s : State) (owner : Option Nat) (ctx : Nat) : Prop := ctx < 16 ∧ (s.ctx ctx).closing = true ∧ (s.ctx ctx).closeCmd = none ∧ owner = some (s.ctx ctx).owner
/-- A session receives a notification: it owns the context, or has subscribed, and the notification is not one for a lost session of its closing context (R112, R121, R126). -/
def State.hears (s : State) (owner : Option Nat) (ctx kind sid : Nat) : Prop :=
  ¬ s.lostCtx owner ctx ∧ (owner = some sid ∨ ∃ e ∈ s.sessions, e.sid = sid ∧ ∃ u ∈ e.subs, u.1 = ctx ∧ u.2 / 2 ^ (kind - 0x81) % 2 = 1)
/-- One notification joins those of the cycle. -/
def Notifies (s t : State) (r : Report) (owner : Option Nat) (body : List Byte) : Prop :=
  ∃ e : Note, (∀ x, x ∈ t.outbox ↔ x = e ∨ x ∈ s.outbox) ∧ e.event = s.now ∧ (∀ sid, sid ∈ e.dests ↔ s.hears owner r.ctx r.kind sid) ∧ e.says r body
/-- A MODULE_EVENT goes to the subscribers of CTX 0xFF (R110). -/
def EventOut (s t : State) (ev : Nat) : Prop :=
  Notifies s t ⟨0x85, 0xFF, 0, 0, 0, 0, s.now, 0⟩ none (leBytes 1 ev ++ leBytes 1 (modCode t.mode) ++ leBytes 1 t.n ++ leBytes 5 0)
/-- A message from Markhor is due in every field at STAMP + 6 (R69). -/
def FromMarkhor (s t : State) (kind cause : Nat) : Prop :=
  KeepsDue s t ∧ ∀ fx < 12, ∀ fy < 12, t.owes (s.now + 6) .rovingMessage [fx, fy, s.now, kind, cause, 0xFF, 0xFF]
/-- A dispatch decision falls due on the next cycle at the latest (R107). -/
def Wakes (s t : State) : Prop := KeepsDue s t ∧ ∃ d ∈ t.agenda, d.at_ ≤ s.now + 1 ∧ s.now < d.at_ ∧ d.ph = phDispatch
/-- A packet of a type goes out on a session: from where it was opened to, from UDP port 52,107, with a checksum that adds up, and the header of R95 with the session's ACK and SACK (R94 to R96). -/
def SendsPacket (s t : State) (e : Session) (typ : Nat) (q : TxPkt → Prop) : Prop :=
  ∃ p : TxPkt, t.tx = s.tx ++ [p] ∧ p.kind = .chital typ ∧ p.port = e.port ∧ p.src = e.own ∧ p.sport = 52107 ∧ p.addr = e.addr ∧ p.udp = e.udp ∧ p.vlan = e.vlan ∧ p.ack = e.rxNext
    ∧ p.sum ≠ 0 ∧ (udpTotal e.own e.addr 52107 e.udp (p.head ++ p.bytes) + p.sum) % 65535 = 0
    ∧ p.head.length = 32 ∧ p.head.take 4 = [0xA7, 0xC4, 1, BitVec.ofNat 8 typ] ∧ leAt p.head 4 4 = p.sid % 2 ^ 32 ∧ leAt p.head 8 4 = p.seq % 2 ^ 32
    ∧ leAt p.head 12 4 = p.ack % 2 ^ 32 ∧ leAt p.head 16 8 = p.sack ∧ leAt p.head 24 2 = p.bytes.length % 2 ^ 16
    ∧ leAt p.head 26 1 = p.first.toNat + 2 * p.last.toNat ∧ leAt p.head 27 1 = 0 ∧ leAt p.head 28 4 = crc32c (p.head.take 28 ++ [0, 0, 0, 0] ++ p.bytes)
    ∧ (∀ i < 64, bitAt p.sack i = e.held.any fun h => h.seq == (e.rxNext + 1 + i) % 2 ^ 32) ∧ q p
/-- A field of a header fits its width (R95). -/
def Packet.inRange (p : Packet) : Prop :=
  p.typ < 2 ^ 8 ∧ p.sid < 2 ^ 32 ∧ p.seq < 2 ^ 32 ∧ p.ack < 2 ^ 32 ∧ p.sack < 2 ^ 64 ∧ p.bytes.length ≤ 8192
/-- The event's frame is UDP to port 52,107 of a host port, from an address and UDP port to an address; it is no fragment and not too long, and its checksum adds up (R94). Operands: port, length, IP version, protocol, fragment, source, destination, UDP ports, checksum. -/
def State.udpComes (s : State) (port own addr udp : Nat) : Prop :=
  s.arg.nat 0 = port ∧ port < 2 ∧ s.arg.nat 1 ≤ 9216 ∧ ¬ (s.arg.nat 2 = 4 ∧ s.arg.nat 4 = 1) ∧ s.arg.nat 3 = 17 ∧ s.arg.nat 5 = addr ∧ s.arg.nat 6 = own
    ∧ s.arg.nat 7 = udp ∧ s.arg.nat 8 = 52107
    ∧ ((s.arg.nat 2 = 4 ∧ s.arg.nat 9 = 0) ∨ (s.arg.nat 9 ≠ 0 ∧ (udpTotal addr own udp 52107 s.arg.bytes + s.arg.nat 9) % 65535 = 0))
/-- The frame carries a packet. -/
def State.packetComes (s : State) (port own addr udp typ : Nat) (p : Packet) : Prop :=
  s.udpComes port own addr udp ∧ s.arg.bytes = p.wire ∧ p.inRange ∧ p.typ = typ
/-- One session becomes `e`, and no other changes. -/
def SessionBecomes (s t : State) (e : Session) : Prop :=
  t.session e.sid = some e ∧ (∀ k, k ≠ e.sid → t.session k = s.session k) ∧ t.sessions.length = s.sessions.length
/-- A port has taken one more packet. -/
def PacketCounted (s t : State) (p : Nat) : Prop :=
  ∀ q, t.ports[q]? = (s.ports[q]?).map fun h => if q = p then { h with packets := h.packets + 1 } else h
/-- Among the notifications of the cycle is one with this header and body. -/
def Notified (s t : State) (r : Report) (owner : Option Nat) (body : List Byte) : Prop :=
  ∃ e ∈ t.outbox, e.event = s.now ∧ (∀ sid, sid ∈ e.dests ↔ s.hears owner r.ctx r.kind sid) ∧ e.says r body
/-- One context becomes `k`, and no other changes. -/
def ContextBecomes (s t : State) (c : Nat) (k : Context) : Prop := t.ctx c = k ∧ ∀ j, j ≠ c → t.ctx j = s.ctx j
/-- A command ends with one COMPLETION, and the dispatch unit looks again (R107, R110, R112). -/
def Completes (s t : State) (cmd : Cmd) (status w0 w1 : Nat) (body : List Byte) : Prop :=
  Notifies s t ⟨0x81, cmd.ctx, cmd.queue, status, 0, cmd.tag, w0, w1⟩ (some cmd.sess) body ∧ Wakes s t
/-- A context that keeps a tag with its final status (R104). -/
def Context.keeps (k : Context) (tag status : Nat) : Context := { k with kept := ((tag, status) :: k.kept).take 4096 }
/-- A context in which a command has ended DONE: its tag is kept, and no queued command waits for it any more (R104). -/
def Context.ends (k : Context) (tag : Nat) : Context :=
  { k.keeps tag 0 with queues := k.queues.map fun q => q.map fun c => { c with deps := c.deps.filter (· != tag) } }

/-- The command that a message carries (R100). -/
def commandOf (sid : Nat) (m : List Byte) : Cmd :=
  let nd := leAt m 3 1
  { sess := sid, kind := leAt m 0 1, ctx := leAt m 1 1, queue := leAt m 2 1, tag := leAt m 8 8, deps := (List.range nd).map fun i => leAt m (32 + 8 * i) 8
    body := m.drop (32 + 8 * nd), resume := none }
/-- A command enters a queue; the others act when they are received (R101). -/
def Cmd.queued (c : Cmd) : Prop := c.kind ∈ [3, 6, 7, 8, 9, 11] ∨ (c.kind ∈ [4, 5] ∧ c.ctx ≠ 0xFF)
/-- What R100, R101 and R124 ask of a message's header, its length, and its body. -/
def WellFormedCommand (m : List Byte) : Prop :=
  let c := commandOf 0 m
  let n := c.body.length
  let at_ : Nat → Nat → Nat := leAt c.body
  let bytes : Nat → Prop := fun k => 64 ≤ k ∧ k ≤ 2 ^ 24 ∧ k % 64 = 0
  32 + 8 * leAt m 3 1 ≤ m.length ∧ leAt m 4 4 = m.length ∧ c.tag ≠ 0 ∧ leAt m 16 16 = 0
  ∧ (c.queued → c.queue < 16 ∧ leAt m 3 1 ≤ 8) ∧ (¬ c.queued → c.queue = 0 ∧ leAt m 3 1 = 0)
  ∧ 1 ≤ c.kind ∧ c.kind ≤ 15 ∧ (c.ctx < 16 ∨ (c.ctx = 0xFF ∧ c.kind ∈ [4, 5, 13, 14, 15])) ∧ (c.kind = 14 → c.ctx = 0xFF)
  ∧ (c.kind = 1 → n = 16 ∧ at_ 0 8 % 4096 = 0 ∧ 1 ≤ at_ 8 4 ∧ at_ 8 4 ≤ 1048576 ∧ at_ 12 1 ≤ 2 ∧ at_ 13 3 = 0)
  ∧ (c.kind = 2 → n = 0) ∧ (c.kind = 3 → n = 24 ∧ at_ 0 8 % 4096 = 0 ∧ 1 ≤ at_ 8 8 ∧ at_ 8 8 ≤ 2 ^ 32)
  ∧ (c.kind = 4 → 8 ≤ n ∧ bytes (n - 8) ∧ at_ 0 8 % 64 = 0) ∧ (c.kind = 5 → n = 16 ∧ at_ 0 8 % 64 = 0 ∧ bytes (at_ 8 4) ∧ at_ 12 4 = 0)
  ∧ (c.kind = 6 → n = 24 + at_ 10 2 ∧ at_ 10 2 ≤ 4096 ∧ at_ 10 2 % 4 = 0 ∧ at_ 12 4 = 0)
  ∧ (c.kind = 7 → 8 ≤ n ∧ at_ 0 1 ≤ 63 ∧ 1 ≤ at_ 1 1 ∧ at_ 1 1 ≤ 64 ∧ at_ 2 2 ≤ 1024 ∧ at_ 4 4 = 0 ∧ n = 8 + 32 * at_ 1 1 + 4 * at_ 2 2)
  ∧ (c.kind = 8 → n = 8 ∧ at_ 0 1 ≤ 63 ∧ at_ 1 7 = 0)
  ∧ (c.kind = 9 → 8 ≤ n ∧ at_ 0 1 ≤ 63 ∧ at_ 1 1 = 0 ∧ 1 ≤ at_ 4 2 ∧ at_ 4 2 ≤ 1024 ∧ at_ 6 2 = 0 ∧ n = 8 + 4 * at_ 4 2)
  ∧ (c.kind = 10 ∨ c.kind = 12 → n = 8) ∧ (c.kind = 11 → n = 8 ∧ at_ 0 1 ≤ 2 ∧ at_ 1 7 = 0)
  ∧ (c.kind = 13 → n = 8 ∧ at_ 2 6 = 0 ∧ 1 ≤ at_ 0 2 ∧ at_ 0 2 ≤ 7 ∧ (at_ 0 2 ∈ [4, 5] → c.ctx < 16) ∧ (at_ 0 2 ∈ [2, 3, 7] → c.ctx = 0xFF))
  ∧ (c.kind = 14 → n = 32) ∧ (c.kind = 15 → n = 8 ∧ at_ 0 4 < 32 ∧ at_ 4 4 = 0)
/-- A tile of a launch's region (R132). -/
def Launch.holds (l : Launch) (x y : Nat) : Prop := l.lnr.x0 ≤ x ∧ x < l.lnr.x0 + l.lnr.w ∧ l.lnr.y0 ≤ y ∧ y < l.lnr.y0 + l.lnr.h
/-- Its region lies in the grid's range of coordinates. -/
def Launch.inRange (l : Launch) : Prop := l.lnr.x0 + l.lnr.w ≤ 256 ∧ l.lnr.y0 + l.lnr.h ≤ 256
/-- No tile outside a launch's region differs. -/
def OnlyRegion (s t : State) (l : Launch) : Prop := ∀ x y, x < 256 → ¬ l.holds x y → t.tile x y = s.tile x y
/-- The first replay boundary of a launch at or after a cycle (R87). -/
def Launch.nextBoundary (l : Launch) (c b : Nat) : Prop :=
  (∃ j, 1 ≤ j ∧ b = l.tstart + j * l.lnr.rbsp) ∧ c ≤ b ∧ ∀ j, 1 ≤ j → c ≤ l.tstart + j * l.lnr.rbsp → b ≤ l.tstart + j * l.lnr.rbsp
/-- An ALERT with a cause waits for its field's injection, stamped by the tile's own counter; dispatch is halted, and the self-test of the unit is owed (R67 to R69, R256; for a unit that is no tile, the slot and the field are the model's choice, log 32). -/
def Alerts (s t : State) (cause kind a b : Nat) : Prop :=
  let field := match kind with
    | 0 => (s.fieldX a, b / 16)
    | 1 => engineField a
    | 4 => (3 * a + 1, 3 * b + 1)
    | 5 => (5, 5)
    | _ => (a, b)
  let stamp := if kind = 0 then (s.tile a b).gcy s.now else s.now
  let origin := if kind = 0 then (a, b) else (0xFF, 0xFF)
  t.halted = true ∧ t.roving = s.roving ++ [⟨field.1, field.2, if kind = 0 then a % 16 + 16 * (b % 16) else 272, ⟨stamp, 2, cause, origin.1, origin.2⟩⟩]
    ∧ ((∃ h ∈ s.halts, h.cause = cause ∧ h.unitKind = kind ∧ h.a = a ∧ h.b = b) ∧ t.halts = s.halts
      ∨ (∀ h ∈ s.halts, h.cause = cause → h.unitKind = kind → h.a = a → h.b ≠ b) ∧ t.halts = s.halts ++ [⟨stamp, cause, kind, a, b, if kind = 0 then (s.phys a b).1 else 0, false⟩])
/-- A tile that a launch's stop finds: it issues no word from it on, and a service transfer of the launch is abandoned (R70, R155, R386). -/
def Tile.halted (t : Tile) (l : Launch) (b : Nat) : Tile :=
  { t with seq := { t.seq with mode := if t.seq.mode = .frozen then .frozen else .stopped, due := none, hold := .none, xfer := none, loopTrap := [] }
           pendc := [], svc := t.svc.filter fun v => v.launch != l.id, router := { t.router with upto := min t.router.upto b } }
/-- A tile that a launch has left, free from a cycle on (R39, R142). -/
def Tile.left (t : Tile) (b free : Nat) : Tile :=
  { t with seq := Seq.idle, launch := none, pendc := [], startG := none, freeAt := some free, router := { t.router with upto := min t.router.upto b } }
/-- A block of a load is in a tile's shadow plane, its code half or its pool, at its place; the active plane is as before. The first block of the launch's plane or code half has cleared the shadow plane's tag, and the last one, of those of the tile's own slot and of the broadcast slots, has set it (R137, R138). -/
def Tile.blockWritten (t r : Tile) (l : Launch) (x y half : Nat) (all : List (List Block)) (mine : List Block) (b : Block) : Prop :=
  let at_ := b.addr + if b.item = 1 ∧ t.second = false then half else 0
  let sh : Tile → Mem := fun u => if u.second then u.cfg0 else u.cfg1
  let inTag : Nat → Prop := fun a => offTag ≤ a ∧ a < offTag + 16
  let whole := b.item < 2 ∧ ∀ k o, o ∈ mine → o.item < 2 → ((ownBlocks all mine)[k]? = some o → k < r.loaded) ∧ ((sharedBlocks all)[k]? = some o → k < r.loadedB)
  { r with pool := t.pool, cfg0 := t.cfg0, cfg1 := t.cfg1, upsets := t.upsets, fill := t.fill, loaded := t.loaded, loadedB := t.loadedB, downAt := t.downAt } = t
  ∧ r.fill = (if b.item < 2 then some l.id else t.fill) ∧ r.cfg = t.cfg
  ∧ (∀ a, r.pool.get a = if b.item ≠ 0 ∧ at_ ≤ a ∧ a < at_ + b.bytes.length then b.bytes.getD (a - at_) 0 else t.pool.get a)
  ∧ (∀ a, a ∈ r.upsets ↔ a ∈ t.upsets ∧ ¬ (b.item ≠ 0 ∧ at_ < a + 4 ∧ a < at_ + b.bytes.length))
  ∧ (whole → ∀ a, inTag a → (sh r).get a = (tagBytes l.lnr.img l.lnr.cset (x - l.lnr.x0) (y - l.lnr.y0)).getD (a - offTag) 0)
  ∧ (∀ a, ¬ (whole ∧ inTag a) → (sh r).get a = if b.item = 0 ∧ b.addr ≤ a ∧ a < b.addr + b.bytes.length then b.bytes.getD (a - b.addr) 0
      else if b.item < 2 ∧ t.fill ≠ some l.id ∧ inTag a then 0 else (sh t).get a)
/-- A save area's first bytes hold a tile's registers as read at a cycle (R156, R255). -/
def Tile.savedIn (t : Tile) (c : Nat) (b : List Byte) : Prop :=
  b.length = 1536 ∧ (∀ r < 32, leAt b (4 * r) 4 = (t.s32 c r).toNat) ∧ (∀ k < 8, bitAt (leAt b 0x80 1) k = t.pr c k) ∧ leAt b 0x81 15 = 0
    ∧ (∀ k < 4, leAt b (0x90 + 4 * k) 4 = t.q32 c k % 2 ^ 32) ∧ (∀ k < 16, leAt b (0xA0 + 4 * k) 4 = (t.spr c (32 + k)).toNat % 2 ^ 32)
    ∧ (t.seq.mode = .run → t.seq.hold = .none ∨ (∃ g r, t.seq.hold = .waitc g r ∧ g ≤ t.gcy c) → t.seq.waitTo ≤ c → t.svc = none → leAt b 0xE0 4 = t.seq.pc % 2 ^ 32)
    ∧ (∀ w, t.seq.mode = .run → t.seq.waitPc = some w →
        (t.seq.hold ≠ .none ∧ ∀ g r, t.seq.hold = .waitc g r → t.gcy c < g) ∨ c < t.seq.waitTo ∨ (∃ v, t.svc = some v ∧ v.kind < 2) → leAt b 0xE0 4 = w.1 % 2 ^ 32)
    ∧ (t.seq.mode = .between ∨ t.seq.mode = .done → leAt b 0xE0 4 = 0xFFFFFFFF)
    ∧ leAt b 0xE4 4 = t.mst.toNat ∧ (∀ n, t.iter = some n → t.draining = false → leAt b 0xE8 8 = n % 2 ^ 64) ∧ (t.iter = none → leAt b 0xE8 8 = 2 ^ 64 - 1)
    ∧ (∀ i < 8, leAt b (0x100 + 128 * i) 128 = t.mreg c i)
    ∧ leAt b 0x500 8 = 0 ∧ ∀ n ∈ [2, 3, 4, 6, 7, 9, 11, 12, 13, 14, 15, 16, 17, 18, 19, 20, 21, 26], leAt b (0x500 + 8 * n) 8 = (t.spr c n).toNat
    ∧ leAt b 0x508 8 = (t.gcy c + 2 ^ 64 - t.tstart c) % 2 ^ 64 ∧ leAt b 0x528 8 = t.cfg.nat 30976 8
    ∧ (∀ k < 4, leAt b (0x5B0 + 8 * k) 8 = match t.copies.getD k none with | some j => min (c - (j.c + 4 + j.sg)) j.n % 2 ^ 64 | none => (t.spr c (22 + k)).toNat)
    ∧ leAt b 0x540 8 = (t.fpstAt c).toNat ∧ leAt b 0x550 8 = ((t.spr c 10).toNat + 2 ^ 64 - t.tstart c) % 2 ^ 64

/-! Invariants. -/

/-- Keys rise strictly. -/
def rising : List (Nat × Tile) → Bool
  | a :: b :: r => decide (a.1 < b.1) && rising (b :: r)
  | _ => true
/-- Every memory of the machine is in canonical form: DRAM, and pool, operand memory and both planes of each tile; the tiles are listed once each, in rising order of their keys. -/
def State.memWf (s : State) : Bool := s.dram.wf && (s.tiles.all fun e => e.2.memWf) && rising s.tiles

end Sys2Proof.Machine
end

