-- ==== Sys2Proof/Certificates/Slice0/Obligations.lean ====
section
/-! DEFINITION. What is claimed of the machine: statements for the provers, each with the rule of spec/ that it formalises. -/

open Sys2Proof Sys2Proof.Machine

/-! Scalar instructions (R291 to R306). -/

/-- R292: every register–register integer form leaves its value in S[d] alone, at c + 1, a multiplication's at c + 3; the forms of one operand have b and KB zero, and all but SELP have x zero. -/
def Obligations.IntegerResults : Prop := ∀ (s : State) (o : RR),
  let a := s.sReg o.a
  let b := s.opnd o.kb o.b
  let sh := b.toNat % 32
  let clamp : Int → Word := fun i => BitVec.ofInt 32 (max (-2147483648) (min 2147483647 i))
  let forms : List (Instr × Nat × Word) :=
    [(.add o, 1, a + b), (.sub o, 1, a - b), (.andS o, 1, a &&& b), (.orS o, 1, a ||| b), (.xor o, 1, a ^^^ b), (.andn o, 1, a &&& ~~~b),
     (.shl o, 1, BitVec.ofNat 32 (a.toNat * 2 ^ sh)), (.shr o, 1, BitVec.ofNat 32 (a.toNat / 2 ^ sh)),
     (.sra o, 1, BitVec.ofInt 32 (a.toInt / 2 ^ sh)), (.rol o, 1, (a <<< sh) ||| (a >>> (32 - sh))),
     (.minS o, 1, if a.toInt < b.toInt then a else b), (.maxS o, 1, if a.toInt < b.toInt then b else a),
     (.minu o, 1, if a.toNat < b.toNat then a else b), (.maxu o, 1, if a.toNat < b.toNat then b else a),
     (.slt o, 1, if a.toInt < b.toInt then 1 else 0), (.sltu o, 1, if a.toNat < b.toNat then 1 else 0), (.seq o, 1, if a = b then 1 else 0),
     (.adds o, 1, clamp (a.toInt + b.toInt)), (.subs o, 1, clamp (a.toInt - b.toInt)), (.absS o, 1, BitVec.ofNat 32 a.toInt.natAbs),
     (.clz o, 1, BitVec.ofNat 32 (if a = 0 then 32 else 31 - Nat.log2 a.toNat)),
     (.popc o, 1, BitVec.ofNat 32 ((List.range 32).filter fun k => a.getLsbD k).length), (.brev o, 1, a.reverse),
     (.mul o, 3, BitVec.ofInt 32 (a.toInt * b.toInt)), (.mulh o, 3, (BitVec.ofInt 64 (a.toInt * b.toInt)).extractLsb' 32 32),
     (.mulhu o, 3, (BitVec.ofNat 64 (a.toNat * b.toNat)).extractLsb' 32 32), (.selp o, 1, if s.pReg o.x then a else b)]
  (∀ f ∈ forms, s.mayAct f.1 = true → WritesScalar s f.1 o.d f.2.1 f.2.2)
  ∧ (∀ i ∈ [Instr.absS o, .clz o, .popc o, .brev o], WellFormed i → o.b = 0 ∧ o.kb = false)
  ∧ ∀ f ∈ forms, f.1 ≠ .selp o → WellFormed f.1 → o.x = 0

/-- R293: a division by a divisor other than zero leaves its quotient or remainder in S[d] alone, at c + 18; one by zero raises cause 0x01 and does not act. -/
def Obligations.Divisions : Prop :=
  (∀ (s : State) (o : RR),
    let a := s.sReg o.a
    let b := s.opnd o.kb o.b
    let wraps := a = 0x80000000 ∧ b = 0xFFFFFFFF
    let forms : List (Instr × Word) :=
      [(.div o, if wraps then 0x80000000 else BitVec.ofInt 32 (a.toInt.tdiv b.toInt)),
       (.rem o, if wraps then 0 else BitVec.ofInt 32 (a.toInt - b.toInt * a.toInt.tdiv b.toInt)),
       (.divu o, BitVec.ofNat 32 (a.toNat / b.toNat)), (.remu o, BitVec.ofNat 32 (a.toNat - b.toNat * (a.toNat / b.toNat)))]
    b ≠ 0 → ∀ f ∈ forms, s.mayAct f.1 = true → WritesScalar s f.1 o.d 18 f.2)
  ∧ (∀ (s : State) (o : RR), s.opnd o.kb o.b = 0 →
    ∀ i ∈ [Instr.div o, .divu o, .rem o, .remu o], s.mayAct i = true → Traps s i (0x01, 0, 0))

/-- R294: every immediate form leaves its value in S[d] alone, at c + 1. -/
def Obligations.ImmediateResults : Prop := ∀ (s : State) (o : RI) (l : LI),
  let a := s.sReg o.a
  let n := o.imm.toNat % 32
  let forms : List (Instr × BitVec 5 × Word) :=
    [(.addi o, o.d, a + o.imm.signExtend 32), (.andi o, o.d, a &&& o.imm.setWidth 32), (.ori o, o.d, a ||| o.imm.setWidth 32),
     (.xori o, o.d, a ^^^ o.imm.setWidth 32), (.shli o, o.d, BitVec.ofNat 32 (a.toNat * 2 ^ n)), (.shri o, o.d, BitVec.ofNat 32 (a.toNat / 2 ^ n)),
     (.srai o, o.d, BitVec.ofInt 32 (a.toInt / 2 ^ n)), (.slti o, o.d, if a.toInt < o.imm.toInt then 1 else 0),
     (.sltiu o, o.d, if a.toNat < (o.imm.signExtend 32).toNat then 1 else 0), (.movi l, l.d, l.imm.signExtend 32),
     (.seth l, l.d, BitVec.ofNat 32 (l.imm.toNat % 65536 * 65536 + (s.sReg l.d).toNat % 65536)), (.movk l, l.d, s.curTile.kreg s.cur.c)]
  ∀ f ∈ forms, s.mayAct f.1 = true → WritesScalar s f.1 f.2.1 1 f.2.2

/-- R295, R296: sums and products of finite FP32 numbers are exact and rounded once to the nearest even, at c + 3, with the flags of that rounding; infinities and NaNs follow the table; FABS and FNEG change the sign bit alone. -/
def Obligations.FloatArithmetic : Prop := ∀ (s : State) (o : RR),
  let a := s.sReg o.a
  let b := s.opnd o.kb o.b
  let c := s.sReg o.c
  let nb := b ^^^ 0x80000000
  let prod : Word → Word → Word × Flags → Prop := fun x y r =>
    (isNaN32 x || isNaN32 y → r = (nan32, invOf [x, y]))
    ∧ ((isInf32 x && isZero32 y) || (isZero32 x && isInf32 y) → r = (nan32, fINV))
    ∧ ((isInf32 x && !isNaN32 y && !isZero32 y) || (isInf32 y && !isNaN32 x && !isZero32 x) → r = (inf32 (x.msb != y.msb), 0))
    ∧ (∀ u v, finite32 x = some u → finite32 y = some v → r = fp32 (rne32 (u.mul v)))
  let zi := (isZero32 a && isInf32 b) || (isInf32 a && isZero32 b)
  let fma : Word × Flags → Prop := fun r =>
    (isNaN32 a || isNaN32 b || isNaN32 c → r = (nan32, invOf [a, b, c] ||| if zi then fINV else 0))
    ∧ (zi && !isNaN32 c → r = (nan32, fINV))
    ∧ ((isInf32 a || isInf32 b) && !isNaN32 a && !isNaN32 b && !isNaN32 c && !zi →
        r = if isInf32 c && c.msb != (a.msb != b.msb) then (nan32, fINV) else (inf32 (a.msb != b.msb), 0))
    ∧ (∀ u v, finite32 a = some u → finite32 b = some v → isInf32 c → r = (c, 0))
    ∧ (∀ u v w, finite32 a = some u → finite32 b = some v → finite32 c = some w → r = fp32 (rne32 ((u.mul v).add w)))
  (s.mayAct (.fadd o) = true → ∃ r, FpSum a b r ∧ WritesScalarFl s (.fadd o) o.d 3 r)
  ∧ (s.mayAct (.fsub o) = true → ∃ r, FpSum a nb r ∧ WritesScalarFl s (.fsub o) o.d 3 r)
  ∧ (s.mayAct (.fmul o) = true → ∃ r, prod a b r ∧ WritesScalarFl s (.fmul o) o.d 3 r)
  ∧ (s.mayAct (.ffma o) = true → ∃ r, fma r ∧ WritesScalarFl s (.ffma o) o.d 3 r)
  ∧ (s.mayAct (.fabs o) = true → WritesScalar s (.fabs o) o.d 3 (a &&& 0x7FFFFFFF))
  ∧ (s.mayAct (.fneg o) = true → WritesScalar s (.fneg o) o.d 3 (a ^^^ 0x80000000))

/-- R296, R207: FCVTI gives an integer that lies where its mode says, and saturates with INV; ICVTF rounds the integer once under its mode. -/
def Obligations.FloatConversions : Prop := ∀ (s : State) (o : RR),
  let a := s.sReg o.a
  (s.mayAct (.fcvti o) = true → ∃ r : Word × Flags, WritesScalarFl s (.fcvti o) o.d 3 r
    ∧ (isNaN32 a → r = (0, fINV)) ∧ (isInf32 a → r = (if a.msb then 0x80000000 else 0x7FFFFFFF, fINV))
    ∧ ∀ x, finite32 a = some x → ∃ k : Int,
        (let e := min x.e 0
         let one' : Int := 2 ^ (-e).toNat
         let v := x.at e
         match o.x.toNat with
         | 0 => 2 * (k * one' - v).natAbs < one' ∨ (2 * (k * one' - v).natAbs = one' ∧ k % 2 = 0)
         | 1 => (k * one').natAbs ≤ v.natAbs ∧ (v - k * one').natAbs < one' ∧ 0 ≤ k * v
         | 2 => k * one' ≤ v ∧ v < (k + 1) * one'
         | 3 => v ≤ k * one' ∧ (k - 1) * one' < v
         | _ => 2 * (k * one' - v).natAbs < one' ∨ (2 * (k * one' - v).natAbs = one' ∧ v.natAbs < (k * one').natAbs))
        ∧ r = if k < -2147483648 then (0x80000000, fINV) else if 2147483647 < k then (0x7FFFFFFF, fINV)
              else (BitVec.ofInt 32 k, if k * 2 ^ (-(min x.e 0)).toNat = x.at (min x.e 0) then 0 else fNX))
  ∧ (s.mayAct (.icvtf o) = true → WritesScalarFl s (.icvtf o) o.d 3 (fp32 (fmtFP32.round (modeOf o.x.toNat) ⟨a.msb, a.toInt.natAbs, 0⟩)))

/-- R298: FMIN and FMAX order the two zeros, pass the other operand of a quiet NaN, and give the default NaN with INV for a signalling one. -/
def Obligations.FloatMinMax : Prop := ∀ (s : State) (o : RR),
  let a := s.sReg o.a
  let b := s.opnd o.kb o.b
  let below := fKey a < fKey b ∨ (fKey a = fKey b ∧ a.msb = true ∧ b.msb = false)
  let res : Bool → Word × Flags := fun mx =>
    if isSNaN32 a || isSNaN32 b then (nan32, fINV)
    else if isNaN32 a && isNaN32 b then (nan32, 0)
    else if isNaN32 a then (b, 0) else if isNaN32 b then (a, 0)
    else (if (decide below) = mx then b else a, 0)
  (s.mayAct (.fmin o) = true → WritesScalarFl s (.fmin o) o.d 3 (res false))
  ∧ (s.mayAct (.fmax o) = true → WritesScalarFl s (.fmax o) o.d 3 (res true))

/-- R297, R299: FRCP and FRSQ give the quotients of the rule, at c + 4, and the special operands of its table; the refinement steps round 2 − ab, or half of 3 − ab, once, and a zero or infinite operand gives 1.0. -/
def Obligations.FloatApproximations : Prop :=
  (∀ (s : State) (o : RR),
    let a := s.sReg o.a
    let e : Int := ((a.toNat / 2 ^ 23 % 256 : Nat) : Int) - 127
    let d := 8193 + 2 * (a.toNat / 2 ^ 11 % 4096)
    let tiny := a.toNat % 2 ^ 31 < 2 ^ 23
    (s.mayAct (.frcp o) = true → ∃ r : Word × Flags, WritesScalarFl s (.frcp o) o.d 4 r
      ∧ (isNaN32 a → r = (nan32, invOf [a])) ∧ (isInf32 a → r = (zero32 a.msb, 0)) ∧ (tiny → r = (inf32 a.msb, fDZ))
      ∧ (¬ tiny → !isNaN32 a && !isInf32 a → ∃ q : Nat, (2 * (q * d : Nat) - 2 ^ 27 : Int).natAbs < d
          ∧ r = if e ≤ 125 then (BitVec.ofNat 32 (rne32 ⟨a.msb, q, -13 - e⟩).1, 0) else (zero32 a.msb, fUF)))
    ∧ (s.mayAct (.frsq o) = true → ∃ r : Word × Flags, WritesScalarFl s (.frsq o) o.d 4 r
      ∧ (isNaN32 a → r = (nan32, invOf [a])) ∧ (isInf32 a → r = if a.msb then (nan32, fINV) else (0, 0)) ∧ (tiny → r = (inf32 a.msb, fDZ))
      ∧ (¬ tiny → !isNaN32 a && !isInf32 a →
          if a.msb then r = (nan32, fINV)
          else ∃ q : Nat, 1 ≤ q ∧ (2 * q - 1) ^ 2 * (d * 2 ^ (e % 2).toNat) < 2 ^ 41 ∧ 2 ^ 41 < (2 * q + 1) ^ 2 * (d * 2 ^ (e % 2).toNat)
            ∧ r = (BitVec.ofNat 32 (rne32 ⟨false, q, -13 - (e - e % 2) / 2⟩).1, 0))))
  ∧ (∀ (s : State) (o : RR),
    let a := s.sReg o.a
    let b := s.opnd o.kb o.b
    ∀ (i : Instr) (k : Nat) (half : Int), (i, k, half) ∈ [(Instr.frcps o, 2, (0 : Int)), (.frsqs o, 3, 1)] → s.mayAct i = true →
      ∃ r : Word × Flags, WritesScalarFl s i o.d 3 r
        ∧ (isNaN32 a || isNaN32 b → r = (nan32, invOf [a, b]))
        ∧ (!isNaN32 a && !isNaN32 b && (isZero32 a || isZero32 b || isInf32 a || isInf32 b) → r = (0x3F800000, 0))
        ∧ ∀ u v, finite32 a = some u → finite32 b = some v → u.m ≠ 0 → v.m ≠ 0 →
            let p := u.mul v
            let x := (⟨false, k, 0⟩ : ExactNum).add { p with neg := !p.neg }
            r = fp32 (rne32 { x with e := x.e - half }))

/-- R300, R301: the compares and predicate logic leave their result in P[pd] alone, at c + 1, the FP32 compares with INV as the rule says; PTOS gathers the predicates into S[d], bit 0 always 1. -/
def Obligations.Predicates : Prop :=
  (∀ (s : State) (o : PC),
    let a := s.sReg o.a
    let b := s.opnd o.kb o.b
    let forms : List (Instr × Bool) :=
      [(.peq o, decide (a = b)), (.pne o, decide (a ≠ b)), (.plt o, decide (a.toInt < b.toInt)), (.pltu o, decide (a.toNat < b.toNat)),
       (.pge o, decide (b.toInt ≤ a.toInt)), (.pgeu o, decide (b.toNat ≤ a.toNat))]
    let nan := isNaN32 a || isNaN32 b
    let floats : List (Instr × Bool × Flags) :=
      [(.pflt o, !nan && decide (fKey a < fKey b), if nan then fINV else 0), (.pfle o, !nan && decide (fKey a ≤ fKey b), if nan then fINV else 0),
       (.pfun o, nan, invOf [a, b])]
    (∀ f ∈ forms, s.mayAct f.1 = true → WritesPred s f.1 o.pd f.2) ∧ (∀ f ∈ floats, s.mayAct f.1 = true → WritesPredFl s f.1 o.pd f.2))
  ∧ (∀ (s : State) (o : PL) (q : RR),
    let forms : List (Instr × Bool) :=
      [(.pand o, s.pReg o.pa && s.pReg o.pb), (.por o, s.pReg o.pa || s.pReg o.pb), (.pxor o, s.pReg o.pa != s.pReg o.pb),
       (.pnot o, !s.pReg o.pa), (.pset o, o.pb.getLsbD 0)]
    (∀ f ∈ forms, s.mayAct f.1 = true → WritesPred s f.1 o.pd f.2)
    ∧ (s.mayAct (.ptos q) = true → ∃ v : Word, v.getLsbD 0 = true ∧ (∀ k, v.getLsbD k = (decide (k < 8) && s.curTile.pr s.cur.c k)) ∧ WritesScalar s (.ptos q) q.d 1 v))

/-- R302, R303, R304: what RDSP, RDCYC and RDWP leave in S[d], FPST read with the flags of the cycle of issue; WRSP writes the named half of a writable register, less its reserved bits, at c + 1, and leaves a register marked R and the numbers 27 to 31 as they are; a copy's count reads 0 in the word that starts the copy too (R182). -/
def Obligations.SpecialRegisters : Prop :=
  (∀ (s : State) (o : RI),
    let t := s.curTile
    let c := s.cur.c
    let n := o.imm.toNat % 64
    let hi := o.imm.getLsbD 6
    let half : Bool → BitVec 64 → Word := fun h v => if h then v.extractLsb' 32 32 else v.setWidth 32
    let g := BitVec.ofNat 64 (t.gcy c)
    let cyc : Instr → Bool → Prop := fun i h =>
      if h then WritesScalar s i o.d 1 (t.cycLatch.getD (half true (t.spr c 0)))
      else Gives (exec i s) fun u => OnlyTile s u ∧ ScalarWritten t u.curTile o.d.toNat (c + 1) (half false g)
        ∧ u.curTile.cycLatch = some (half true g) ∧ OnlyScalars t { u.curTile with cycLatch := t.cycLatch }
    let wp : Nat → Word := fun ch => if s.cur.starts = some ch then 0 else match t.copies.getD ch none with | some j => BitVec.ofNat 32 (min (c - (j.c + 4 + j.sg)) j.n) | none => BitVec.ofNat 32 (t.spr c (22 + ch)).toNat
    (s.mayAct (.rdsp o) = true →
      (n = 1 → cyc (.rdsp o) hi)
      ∧ (∀ ch < 4, n = 22 + ch → WritesScalar s (.rdsp o) o.d 1 (if hi then 0 else wp ch))
      ∧ (n = 8 → hi = true → WritesScalar s (.rdsp o) o.d 1 0)
      ∧ (n = 8 → hi = false → Gives (exec (.rdsp o) s) fun u => OnlyTile s u
          ∧ ∃ a : Act, u.curTile.acts = t.acts ++ [a] ∧ a.at_ = c ∧ ∀ (x y : Nat) (ev : FetchItem) (w : Tile), w.s = u.curTile.s →
              ∀ k i, c + 1 ≤ k ∨ i ≠ o.d.toNat → (w.perform x y ev a).s32 k i = if i = o.d.toNat ∧ i ≠ 0 then (w.fpstAt c).setWidth 32 else t.s32 k i)
      ∧ (n = 5 → WritesScalar s (.rdsp o) o.d 1 (half hi (BitVec.ofNat 64 (t.cfg.nat 30976 8))))
      ∧ (27 ≤ n → n ≤ 31 → WritesScalar s (.rdsp o) o.d 1 0)
      ∧ (n ≠ 1 → ¬ (22 ≤ n ∧ n ≤ 25) → n ≠ 8 → n ≠ 5 → ¬ (27 ≤ n ∧ n ≤ 31) → WritesScalar s (.rdsp o) o.d 1 (half hi (t.spr c n))))
    ∧ (s.mayAct (.rdcyc o) = true → cyc (.rdcyc o) (o.imm.getLsbD 0))
    ∧ (s.mayAct (.rdwp o) = true → WritesScalar s (.rdwp o) o.d 1 (wp (o.imm.toNat % 4))))
  ∧ (∀ (s : State) (o : RI),
    let t := s.curTile
    let n := o.imm.toNat % 64
    let hi := o.imm.getLsbD 6
    let a := s.sReg o.a
    let low : Nat → BitVec 64 := fun n =>
      if n = 8 then 0x1F else if n = 9 then 1 else if n = 11 then 0xFFFFFFF0 else if n = 17 ∨ n = 21 then 0xFFFFFFE0
      else if 32 ≤ n ∧ n ≤ 35 then 0x800FFFFF else if 36 ≤ n ∧ n ≤ 39 then 0xFFFF else 0xFFFFFFFF
    let high : Nat → BitVec 64 := fun n => if n = 12 then 0x0000FFFF00000000 else if n = 16 ∨ n = 20 then 0xFFFFFFFF00000000 else 0
    let readOnly := n ≤ 5 ∨ n = 10 ∨ n = 13 ∨ (22 ≤ n ∧ n ≤ 25) ∨ (27 ≤ n ∧ n ≤ 31)
    s.mayAct (.wrsp o) = true → n < 48 → Gives (exec (.wrsp o) s) fun u => OnlyTile s u ∧ OnlySpecials t u.curTile
      ∧ (readOnly → u.curTile = t)
      ∧ (¬ readOnly → SpecialWritten t u.curTile n (s.cur.c + 1) (if hi then high n else low n) (if hi then a.setWidth 64 <<< 32 else a.setWidth 64))
      ∧ (n = 8 → hi = false → ∀ k, s.cur.c + 1 ≤ k → u.curTile.fpstAt k = ((a.setWidth 64) &&& 0x1F) ||| (flagsBetween t.fp (s.cur.c + 1) k).setWidth 64))

/-- R305, R306: a local load's read falls due at c + 1, and what it finds then reads from S[d] from c + 3 on; a local store's write falls due at c + 2, and performed alone in scratch or the accumulators it changes the bytes that it stores to and no other; an access to a forbidden part, or at or above 0x20_0000, raises cause 0x27, and one to an allowed part that is not naturally aligned cause 0x28; R265: an aligned one that hits the watch filter, outside a handler and with its kind watched, raises 0x2B; R226: a narrow store to a word of an ADD or SUM sub-region that hits no watch raises 0x87, by the rule in force at its issue (the model's choice, log 15, as is that a misaligned access is judged by the part of its first byte). -/
def Obligations.LocalMemory : Prop :=
  (∀ (s : State) (o : RI),
    let t := s.curTile
    let c := s.cur.c
    let addr := (s.sReg o.a + o.imm.signExtend 32).toNat
    let forms : List (Instr × Nat × ((Nat → Byte) → Word)) :=
      [(.ldw o, 4, fun b => (b 3 ++ b 2 ++ b 1 ++ b 0 : BitVec 32)), (.ldh o, 2, fun b => (b 1 ++ b 0 : BitVec 16).signExtend 32),
       (.ldhu o, 2, fun b => (b 1 ++ b 0 : BitVec 16).setWidth 32), (.ldb o, 1, fun b => (b 0).signExtend 32), (.ldbu o, 1, fun b => (b 0).setWidth 32)]
    ∀ f ∈ forms, s.mayAct f.1 = true → (t.partOf c addr).noRead = false → addr % f.2.1 = 0 → t.watchOf c c false [addr] = none →
      Gives (exec f.1 s) fun u => OnlyTile s u ∧ OnlyScalars { t with acts := u.curTile.acts } u.curTile ∧ SameBytes t u.curTile
        ∧ ∃ a : Act, u.curTile.acts = t.acts ++ [a] ∧ a.at_ = c + 1 ∧ ∀ (x y : Nat) (ev : FetchItem) (w : Tile), w.s = u.curTile.s → w.memWf = true →
            SameBytes w (w.perform x y ev a)
            ∧ ∀ k i, c + 3 ≤ k ∨ i ≠ o.d.toNat → (w.perform x y ev a).s32 k i =
                if i = o.d.toNat ∧ i ≠ 0 then f.2.2 (fun j => w.pool.get (w.present addr + j)) else t.s32 k i)
  ∧ (∀ (s : State) (o : RI),
    let t := s.curTile
    let c := s.cur.c
    let addr := (s.sReg o.a + o.imm.signExtend 32).toNat
    ∀ f ∈ [(Instr.stw o, 4), (.sth o, 2), (.stb o, 1)], s.mayAct f.1 = true → (t.partOf c addr).noWrite = false → addr % f.2 = 0 →
      t.partialWrite c (8 * addr) (8 * f.2) = false → t.watchOf c c true [addr] = none →
      Gives (exec f.1 s) fun u => OnlyTile s u ∧ { u.curTile with acts := t.acts } = t
        ∧ ∃ r : WReq, (∃ a : Act, u.curTile.acts = t.acts ++ [a] ∧ a.at_ = c + 2 ∧ a.k = .write r)
            ∧ ∀ w : Tile, (w.partOf (c + 2) addr = .scratch ∨ w.partOf (c + 2) addr = .acc) →
                (∀ e ∈ w.vp, e.avail = c + 2 → e.idx / 4 < w.allotAt (c + 2)) →
                (∀ x, (w.performWrites (c + 2) [r]).opm.get x = w.opm.get x)
                ∧ ∀ x, (w.performWrites (c + 2) [r]).pool.get x =
                    if addr ≤ x ∧ x < addr + f.2 then BitVec.ofNat 8 ((s.sReg o.d).toNat / 2 ^ (8 * (x - addr))) else w.pool.get x)
  ∧ (∀ (s : State) (o : RI),
    let t := s.curTile
    let c := s.cur.c
    let addr := (s.sReg o.a + o.imm.signExtend 32).toNat
    let forms : List (Instr × Nat × Bool) :=
      [(.ldw o, 4, false), (.ldh o, 2, false), (.ldhu o, 2, false), (.ldb o, 1, false), (.ldbu o, 1, false), (.stw o, 4, true), (.sth o, 2, true), (.stb o, 1, true)]
    ∀ f ∈ forms, s.mayAct f.1 = true →
      let bad := if f.2.2 then (t.partOf c addr).noWrite else (t.partOf c addr).noRead
      let watched := t.tlvl c = 0 ∧ t.seq.skipIss.contains c = false ∧ t.dbg.getLsbD (if f.2.2 then 0 else 1) = true
        ∧ ∀ m ∈ [0x9E37, 0x85EB, 0xC2B3], t.filt.getLsbD (addr / 64 * m / 8 % 4096) = true
      let narrow := f.2.2 = true ∧ f.2.1 ≠ 4 ∧ t.partOf c addr = .plane ∧ ((t.ruleOf (t.planeWord addr)).1 = 1 ∨ (t.ruleOf (t.planeWord addr)).1 = 2)
      (bad = true → Traps s f.1 (0x27, addr, 0))
      ∧ (bad = false → addr % f.2.1 ≠ 0 → Traps s f.1 (0x28, addr, 0))
      ∧ (bad = false → addr % f.2.1 = 0 → watched → Traps s f.1 (0x2B, addr, if f.2.2 then 1 else 0))
      ∧ (bad = false → addr % f.2.1 = 0 → ¬ watched → narrow → Traps s f.1 (0x87, addr, 0))
      ∧ (0x200000 ≤ addr → bad = true))

/-! Traps (R239 to R252). -/

/-- R245, R246, R247, R252: a precise cause taken below level 2 writes the next bank and TLVL, and the first handler word is due four cycles on; at level 2 the tile freezes, on the next cycle when the raising word acts, as TRAP and a late WAITC do. XRET at level 1 or 2 lowers TLVL, and the word at XPC issues at c + 2 + WAIT, with the recorded target when it is a delay slot; the banks are left as they were. Every other register, the flags and memory are as before. That the pending causes which a freeze discards are not logged is the model's choice (log 15). -/
def Obligations.TrapsAndReturns : Prop :=
  ((∀ (s : State) (i : Instr) (e : Cause),
      let t := s.curTile
      let c := s.cur.c
      let k := t.tlvl c + 1
      Traps s i e → t.tlvl c < 2 → Gives (exec i s) fun u => OnlyTile s u ∧
        let b := u.curTile
        let pc := (t.spr c 11).toNat + 16 * e.1
        (∀ n v, c ≤ v → b.spr v n =
          if n = 13 then BitVec.ofNat 64 k
          else if n = 10 + 4 * k then BitVec.ofNat 64 ((((t.gcy c : Int) - t.tstart c) % 2 ^ 24).toNat * 256 + e.1)
          else if n = 11 + 4 * k then BitVec.ofNat 64 s.cur.pc
          else if n = 12 + 4 * k then BitVec.ofNat 64 e.2.1
          else if n = 13 + 4 * k then BitVec.ofNat 64 (s.cur.dly.getD 0 % 2 ^ 16 * 2 ^ 16 + (if s.cur.dly.isSome then 2 ^ 15 else 0) + 2 ^ 14
            + (if t.mult then 2 ^ 13 else 0) + e.2.2 % 16 * 2 ^ 8 + (if e.1 = 0x44 ∨ e.1 = 0x46 then 7 else s.cur.slot % 8) * 2 ^ 5)
          else t.spr v n)
        ∧ b.s = t.s ∧ b.p = t.p ∧ b.m = t.m ∧ b.q = t.q ∧ b.vp = t.vp ∧ b.fp = t.fp ∧ b.pool = t.pool ∧ b.opm = t.opm ∧ b.acts = t.acts
        ∧ b.vxFree = t.vxFree ∧ b.mxFree = t.mxFree ∧ b.copies = t.copies
        ∧ (pc < t.codeLen → b.seq.pc = pc ∧ b.seq.due = some (c + 4) ∧ b.seq.mode = t.seq.mode)
        ∧ (t.codeLen ≤ pc → b.seq.mode = .frozen ∧ b.seq.due = none))
    ∧ (∀ (s : State) (i : Instr) (e : Cause),
      let t := s.curTile
      Traps s i e → e.1 ≠ 0x07 → e.1 ≠ 0x43 → 2 ≤ t.tlvl s.cur.c → Gives (exec i s) fun u => OnlyTile s u ∧
        let b := u.curTile
        b.seq.mode = .frozen ∧ b.seq.due = none ∧ b.pendc = [] ∧ b.svc = t.svc.filter (fun v => some v.launch != t.launch) ∧ b.arr = [true, true, true]
        ∧ b.s = t.s ∧ b.p = t.p ∧ b.m = t.m ∧ b.q = t.q ∧ b.sp = t.sp ∧ b.vp = t.vp ∧ b.fp = t.fp ∧ b.pool = t.pool ∧ b.opm = t.opm
        ∧ b.acts = t.acts ∧ b.router = t.router
        ∧ b.log = t.logged s.cur.c s.cur.pc 0xBF 3 e.1)
    ∧ (∀ (s : State) (imm : BitVec 16) (o : WaitOp),
      let t := s.curTile
      let c := s.cur.c
      let late := o.log = false ∧ (t.tstart c + (s.sReg o.b).toNat + o.imm.toNat) % 2 ^ 64 < t.gcy c
      ∀ (i : Instr) (cause : Nat), (i = .trap imm ∧ cause = 0x07) ∨ (i = .waitc o ∧ late ∧ cause = 0x43) → s.mayAct i = true → 2 ≤ t.tlvl c →
        Gives (exec i s) fun u => OnlyTile s u ∧ u.curTile.seq = { t.seq with due := none, hold := .freezing }
          ∧ { u.curTile with seq := t.seq, acts := t.acts } = t
          ∧ Owes t u.curTile 1 (fun _ => c + 1) fun _ a => ∀ (x y : Nat) (ev : FetchItem) (w : Tile), w.seq.hold = .freezing →
              let b := w.perform x y ev a
              b.seq.mode = .frozen ∧ b.seq.due = none ∧ b.arr = [true, true, true] ∧ b.log = w.logged (c + 1) t.seq.pc 0xBF 3 cause
              ∧ b.s = w.s ∧ b.p = w.p ∧ b.m = w.m ∧ b.q = w.q ∧ b.sp = w.sp ∧ b.vp = w.vp ∧ b.fp = w.fp ∧ b.pool = w.pool ∧ b.opm = w.opm))
  ∧ (∀ (s : State),
    let t := s.curTile
    let c := s.cur.c
    let k := t.tlvl c
    s.mayAct .xret = true → s.cur.dly = none → (k = 1 ∨ k = 2) → Gives (exec .xret s) fun u => OnlyTile s u ∧
      let b := u.curTile
      (∀ n v, c ≤ v → b.spr v n = if n = 13 then BitVec.ofNat 64 (k - 1) else t.spr v n)
      ∧ b.seq.pc = (t.spr c (11 + 4 * k)).toNat ∧ b.seq.due = some (c + 2 + s.cur.wait)
      ∧ b.seq.xfer = (if (t.spr c (13 + 4 * k)).getLsbD 15 then some ((t.spr c (13 + 4 * k)).toNat / 2 ^ 16) else none)
      ∧ b.seq.mode = t.seq.mode
      ∧ (∀ r, t.openTraps.getD (k - 1) none = some r → b.returned = t.returned ++ [(k - 1, r)])
      ∧ { b with sp := t.sp, seq := t.seq, openTraps := t.openTraps, returned := t.returned } = t)

/-- R164, R165, R170, R247, R307: causes that keep a slot from acting: a transfer or XRET in the delay slot of a taken transfer 0x05, XRET at level 0 elsewhere 0x09, a vector register at or above the allotment 0x04 unless a lower code is raised, an occupied vector engine 0x40, for every VX form, or matrix engine 0x41, for every MX form unless a slot's state raises 0x23, and, with the checker on, an early read 0x44 with the lead in XVA and the register's file in SUB, for every form that raises no lower cause. -/
def Obligations.SlotTraps : Prop :=
  (∀ (s : State) (o : TreeOp) (n : BitVec 6) (r : BitVec 5),
    (s.cur.dly.isSome = true → ∀ i ∈ [Instr.tree o, .jmp n, .jmpIndirect r, .call n, .callIndirect r, .ret, .xret],
      s.mayAct i = true → Traps s i (0x05, 0, 0))
    ∧ (s.cur.dly = none → s.curTile.tlvl s.cur.c = 0 → s.mayAct .xret = true → Traps s .xret (0x09, 0, 0)))
  ∧ (∀ (s : State) (i : Instr),
    s.readsReady i = true → (∃ v ∈ vregsOf i, s.curTile.allotAt s.cur.c ≤ v) → exec i s = .next (s.setCur (s.curTile.takePrecise s.cur (0x04, 0, 0))))
  ∧ (∀ (s : State) (o : VxOp), s.cur.slot = 2 → s.cur.c < s.curTile.vxFree →
      ∀ i ∈ vxForms o, s.readsReady i = true → s.regsAllotted i = true → Traps s i (0x40, 0, 0))
  ∧ (∀ (s : State) (q : MsqOp) (x : MsqIxOp) (b : BitVec 7) (d : DrainOp) (e : DrainMOp) (k : BitVec 3) (m : SclOp) (p : StatOp),
    let t := s.curTile
    let c := s.cur.c
    let busy : Instr → Prop := fun i => s.mayAct i = true → Traps s i (0x41, 0, 0)
    let both : Nat → Nat → Instr → Prop := fun sa sb i => (t.claimedAt sa c = true → t.claimedAt sb c = true → busy i)
      ∧ (t.claimedAt sa c = false → s.mayAct i = true → Traps s i (0x23, 0, sa)) ∧ (t.claimedAt sa c = true → t.claimedAt sb c = false → s.mayAct i = true → Traps s i (0x23, 0, sb))
    c < t.mxFree → (∀ i ∈ [Instr.mzero b, .mdrain d, .mdrainm e, .mscl m, .mstat p], busy i)
      ∧ (∀ i ∈ [Instr.msq q, .msqTa q, .msqTb q, .msqTab q], both q.sa.toNat q.sb.toNat i) ∧ both x.sa.toNat x.sb.toNat (.msqIndexed x)
      ∧ (t.claimedAt k.toNat (c + 1) = false → busy (.mclaim k))
      ∧ (t.claimedAt k.toNat (c + 1) = true → (t.mxSlots.contains k.toNat && decide (c ≤ t.mxReadTo)) = false → busy (.mrel k)))
  -- an early read: any form that raises no lower cause; by its lead, and the file of the register
  ∧ (∀ (s : State) (i : Instr) (r : RegRef),
    let t := s.curTile
    let c := s.cur.c
    t.chk c = true → (t.reads c i).find? (fun k => decide (0 < (t.early c k).1)) = some r → (∀ e ∈ t.causes s.cur i, 0x44 ≤ e.1) → Traps s i (0x44, (t.early c r).1, (t.early c r).2))
  ∧ (∀ (s : State) (o : RR) (p : RI) (q : PC) (n : Nat),
    let t := s.curTile
    let c := s.cur.c
    let first : BitVec 5 → Prop := fun a => n = earlyBy t.s.pend a.toNat c c
    t.chk c = true → 0 < n → (s.cur.slot ≠ 2 ∨ t.vxFree ≤ c) →
      (first o.a → ∀ i ∈ [Instr.add o, .sub o, .andS o, .orS o, .xor o, .andn o, .shl o, .shr o, .sra o, .rol o, .minS o, .maxS o, .minu o, .maxu o, .slt o, .sltu o, .seq o, .adds o, .subs o,
        .absS o, .clz o, .popc o, .brev o, .mul o, .mulh o, .mulhu o, .fadd o, .fsub o, .fmul o, .ffma o, .fmin o, .fmax o, .fabs o, .fneg o, .fcvti o, .icvtf o, .frcp o, .frsq o, .frcps o, .frsqs o],
          Traps s i (0x44, n, 0))
      ∧ (first p.a → ∀ i ∈ [Instr.addi p, .andi p, .ori p, .xori p, .shli p, .shri p, .srai p, .slti p, .sltiu p, .wrsp p], Traps s i (0x44, n, 0))
      ∧ (first q.a → ∀ i ∈ [Instr.peq q, .pne q, .plt q, .pltu q, .pge q, .pgeu q, .pflt q, .pfle q, .pfun q], Traps s i (0x44, n, 0)))
  ∧ (∀ (s : State) (o : VxOp) (n : Nat),
    let t := s.curTile
    let c := s.cur.c
    let lead : Nat → Nat := fun k => earlyBy t.vp (4 * o.va.toNat + k) c c
    let source : Instr → Prop := fun i => i ∉ [Instr.mand o, .mor o, .mxor o, .mnot o, .mpop o, .mfirst o, .mtov o, .mbit o, .vsplat o, .vext o, .vins o, .viota o, .vzero o, .vqscale o, .vshrink o]
    t.chk c = true → 0 < n → (s.cur.slot ≠ 2 ∨ t.vxFree ≤ c) → (∀ k < o.beats.toNat + 1, lead k ≤ n) → (∃ k < o.beats.toNat + 1, lead k = n) →
      ∀ i ∈ vxForms o, source i → s.regsAllotted i = true → Traps s i (0x44, n, 3))

/-! Control (R160, R161, R307 to R323). -/

/-- R160, R161: NOP only goes on, after its WAIT, to the next word or the pending target; LIT also leaves its literal in K for words at c + 3 or later. -/
def Obligations.IssueWords : Prop := ∀ (s : State) (o : IssueWord) (v : BitVec 32),
  let t := s.curTile
  let c := s.cur.c
  noLoopEnd t c s.cur.pc →
    (Gives (exec (.nop o) s) fun u => OnlyTile s u
      ∧ u.curTile = { t with seq := { t.seq with pc := t.seq.xfer.getD (s.cur.pc + 1), xfer := none, due := some (c + 1 + o.wait.toNat), afterLit := false, waitPc := none } })
    ∧ (Gives (exec (.lit o v) s) fun u => OnlyTile s u ∧ SpecialWritten t u.curTile 26 (c + 3) (BitVec.allOnes 64) (v.setWidth 64)
      ∧ { u.curTile with sp := t.sp } = { t with seq := { t.seq with pc := t.seq.xfer.getD (s.cur.pc + 3), xfer := none, due := some (c + 3 + o.wait.toNat), afterLit := true, waitPc := none } })

/-- R313, R314 and log 16: LOOP writes the four registers of its level, available at c + 1; a count of zero skips the body, and one above the maximum raises cause 0x06. At the last word of the one active level that ends there, the count rises; the level ends, or its first word is next. That the latest LOOP comes first in the order of levels also when its count is zero, that such a LOOP in the delay slot of a transfer leaves the transfer's target pending, and that one in the last word of a level has its own next word unless that level's back-edge raises cause 0x06, are the model's readings (log 16). -/
def Obligations.Loops : Prop :=
  (∀ (s : State) (o : IssueWord) (k : Nat),
    let t := s.curTile
    let c := s.cur.c
    let ls := t.spr c (32 + k)
    let lc := ((t.spr c (40 + k)).toNat + 1) % 2 ^ 32
    let lm := (t.spr c (44 + k)).toNat
    let exits := if ls.getLsbD 16 then t.pr c (ls.toNat / 2 ^ 17 % 8) else decide (lm ≤ lc)
    k < 4 → t.seq.xfer = none → ls.getLsbD 31 = true → (t.spr c (36 + k)).toNat = s.cur.pc →
      (∀ j < 4, j ≠ k → lsAct (t.spr c (32 + j)) = true → (t.spr c (36 + j)).toNat ≠ s.cur.pc) →
      Gives (exec (.nop o) s) fun u => OnlyTile s u ∧
        let b := u.curTile
        b.seq.pc = (if exits then s.cur.pc + 1 else ls.toNat % 2 ^ 16) ∧ b.seq.due = some (c + 1 + o.wait.toNat)
        ∧ b.seq.loopTrap = (if !exits && ls.getLsbD 16 && decide (lm ≤ lc) then [(ls.toNat % 2 ^ 16, k, t.tlvl c)] else []) ++ t.seq.loopTrap
        ∧ (∀ v n, b.spr v n = if v < c + 1 then t.spr v n else if n = 40 + k then BitVec.ofNat 64 lc
            else if n = 32 + k ∧ exits then ls &&& 0x7FFFFFFF else t.spr v n)
        ∧ { b with sp := t.sp, seq := t.seq } = t)
  ∧ (∀ (s : State) (o : LoopOp) (cnt : BitVec 13) (r : BitVec 5) (pk : BitVec 3),
    let t := s.curTile
    let c := s.cur.c
    let k := o.lvl.toNat
    let max := o.mman.toNat * 2 ^ o.mexp.toNat
    let starts : Instr → Bool → Nat → Nat → Nat → Nat → Prop := fun i act mode p lm next => Gives (exec i s) fun u => OnlyTile s u ∧
      (∀ v n, u.curTile.spr v n = if v < c + 1 then t.spr v n
        else if n = 32 + k then BitVec.ofNat 64 ((if act then 2 ^ 31 else 0) + p * 2 ^ 17 + mode * 2 ^ 16 + (s.cur.pc + 1) % 2 ^ 16)
        else if n = 36 + k then BitVec.ofNat 64 ((s.cur.pc + o.fin.toNat) % 2 ^ 16) else if n = 40 + k then 0
        else if n = 44 + k then BitVec.ofNat 64 (lm % 2 ^ 32) else t.spr v n)
      ∧ u.curTile.seq.pc = next ∧ u.curTile.seq.order.head?.map (·.val) = some k
      ∧ { u.curTile with sp := t.sp, seq := { u.curTile.seq with order := t.seq.order, pc := t.seq.pc } } = t
    let counts : Instr → Nat → Prop := fun i n => s.mayAct i = true →
      (n ≤ max → starts i (n != 0) 0 0 n (if n = 0 ∧ s.cur.dly = none ∧ (t.seq.loopTrap.any fun e => e.1 == t.seq.pc && e.2.2 == t.tlvl c) = false then s.cur.pc + o.fin.toNat + 1 else t.seq.pc))
      ∧ (max < n → Traps s i (0x06, s.cur.pc, k))
    counts (.loopCounted o cnt) cnt.toNat ∧ counts (.loopRegisterCount o r) (s.sReg r).toNat
    ∧ (s.mayAct (.loopUntil o pk) = true → starts (.loopUntil o pk) true 1 pk.toNat max t.seq.pc))

/-- R309, R310: a transfer leaves its target pending behind the delay slot, and CALL the return address in S31; a TREE none of whose tests holds leaves all as it is. -/
def Obligations.Transfers : Prop := ∀ (s : State) (o : TreeOp) (n : BitVec 6) (r : BitVec 5),
  let t := s.curTile
  let c := s.cur.c
  let table : BitVec 6 → Nat := fun n => t.cfg.nat (16384 + 4 * n.toNat) 4 % 2 ^ 16
  let holds : TreeTest → Bool := fun x => s.pReg x.pred != x.neg
  let lit := t.half (s.cur.pc + 1) / 2 ^ 4 % 2 ^ 9 = 511
  let ret := BitVec.ofNat 32 (s.cur.pc + if lit then 4 else 2)
  let goes : Instr → Nat → Prop := fun i tgt => Gives (exec i s) fun u => OnlyTile s u
    ∧ u.curTile = { t with seq := { t.seq with xfer := some tgt } }
  let calls : Instr → Nat → Prop := fun i tgt => Gives (exec i s) fun u => OnlyTile s u ∧ ScalarWritten t u.curTile 31 (c + 1) ret
    ∧ { u.curTile with s := t.s } = { t with seq := { t.seq with xfer := some tgt } }
  s.cur.dly = none →
    (s.mayAct (.jmp n) = true → goes (.jmp n) (table n)) ∧ (s.mayAct (.jmpIndirect r) = true → goes (.jmpIndirect r) ((s.sReg r).toNat % 2 ^ 16))
    ∧ (s.mayAct (.call n) = true → calls (.call n) (table n)) ∧ (s.mayAct (.callIndirect r) = true → calls (.callIndirect r) ((s.sReg r).toNat % 2 ^ 16))
    ∧ (s.mayAct .ret = true → goes .ret ((s.sReg 31).toNat % 2 ^ 16))
    ∧ (s.mayAct (.tree o) = true → match ([o.t0, o.t1, o.t2, o.t3].take (o.last.toNat + 1)).find? holds with
        | some x => goes (.tree o) (table x.target)
        | none => Gives (exec (.tree o) s) fun u => OnlyTile s u ∧ u.curTile = t)

/-- R315: WAITC on time holds issue until the tile's counter reads max(t, c + 1 + WAIT); late, its logging form enters KIND 0 with the cycles lost, and the other traps with cause 0x43, XVA the cycles lost and XPC the next word. -/
def Obligations.CycleWaits : Prop := ∀ (s : State) (o : WaitOp),
  let t := s.curTile
  let c := s.cur.c
  let g := t.gcy c
  let tgt := (t.tstart c + (s.sReg o.b).toNat + o.imm.toNat) % 2 ^ 64
  let r : Nat := max tgt (g + 1 + s.cur.wait) % 2 ^ 64
  let k : Int := (r : Int) - t.gofs
  s.mayAct (.waitc o) = true →
    (g ≤ tgt → Gives (exec (.waitc o) s) fun u => OnlyTile s u ∧ u.curTile.seq.due = none ∧ u.curTile.seq.hold = .waitc tgt r
      ∧ (∃ a : Act, u.curTile.acts = t.acts ++ [a] ∧ (a.at_ : Int) = max 0 (if k < 2 ^ 64 then k else k - 2 ^ 64) ∧ ∃ f, a.k = .event f ∧ decodeItem f = .instr .waitcRelease)
      ∧ { u.curTile with acts := t.acts, seq := t.seq } = t)
    ∧ (tgt < g → o.log = true → Gives (exec (.waitc o) s) fun u => OnlyTile s u
      ∧ u.curTile.log = t.logged c s.cur.pc 0x43 0 (g - tgt)
      ∧ { u.curTile with log := t.log, logCount := t.logCount, logLost := t.logLost } = t)
    ∧ (tgt < g → o.log = false → t.tlvl c < 2 → Gives (exec (.waitc o) s) fun u => OnlyTile s u
      ∧ u.curTile.spr c (10 + 4 * (t.tlvl c + 1)) &&& 0xFF = 0x43 ∧ u.curTile.spr c (12 + 4 * (t.tlvl c + 1)) = BitVec.ofNat 64 (g - tgt)
      ∧ u.curTile.spr c (11 + 4 * (t.tlvl c + 1)) = BitVec.ofNat 64 t.seq.pc)

/-- R316, R317, R321: BARA sets the arrival wire of its channel; BARW consumes a set latch, and otherwise holds issue until a release or c + MAXW; ALIGN holds issue for the exchange. -/
def Obligations.Barriers : Prop := ∀ (s : State) (lvl : BitVec 2) (o : BarwOp) (d : BitVec 5),
  let t := s.curTile
  let c := s.cur.c
  (s.mayAct (.bara lvl) = true → lvl ≠ 0 → t.arr.length = 3 → Gives (exec (.bara lvl) s) fun u => OnlyTile s u
    ∧ (∀ k, u.curTile.arr.getD k false = (decide (k = lvl.toNat - 1) || t.arr.getD k false)) ∧ { u.curTile with arr := t.arr, out := t.out } = t
    ∧ u.curTile.out = if t.arr.getD (lvl.toNat - 1) false then t.out else t.out ++ [.arrive lvl.toNat])
  ∧ (s.mayAct (.barw o) = true → o.lvl ≠ 0 → t.latch.length = 3 →
      (t.latch.getD (o.lvl.toNat - 1) false = true → Gives (exec (.barw o) s) fun u => OnlyTile s u
        ∧ (∀ k, u.curTile.latch.getD k false = (decide (k ≠ o.lvl.toNat - 1) && t.latch.getD k false)) ∧ { u.curTile with latch := t.latch } = t)
      ∧ (t.latch.getD (o.lvl.toNat - 1) false = false → Gives (exec (.barw o) s) fun u => OnlyTile s u ∧ u.curTile.seq.due = none
        ∧ u.curTile.seq.hold = .barw o.lvl.toNat c o.maxw.toNat o.bound.toNat (c + 1 + s.cur.wait)
        ∧ (∃ a : Act, u.curTile.acts = t.acts ++ [a] ∧ a.at_ = c + o.maxw.toNat ∧ ∃ f, a.k = .event f ∧ decodeItem f = .instr .barwTimeout)
        ∧ { u.curTile with acts := t.acts, seq := t.seq } = t))
  ∧ (s.mayAct (.align d) = true → Gives (exec (.align d) s) fun u => OnlyTile s u ∧ u.curTile.seq.due = none
      ∧ u.curTile.seq.hold = .align d.toNat c s.cur.wait ∧ u.curTile.out = t.out ++ [.align] ∧ { u.curTile with out := t.out, seq := t.seq } = t)

/-- R318, R319, R320, R322: STEP's flip falls due at the end of its cycle, exchanges the words written since the last one and brings the rule that a PMODE left pending into force (R228, R383); TRAP is taken with its immediate in XVA; END retires the iteration; RBMARK declares a boundary. -/
def Obligations.StepTrapEndMark : Prop := ∀ (s : State) (lvl : BitVec 2) (imm : BitVec 16) (b : BitVec 5) (off : BitVec 39),
  let t := s.curTile
  let c := s.cur.c
  (s.mayAct (.step lvl) = true → Gives (exec (.step lvl) s) fun u => OnlyTile s u ∧ { u.curTile with acts := t.acts, out := t.out } = t
    ∧ u.curTile.out = (if t.chk c then t.out ++ [.strobe lvl.toNat] else t.out)
    ∧ ∃ a : Act, u.curTile.acts = t.acts ++ [a] ∧ a.at_ = c ∧ ∀ (x y : Nat) (ev : FetchItem) (w : Tile), w.wrt.Nodup →
        let inLvl : Nat → Bool := fun n => match w.subRegion (n / 16) with | some i => bitsAt (w.ruleWord i) 58 2 == lvl.toNat | none => false
        (∀ n, (w.perform x y ev a).sel.contains n = (w.sel.contains n != (w.wrt.contains n && inLvl n)))
        ∧ (∀ n, (w.perform x y ev a).wrt.contains n = (w.wrt.contains n && !inLvl n)) ∧ (w.perform x y ev a).pool = w.pool
        ∧ ∀ (n : Nat) (r : RuleCopy), w.rules[n]? = some r → (w.perform x y ev a).rules[n]? = some
            (if bitAt (w.ruleWord n) 63 = true ∧ bitsAt (w.ruleWord n) 58 2 = lvl.toNat then (match r.next with | some q => ⟨q.1, q.2, none⟩ | none => r) else r))
  ∧ (s.mayAct (.trap imm) = true → t.tlvl c < 2 → (t.spr c 11).toNat + 112 < t.codeLen → Gives (exec (.trap imm) s) fun u => OnlyTile s u
      ∧ u.curTile.spr c (10 + 4 * (t.tlvl c + 1)) &&& 0xFF = 0x07 ∧ u.curTile.spr c (12 + 4 * (t.tlvl c + 1)) = imm.setWidth 64
      ∧ u.curTile.spr c (11 + 4 * (t.tlvl c + 1)) = BitVec.ofNat 64 t.seq.pc ∧ (u.curTile.spr c (13 + 4 * (t.tlvl c + 1))).getLsbD 15 = false
      ∧ u.curTile.tlvl c = t.tlvl c + 1 ∧ u.curTile.seq.pc = (t.spr c 11).toNat + 112 ∧ u.curTile.seq.due = some (c + 4) ∧ SameBytes t u.curTile)
  ∧ (s.mayAct .endS = true → Gives (exec .endS s) fun u => OnlyTile s u ∧ u.curTile.seq.mode = .between ∧ u.curTile.seq.due = none
      ∧ u.curTile.draining = true ∧ u.curTile.finalEnd = (t.iterLeft == 0) ∧ u.curTile.arr = (if t.iterLeft = 0 then [true, true, true] else t.arr)
      ∧ (∃ a : Act, u.curTile.acts = t.acts ++ [a] ∧ c ≤ a.at_ ∧ t.mxFree ≤ a.at_ ∧ (∀ n ∈ t.localIn, n ≤ a.at_)
          ∧ ∃ f, a.k = .event f ∧ decodeItem f = .instr .drainPoint)
      ∧ u.curTile.s = t.s ∧ u.curTile.p = t.p ∧ u.curTile.sp = t.sp ∧ SameBytes t u.curTile)
  ∧ (s.mayAct (.rbmark b off) = true → Gives (exec (.rbmark b off) s) fun u => OnlyTile s u ∧ OnlySpecials t u.curTile
      ∧ SpecialWritten t u.curTile 10 (c + 1) (BitVec.allOnes 64) (t.spr c 0 + (s.sReg b).setWidth 64 + off.setWidth 64))

/-- R267, R323: the five forms of SYS; a stop request joins those that have not landed. -/
def Obligations.SystemForms : Prop := ∀ (s : State),
  let t := s.curTile
  let c := s.cur.c
  let sets : Instr → BitVec 64 → Prop := fun i v => Gives (exec i s) fun u => OnlyTile s u ∧ OnlySpecials t u.curTile
    ∧ SpecialWritten t u.curTile 9 (c + 1) (BitVec.allOnes 64) v
  (s.mayAct .haltdbg = true → Gives (exec .haltdbg s) fun u => OnlyTile s u ∧ u.curTile = { t with stopReq := t.stopReq ++ [c + 1] })
  ∧ (s.mayAct .trig = true → Gives (exec .trig s) fun u => OnlyTile s u ∧ u.curTile = { t with out := t.out ++ [.trig] })
  ∧ (s.mayAct .preemptpt = true → Gives (exec .preemptpt s) fun u => OnlyTile s u ∧ { u.curTile with ring := t.ring } = t
      ∧ (t.dbg.getLsbD 2 = false → u.curTile.ring = t.ring)
      ∧ (t.dbg.getLsbD 2 = true → t.captureTo = none → s.cur.itb = false → ∃ r : List Byte, r.length = 16 ∧ u.curTile.ring = (t.ring ++ [r]).drop (t.ring.length + 1 - 256)
          ∧ slice r 4 2 = leBytes 2 s.cur.pc))
  ∧ (s.mayAct .chkon = true → sets .chkon 1) ∧ (s.mayAct .chkoff = true → sets .chkoff 0)
/-! Vector instructions (R324 to R347). -/

/-- R169, R330, R331: every integer form gives each active element of Vd its value, beat j at c + 2 + j, and changes nothing else; the widening products go to the pair Vd, Vd + 1, result i to register Vd + i mod 2 at position i div 2, and the accumulating forms add the pair as read at c. -/
def Obligations.VectorIntegerLanes : Prop :=
  (∀ (s : State) (o : VxOp),
    let w := tyWidth o.ty
    let a := s.elem o o.va
    let b := s.elem o o.vb
    let sa : Nat → Int := fun i => sInt w (a i)
    let sb : Nat → Int := fun i => sInt w (b i)
    let n := o.md.toNat % 32
    let forms : List (Instr × (Nat → Nat)) :=
      [(.vadd o, fun i => a i + b i), (.vsub o, fun i => wrapN w ((a i : Int) - b i)),
       (.vadds o, fun i => satS w (sa i + sb i)), (.vsubs o, fun i => satS w (sa i - sb i)),
       (.vaddsu o, fun i => satU w ((a i : Int) + b i)), (.vsubsu o, fun i => satU w ((a i : Int) - b i)),
       (.vmul o, fun i => wrapN w (sa i * sb i)), (.vmulh o, fun i => wrapN w (sa i * sb i / 2 ^ w)), (.vmulhu o, fun i => a i * b i / 2 ^ w),
       (.vand o, fun i => a i &&& b i), (.vor o, fun i => a i ||| b i), (.vxor o, fun i => a i ^^^ b i), (.vandn o, fun i => a i - (a i &&& b i)),
       (.vshl o, fun i => a i * 2 ^ (b i % w)), (.vshr o, fun i => a i / 2 ^ (b i % w)), (.vsra o, fun i => wrapN w (sa i / 2 ^ (b i % w))),
       (.vshli o, fun i => a i * 2 ^ n), (.vshri o, fun i => a i / 2 ^ n), (.vsrai o, fun i => wrapN w (sa i / 2 ^ n)),
       (.vmin o, fun i => if sa i < sb i then a i else b i), (.vmax o, fun i => if sa i < sb i then b i else a i),
       (.vminu o, fun i => min (a i) (b i)), (.vmaxu o, fun i => max (a i) (b i)),
       (.vabs o, fun i => (sa i).natAbs), (.vavg o, fun i => wrapN w ((sa i + sb i + 1) / 2)),
       (.vclz o, fun i => if a i = 0 then w else w - 1 - Nat.log2 (a i)), (.vpopc o, fun i => ((List.range w).filter fun k => bitAt (a i) k).length)]
    ∀ f ∈ forms, s.mayAct f.1 = true → WritesLanes s f.1 o 2 f.2)
  ∧ (∀ (s : State) (o : VxOp),
    let w := tyWidth o.ty
    let a := s.elem o o.va
    let b := s.elem o o.vb
    let acc : Nat → Nat := fun i => s.curTile.velem s.cur.c (2 * w) (o.vd.toNat + i % 2) (i / 2)
    let sp : Nat → Int := fun i => sInt w (a i) * sInt w (b i)
    let forms : List (Instr × (Nat → Nat)) :=
      [(.vmulw o, fun i => wrapN (2 * w) (sp i)), (.vmulwu o, fun i => a i * b i),
       (.vmacw o, fun i => wrapN (2 * w) (acc i + sp i)), (.vmacwu o, fun i => acc i + a i * b i)]
    w ≤ 16 → ∀ f ∈ forms, s.mayAct f.1 = true → Gives (exec f.1 s) fun t => OnlyTile s t ∧ OnlyVectors o s.cur.c s.curTile t.curTile
      ∧ LanesWritten s.curTile t.curTile (2 * w) o.vd.toNat (fun g p => decide (g < 2) && decide (2 * p + g < vxCount o) && s.active o (2 * p + g))
          (fun _ p => s.cur.c + 2 + p / (1024 / (2 * w))) (fun g p => f.2 (2 * p + g)))

/-- R332, R333: every float form gives each active element of Vd the operation's value in its type, beat j at c + 4 + j, with that element's flags on that cycle, and changes nothing else. -/
def Obligations.VectorFloatLanes : Prop := ∀ (s : State) (o : VxOp),
  let f := tyFmt o.ty
  let a := s.elem o o.va
  let b := s.elem o o.vb
  let c := s.elem o o.vc
  let x : Nat → FVal := fun i => f.val (a i)
  let y : Nat → FVal := fun i => f.val (b i)
  let forms : List (Instr × (Nat → Nat × Flags)) :=
    [(.vfadd o, fun i => f.addV (x i) (y i)), (.vfsub o, fun i => f.addV (x i) (y i).negate), (.vfmul o, fun i => f.mulV (x i) (y i)),
     (.vffma o, fun i => f.fmaV (x i) (y i) (f.val (c i))), (.vfmin o, fun i => f.minMax false (a i) (b i)), (.vfmax o, fun i => f.minMax true (a i) (b i)),
     (.vfabs o, fun i => (a i % f.signBit, 0)), (.vfneg o, fun i => (a i ^^^ f.signBit, 0)),
     (.vfrcp o, fun i => f.approx false (a i)), (.vfrsq o, fun i => f.approx true (a i)),
     (.vfrcps o, fun i => f.refine false (x i) (y i)), (.vfrsqs o, fun i => f.refine true (x i) (y i)),
     (.vfexp2 o, fun i => f.exp2 exp2Roots (a i)), (.vfscale o, fun i => f.scaleBy (a i) (sInt f.bits (b i)))]
  ∀ g ∈ forms, s.mayAct g.1 = true → WritesLanesFl s g.1 o 4 g.2

/-- R297 to R299, R332, R333 in each type of the vector engine: NaNs give the default NaN with INV for a signalling one; finite operands are combined exactly and rounded once; the special values of 2^a, a · 2^n, the refinement steps, the minimum and the maximum, and the reciprocals are those of the rules' tables. VFRCP and VFRSQ of a normal number round the quotient of R297 to the type; 2^a is a number within 2^-200 of the exact power, and equal to it at an integer, rounded once. Every n scales a number by 2^n, exactly and rounded once. VFFMA with a NaN gives the default NaN, with INV also for a zero times an infinity; that product with no NaN added, and an infinity less an infinity, are invalid. R207 to R209: every rounding of a number to a float format takes, of the two neighbours in an unbounded exponent range, the one that the mode names, sets NX when the result is inexact and UF when it is also subnormal, and beyond the largest finite magnitude gives what R208's table gives; rounding the exact value of a finite pattern gives that pattern back, with no flag, in every mode. -/
def Obligations.VectorFloatValues : Prop :=
  (∀ f ∈ [fmtFP16, fmtBF16, fmtFP32], ∀ (p q r : Nat),
    let a := f.val p
    let b := f.val q
    let c := f.val r
    let inv : List FVal → Flags := fun l => if l.any FVal.isSNaN then fINV else 0
    let inf : Bool → Nat := fun s => (if s then f.signBit else 0) + f.infPat
    (a.isNaN || b.isNaN → f.addV a b = (f.nanPat, inv [a, b]) ∧ f.mulV a b = (f.nanPat, inv [a, b]) ∧ f.refine false a b = (f.nanPat, inv [a, b])
      ∧ f.refine true a b = (f.nanPat, inv [a, b]))
    ∧ (a.isNaN → f.exp2 exp2Roots p = (f.nanPat, inv [a]) ∧ (∀ n, f.scaleBy p n = (f.nanPat, inv [a])) ∧ f.approx false p = (f.nanPat, inv [a]) ∧ f.approx true p = (f.nanPat, inv [a]))
    ∧ (∀ s t, a = .inf s → b = .inf t → f.addV a b = (if s = t then (inf s, 0) else (f.nanPat, fINV)) ∧ f.mulV a b = (inf (s != t), 0))
    ∧ (let zi := (a.isZero && b.isInf) || (a.isInf && b.isZero)
       let neg := a.sign != b.sign
       (a.isNaN || b.isNaN || c.isNaN → f.fmaV a b c = (f.nanPat, inv [a, b, c] ||| if zi then fINV else 0)) ∧ (zi && !c.isNaN → f.fmaV a b c = (f.nanPat, fINV))
       ∧ ((a.isInf || b.isInf) && !a.isNaN && !b.isNaN && !c.isNaN && !zi → f.fmaV a b c = if c.isInf && c.sign != neg then (f.nanPat, fINV) else (inf neg, 0)))
    ∧ (∀ s y, a = .inf s → b = .num y → f.addV a b = (inf s, 0) ∧ f.addV b a = (inf s, 0)
        ∧ f.mulV a b = (if y.m = 0 then (f.nanPat, fINV) else (inf (s != y.neg), 0)) ∧ f.mulV b a = f.mulV a b)
    -- refinement steps
    ∧ (∀ rsq, !a.isNaN && !b.isNaN && (a.isZero || b.isZero || a.isInf || b.isInf) → f.refine rsq a b = (f.bias * 2 ^ f.fb, 0))
    ∧ (∀ x y, a = .num x → b = .num y → x.m ≠ 0 → y.m ≠ 0 →
        let z : Nat → ExactNum := fun k => (⟨false, k, 0⟩ : ExactNum).add { x.mul y with neg := !(x.mul y).neg }
        f.refine false a b = f.round .rne (z 2) ∧ f.refine true a b = f.round .rne { z 3 with e := (z 3).e - 1 })
    -- minimum and maximum
    ∧ (p < 2 ^ f.bits → q < 2 ^ f.bits → ∀ mx,
        let key : Nat → Int := fun u => if u < f.signBit then u else (f.signBit : Int) - u
        let below := key p < key q ∨ (key p = key q ∧ f.signBit ≤ p ∧ q < f.signBit)
        f.minMax mx p q = if a.isSNaN || b.isSNaN then (f.nanPat, fINV) else if a.isNaN && b.isNaN then (f.nanPat, 0)
          else if a.isNaN then (q, 0) else if b.isNaN then (p, 0) else (if (decide below) = mx then q else p, 0))
    -- reciprocals of normal numbers
    ∧ (∀ x, a = .num x → f.tiny p = false →
        let e : Int := ((p / 2 ^ f.fb % 2 ^ f.eb : Nat) : Int) - f.bias
        let d := 8193 + 2 * (p % 2 ^ f.fb * 2 ^ 12 / 2 ^ f.fb)
        (∃ n : Nat, (2 * (n * d : Nat) - 2 ^ 27 : Int).natAbs < d
          ∧ f.approx false p = if e ≤ 125 then f.round .rne ⟨x.neg, n, -13 - e⟩ else (if x.neg then f.signBit else 0, fUF))
        ∧ (x.neg = false → ∃ n : Nat, 1 ≤ n ∧ (2 * n - 1) ^ 2 * (d * 2 ^ (e % 2).toNat) < 2 ^ 41 ∧ 2 ^ 41 < (2 * n + 1) ^ 2 * (d * 2 ^ (e % 2).toNat)
          ∧ f.approx true p = f.round .rne ⟨false, n, -13 - (e - e % 2) / 2⟩))
    -- powers of two
    ∧ (∀ x, a = .num x → x.m ≠ 0 →
        let real : ExactNum → ℝ := fun u => (if u.neg then -1 else 1) * (u.m : ℝ) * (2 : ℝ) ^ u.e
        let v := real x
        (4096 ≤ |v| → f.exp2 exp2Roots p = if x.neg then (0, fUF ||| fNX) else (f.infPat, fOF ||| fNX))
        ∧ (|v| < 4096 → ∃ y : ExactNum, |real y - (2 : ℝ) ^ v| ≤ (2 : ℝ) ^ (v - 200) ∧ (∀ n : ℤ, v = n → real y = (2 : ℝ) ^ n)
            ∧ (f.exp2 exp2Roots p).1 = (f.round .rne y).1
            ∧ (v < 1 - (f.bias : ℝ) → (f.exp2 exp2Roots p).2 = fUF ||| fNX) ∧ (1 - (f.bias : ℝ) ≤ v → (f.exp2 exp2Roots p).2 = (f.round .rne y).2)
            ∧ ((∀ n : ℤ, v ≠ n) → (f.exp2 exp2Roots p).2 &&& fNX = fNX)))
    ∧ (∀ s, a = .inf s → f.exp2 exp2Roots p = (if s then 0 else f.infPat, 0) ∧ (∀ n, f.scaleBy p n = (inf s, 0))
        ∧ f.approx false p = (if s then f.signBit else 0, 0) ∧ f.approx true p = if s then (f.nanPat, fINV) else (0, 0))
    ∧ (∀ x, a = .num x → (f.tiny p = true → f.approx false p = (inf x.neg, fDZ) ∧ f.approx true p = (inf x.neg, fDZ))
        ∧ (f.tiny p = false → x.neg = true → f.approx true p = (f.nanPat, fINV))
        ∧ (x.m = 0 → f.exp2 exp2Roots p = f.round .rne one ∧ ∀ n, f.scaleBy p n = (if x.neg then f.signBit else 0, 0))
        ∧ (∀ n : Int, f.scaleBy p n = f.round .rne ⟨x.neg, x.m, x.e + n⟩))
    ∧ (∀ x y, a = .num x → b = .num y → f.addV a b = f.round .rne (x.add y) ∧ f.mulV a b = f.round .rne (x.mul y)
        ∧ (∀ z, c = .num z → f.fmaV a b c = f.round .rne ((x.mul y).add z)) ∧ (∀ t, c = .inf t → f.fmaV a b c = (inf t, 0))))
  ∧ (∀ g ∈ floatFormats, ∀ (mode : Mode) (x : ExactNum), g.1.Rounds g.2.1 mode x (g.1.round mode x))
  ∧ (∀ f ∈ [fmtE2M1, fmtE2M3, fmtE3M2, fmtE4M3, fmtE5M2, fmtFP16, fmtBF16, fmtFP32], ∀ (p : Nat) (x : ExactNum) (mode : Mode),
      p < 2 ^ f.bits → f.val p = .num x → f.round mode x = (p, 0))

/-- R334, R335: each compare gives the active bits of M[d] their result at c + 1 + b, with the flags of each element at its beat's availability cycle; the mask operations give M[d], or S[d] at c + 3, or the lanes of Vd, theirs. -/
def Obligations.VectorMasks : Prop :=
  (∀ (s : State) (o : VxOp),
    let w := tyWidth o.ty
    let f := tyFmt o.ty
    let a := s.elem o o.va
    let b := s.elem o o.vb
    let x : Nat → FVal := fun i => f.val (a i)
    let y : Nat → FVal := fun i => f.val (b i)
    let nan : Nat → Bool := fun i => (x i).isNaN || (y i).isNaN
    let anyNaN : Nat → Flags := fun i => if nan i then fINV else 0
    let sigNaN : Nat → Flags := fun i => if (x i).isSNaN || (y i).isSNaN then fINV else 0
    let forms : List (Instr × (Nat → Bool × Flags)) :=
      [(.vceq o, fun i => (decide (a i = b i), 0)), (.vclt o, fun i => (decide (sInt w (a i) < sInt w (b i)), 0)), (.vcltu o, fun i => (decide (a i < b i), 0)),
       (.vfceq o, fun i => ((x i).eq (y i), sigNaN i)), (.vfclt o, fun i => ((x i).lt (y i), anyNaN i)),
       (.vfcle o, fun i => ((x i).lt (y i) || (x i).eq (y i), anyNaN i)), (.vfcun o, fun i => (nan i, sigNaN i))]
    ∀ g ∈ forms, s.mayAct g.1 = true → WritesMaskBits s g.1 o (s.active o) g.2)
  ∧ (∀ (s : State) (o : VxOp),
    let t := s.curTile
    let c := s.cur.c
    let ma : Nat → Bool := fun k => bitAt (t.mreg c (o.va.toNat % 8)) k
    let mb : Nat → Bool := fun k => bitAt (t.mreg c (o.vb.toNat % 8)) k
    let marked := (List.range (vxCount o)).filter fun i => ma i && s.active o i
    let whole : List (Instr × (Nat → Bool)) :=
      [(.mand o, fun k => ma k && mb k), (.mor o, fun k => ma k || mb k), (.mxor o, fun k => ma k != mb k), (.mnot o, fun k => !ma k)]
    (∀ f ∈ whole, s.mayAct f.1 = true → Gives (exec f.1 s) fun u => OnlyTile s u ∧ OnlyMasksFlags o c t u.curTile ∧ u.curTile.fp = t.fp
        ∧ MaskWritten t u.curTile (o.vd.toNat % 8) (c + 2) (fun _ => true) f.2)
    ∧ (s.mayAct (.mpop o) = true → WritesVxScalar s (.mpop o) o 3 (BitVec.ofNat 32 marked.length, 0))
    ∧ (s.mayAct (.mfirst o) = true → WritesVxScalar s (.mfirst o) o 3 (BitVec.ofNat 32 (marked.headD 0xFFFFFFFF), 0))
    ∧ (s.mayAct (.mbit o) = true → WritesMaskBits s (.mbit o) o (fun _ => true)
        fun i => (decide ((t.s32 c (o.va.toNat % 32)).toNat ≤ i ∧ i < (t.s32 c (o.vb.toNat % 32)).toNat), 0))
    ∧ (s.mayAct (.mtov o) = true → WritesLanes s (.mtov o) o 2 fun i => if ma i then 2 ^ tyWidth o.ty - 1 else 0))

/-- R336, R345, R346: the moves; VEXT takes one element to a scalar, or a Q register whole, and VINS writes one element; the permutes, beat j at c + 3 + j. -/
def Obligations.VectorMoves : Prop :=
  (∀ (s : State) (o : VxOp),
    let t := s.curTile
    let c := s.cur.c
    let w := tyWidth o.ty
    let a := s.elem o o.va
    let b := s.elem o o.vb
    let sa := t.s32 c (o.va.toNat % 32)
    let n := (t.s32 c (o.vb.toNat % 32)).toNat
    let forms : List (Instr × (Nat → Nat)) :=
      [(.vsel o, fun i => if bitAt (t.mreg c (o.vc.toNat % 8)) i then a i else b i), (.vmov o, a),
       (.vsplat o, fun _ => if o.md.getLsbD 0 then (t.kreg c).toNat else sa.toNat), (.viota o, fun i => sa.toNat + i), (.vzero o, fun _ => 0)]
    (∀ f ∈ forms, s.mayAct f.1 = true → WritesLanes s f.1 o 2 f.2)
    ∧ (s.mayAct (.vext o) = true →
        if o.md.getLsbD 1 then WritesVxScalar s (.vext o) o 3 (BitVec.ofNat 32 (t.q32 c (o.va.toNat % 4)), 0)
        else if vxCount o ≤ n then WritesVxScalar s (.vext o) o 3 (0, 0)
        else if s.active o n then WritesVxScalar s (.vext o) o 3 (if o.ty.toNat < 4 ∧ o.md.getLsbD 0 = false then BitVec.ofInt 32 (sInt w (a n)) else BitVec.ofNat 32 (a n), 0)
        else Gives (exec (.vext o) s) fun u => OnlyTile s u ∧ u.curTile = { t with vxFree := c + (o.beats.toNat + 1) })
    ∧ (s.mayAct (.vins o) = true → Gives (exec (.vins o) s) fun u => OnlyTile s u ∧ OnlyVectors o c t u.curTile
        ∧ LanesWritten t u.curTile w o.vd.toNat (fun g p => g == 0 && decide (p = n ∧ n < vxCount o)) (fun _ p => c + 2 + p / (1024 / w)) (fun _ _ => sa.toNat)))
  ∧ (∀ (s : State) (o : VxOp),
    let w := tyWidth o.ty
    let e := vxCount o
    let a := s.elem o o.va
    let b := s.elem o o.vb
    let sel : Nat → Nat := fun i => ((s.curTile.cfg.get (16640 + 128 * (o.md.toNat % 64) + i % (1024 / w))).toNat)
    let n := 1024 / w
    let forms : List (Instr × (Nat → Nat)) :=
      [(.vrot o, fun i => a ((i + (s.curTile.s32 s.cur.c (o.vb.toNat % 32)).toNat) % e)),
       (.vzip o, fun i => (if i % 2 = 0 then a else b) ((if o.md.getLsbD 0 then e / 2 else 0) + i / 2)),
       (.vunzip o, fun i => if i < e / 2 then a (2 * i + o.md.toNat % 2) else b (2 * (i - e / 2) + o.md.toNat % 2)),
       (.vrev o, fun i => a (e - 1 - i))]
    (∀ f ∈ forms, s.mayAct f.1 = true → WritesLanes s f.1 o 3 f.2)
    ∧ (s.curTile.cfg.wf = true → 8 ≤ w → s.mayAct (.vshuf o) = true → WritesLanes s (.vshuf o) o 3 fun i =>
        if sel i % 128 < n then (if 128 ≤ sel i then b else a) (i / n * n + sel i % 128) else 0))

/-- R337, R338: the conversions write each active result where its width puts it, with its flags; SR advances SRCTR by the beats (R210). R207 to R209: a conversion to each float format gives NaNs and infinities what R208's table says and rounds a number to the neighbour that the mode names, with the table's result beyond the format's range and its flags; one to each integer format rounds to the integer that the mode names, saturates with INV, and sets NX when it moved; SR's hash is that of R209. -/
def Obligations.VectorConversions : Prop := (∀ (s : State) (o : VxOp),
  let w := tyWidth o.ty
  let a := s.elem o o.va
  let f := o.md.toNat / 8
  let m := o.md.toNat % 8
  let seed : Word := (s.curTile.spr s.cur.c 6).setWidth 32
  let ctr : Word := (s.curTile.spr s.cur.c 7).setWidth 32
  let mode : Nat → Mode := fun i => if m = 5 then .sr (srHash seed (ctr + BitVec.ofNat 32 (i / (1024 / w))) i) else modeOf m
  let k := if o.md.getLsbD 1 then 4 else 2
  let sh := o.md.toNat / 2 % 32
  let v : Nat → Int := fun i => if sh = 0 then sInt w (a i) else (sInt w (a i) + 2 ^ (sh - 1)) / 2 ^ sh
  let widened : Nat → Nat × Flags := fun i =>
    if o.ty.toNat < 4 then (if o.md.getLsbD 0 then a i else wrapN (k * w) (sInt w (a i)), 0)
    else match (tyFmt o.ty).val (a i) with
      | .nan sig => (0x7FC00000, if sig then fINV else 0)
      | x => fmtFP32.convert .rne x
  (s.mayAct (.vcvt o) = true → fmtWidth f ∈ [4, 8, 16, 32] → WritesConverted s (.vcvt o) o (fmtWidth f) (m == 5) fun i => fmtConvert f (mode i) (fmtVal (tyCode o.ty) (a i)))
  ∧ (s.mayAct (.vwiden o) = true → k * w ≤ 32 → WritesConverted s (.vwiden o) o (k * w) false widened)
  ∧ (s.mayAct (.vnarrow o) = true → 8 ≤ w → WritesConverted s (.vnarrow o) o (w / 2) false fun i => (if o.md.getLsbD 0 then wrapN (w / 2) (v i) else satS (w / 2) (v i), 0))
  ∧ (s.mayAct (.vnarrowu o) = true → 8 ≤ w → WritesConverted s (.vnarrowu o) o (w / 2) false fun i => (satU (w / 2) (v i), 0)))
  -- a value in each format that has elements of its own
  ∧ (∀ g ∈ [(6, 0), (7, 1), (8, 2), (9, 3), (10, 4), (11, 0), (12, 1), (13, 2), (14, 3), (15, 4), (17, 3), (20, 5), (19, 6), (22, 7)], ∀ f top none', floatFormats[g.2]? = some (f, top, none') →
    ∀ (mode : Mode) (v : FVal), fmtConvert g.1 mode v = match v with
      | .nan sig => (none', if g.2 < 3 ∨ sig = true then fINV else 0)
      | .inf neg => ((if neg then 2 ^ (f.bits - 1) else 0) + if f.ieee then top + 1 else top, if f.ieee then 0 else fOF)
      | .num x => f.round mode x)
  ∧ (∀ g ∈ [(1, 4, true), (2, 4, false), (3, 8, true), (4, 8, false), (5, 16, true), (21, 32, true)],
    let lo : Int := if g.2.2 then -(2 ^ (g.2.1 - 1) : Nat) else 0
    let hi : Int := (if g.2.2 then 2 ^ (g.2.1 - 1) else 2 ^ g.2.1 : Nat) - 1
    ∀ (mode : Mode) (v : FVal), fmtConvert g.1 mode v = match v with
      | .nan _ => (0, fINV)
      | .inf neg => (wrapN g.2.1 (if neg then lo else hi), fINV)
      | .num x => let k := roundedInt mode x
        if k.1 < lo then (wrapN g.2.1 lo, fINV) else if hi < k.1 then (wrapN g.2.1 hi, fINV) else (wrapN g.2.1 k.1, if k.2 then fNX else 0))
  ∧ (∀ (mode : Mode) (x : ExactNum), roundInt mode x = roundedInt mode x)
  ∧ (∀ (g : Fmt × Nat × Nat) (mode : Mode) (x : ExactNum), g ∈ floatFormats → g.1.Rounds g.2.1 mode x (g.1.round mode x))
  ∧ ∀ (seed ctr : Word) (idx : Nat),
    let m1 : Word → Word := fun v => (v ^^^ (v >>> 16)) * 0x85EBCA6B
    let m2 : Word → Word := fun v => (v ^^^ (v >>> 13)) * 0xC2B2AE35
    let m3 : Word → Word := fun v => v ^^^ (v >>> 16)
    srHash seed ctr idx = (m3 (m2 (m1 (seed ^^^ (BitVec.ofNat 32 idx * 0x9E3779B1) ^^^ (ctr * 0x85EBCA77))))).toNat % 65536

/-- R339 to R343, R211 to R213: the quantisation of blocks: the measure, the scale, and the elements under a scale read two cycles after issue: each the exact product or quotient by the scale, rounded once to its format, saturated in INT8; those of source beat j are available at c + 3 + j. That VQSCALE sets no flag but the INV of its table is the model's reading (log 14). -/
def Obligations.VectorQuantisation : Prop := ∀ (s : State) (o : VxOp),
  let t := s.curTile
  let c := s.cur.c
  let w := tyWidth o.ty
  let x : Nat → FVal := fun i => (tyFmt o.ty).val (s.elem o o.va i)
  let q : BitVec 6 → Nat := fun r => if o.md.getLsbD 4 then ((t.spr c 40).toNat + r.toNat) % 4 else r.toNat % 4
  let f := o.md.toNat / 32 + 11
  let m := o.md.toNat % 8
  let seed : Word := (t.spr c 6).setWidth 32
  let ctr : Word := (t.spr c 7).setWidth 32
  let mode : Nat → Mode := fun i => if m = 5 then .sr (srHash seed (ctr + BitVec.ofNat 32 (i / (1024 / w))) i) else modeOf m
  let on : Nat → Bool := fun i => decide (i < vxCount o) && s.active o i
  let below : ExactNum → ExactNum → Bool := fun u v => decide (({ u with neg := false } : ExactNum).cmp v ≤ 0)
  let scale := t.q32 (c + 2) (q o.vb)
  (s.mayAct (.vqmax o) = true → o.ty.toNat ∈ [4, 5, 6] → ∃ v : Nat, WritesVxScale s (.vqmax o) o (q o.vd) (o.beats.toNat + 7) (v, 0)
    ∧ ((∃ i, on i ∧ (x i).isNaN = true) → v = 0x7FC00000)
    ∧ ((¬ ∃ i, on i ∧ (x i).isNaN = true) → (∃ i, on i ∧ (x i).isInf = true) → v = 0x7F800000)
    ∧ ((¬ ∃ i, on i ∧ ((x i).isNaN || (x i).isInf) = true) → ∃ y, fmtFP32.val v = .num y ∧ y.neg = false
        ∧ (∀ i u, on i → x i = .num u → below u y = true) ∧ (y.m = 0 ∨ ∃ i u, on i ∧ x i = .num u ∧ below { y with neg := false } { u with neg := false } = true)))
  ∧ (s.mayAct (.vqscale o) = true → ∃ r : Nat × Flags, WritesVxScale s (.vqscale o) o (q o.vd) 4 r ∧
      match fmtFP32.val (t.q32 c (q o.va) % 2 ^ 31) with
      | .num y =>
        let emax : Int := if f ≤ 12 then 2 else if f = 13 then 4 else if f = 14 then 8 else if f = 15 then 15 else 0
        if f ≤ 16 then r.2 = 0 ∧ ∀ top : Int, (y.m = 0 → r.1 = 0) ∧ (y.e ≤ top → 2 ^ (top - y.e).toNat ≤ y.m → y.m < 2 ^ (top + 1 - y.e).toNat →
            (r.1 : Int) = min 127 (max (-127) (top - emax)) + 127)
        else ∃ z, QuotientOf y ⟨false, if f = 17 then 448 else 127, 0⟩ z ∧ r = (if y.m = 0 then 0x3F800000 else max 0x00800000 (rne32 z).1, 0)
      | _ => r = (if f ≤ 16 then 0xFF else 0x7FC00000, fINV))
  ∧ (s.mayAct (.vqcvt o) = true → 16 ≤ w → ∃ g : Nat → Nat × Flags, WritesPacked s (.vqcvt o) o (fmtWidth f) (m == 5) g
      ∧ ∀ i, let e : Int := (scale % 256 : Nat) - 127
          let bad := if f ≤ 16 then scale % 256 == 255 else match fmtFP32.val scale with | .num y => y.m == 0 || y.neg | _ => true
          let none' := if f = 14 ∨ f = 17 then 0x7F else if f = 15 then 0x7E else 0
          (bad = true → g i = (none', fINV))
          ∧ (bad = false → match x i with
            | .nan sig => g i = (none', if sig || none' == 0 then fINV else 0)
            | .inf neg => g i = match f with
              | 11 => (if neg then 0xF else 0x7, fOF)
              | 12 | 13 => (if neg then 0x3F else 0x1F, fOF)
              | 14 | 17 => (if neg then 0xFE else 0x7E, fOF)
              | 15 => (if neg then 0xFC else 0x7C, 0)
              | _ => (if neg then 0x81 else 0x7F, fINV)
            | .num a => (f ≤ 16 → g i = blockRound f (mode i) { a with e := a.e + (if f = 16 then 6 - e else -e) })
              ∧ (16 < f → ∀ sc, fmtFP32.val scale = .num sc → ∃ y, QuotientOf a sc y ∧ g i = blockRound f (mode i) y)))
  ∧ (s.mayAct (.vdeq o) = true → 16 ≤ w → Gives (exec (.vdeq o) s) fun u => OnlyTile s u ∧ OnlyConverted o c t u.curTile
      ∧ let src : Nat → Nat := fun i => t.velem c (fmtWidth f) o.va.toNat i
        let dst := tyFmt o.ty
        ∃ g : Nat → Nat × Flags, LanesWritten t u.curTile w o.vd.toNat (fun g p => g == 0 && decide (p < vxCount o) && s.active o p) (fun _ p => c + 4 + p / (1024 / w)) (fun _ p => (g p).1)
        ∧ FlagsTaken t u.curTile (vxCount o) (s.active o) (fun p => c + 4 + p / (1024 / w)) (fun p => (g p).2)
        ∧ (if m = 5 then SpecialWritten t u.curTile 7 (c + 1) (BitVec.allOnes 64) ((ctr + BitVec.ofNat 32 (o.beats.toNat + 1)).setWidth 64) else u.curTile.sp = t.sp)
        ∧ ∀ i, let e : Int := (scale % 256 : Nat) - 127
            let bad := (fmtVal f (src i)).isNaN || (if f ≤ 16 then scale % 256 == 255 else match fmtFP32.val scale with | .num _ => false | _ => true)
            (bad = true → g i = (dst.nanPat, fINV))
            ∧ (bad = false → match fmtVal f (src i) with
              | .num a => (f ≤ 16 → g i = dst.round (mode i) { a with e := a.e + (if f = 16 then e - 6 else e) })
                ∧ (16 < f → ∀ sc, fmtFP32.val scale = .num sc → g i = dst.round (mode i) (a.mul sc))
              | .inf neg => g i = ((if neg then dst.signBit else 0) + dst.infPat, 0)
              | .nan _ => True))

/-- R344: the reductions leave their root in S[d] at c + 6 + b: exact sums wrapped, signed extremes, and the pairwise tree of the FP32 combine over widened values. -/
def Obligations.VectorReductions : Prop := ∀ (s : State) (o : VxOp),
  let w := tyWidth o.ty
  let lat := o.beats.toNat + 7
  let a := s.elem o o.va
  let is := (List.range (vxCount o)).filter fun i => s.active o i
  let ints : List (Instr × Int) :=
    [(.vrsum o, (is.map fun i => sInt w (a i)).sum), (.vrsumu o, (is.map fun i => (a i : Int)).sum),
     (.vrmax o, (is.map fun i => sInt w (a i)).foldl max (-(2 ^ (w - 1) : Nat))), (.vrmin o, (is.map fun i => sInt w (a i)).foldl min ((2 ^ (w - 1) : Nat) - 1))]
  let leaf : Nat → Nat → Nat := fun ident i =>
    if s.active o i then (match (tyFmt o.ty).val (a i) with | .nan sig => if sig then 0x7FA00000 else 0x7FC00000 | x => (fmtFP32.convert .rne x).1) else ident
  let floats : List (Instr × Nat × (Nat → Nat → Nat × Flags)) :=
    [(.vfrsum o, 0x80000000, fun x y => fmtFP32.addV (fmtFP32.val x) (fmtFP32.val y)), (.vfrmax o, 0xFF800000, fmtFP32.minMax true), (.vfrmin o, 0x7F800000, fmtFP32.minMax false)]
  (∀ f ∈ ints, s.mayAct f.1 = true → WritesVxScalar s f.1 o lat (BitVec.ofInt 32 f.2, 0))
  ∧ ∀ f ∈ floats, s.mayAct f.1 = true →
      let r := treeUp f.2.2 11 ((List.range (vxCount o)).map (leaf f.2.1)) 0
      WritesVxScalar s f.1 o lat (BitVec.ofNat 32 (r.1.headD 0), r.2)

/-- R347: VSHRINK lowers the allotment from c + 1 on, and a larger count has no effect; every byte keeps its contents. -/
def Obligations.VectorShrink : Prop := ∀ (s : State) (o : VxOp),
  let t := s.curTile
  let c := s.cur.c
  let n := 4 * (o.md.toNat % 32)
  s.mayAct (.vshrink o) = true → Gives (exec (.vshrink o) s) fun u => OnlyTile s u ∧ SameBytes t u.curTile
    ∧ u.curTile.allotAt c = t.allotAt c ∧ (∀ k, c + 1 ≤ k → t.shrink = none ∨ n < t.allotAt c → u.curTile.allotAt k = min (t.allotAt c) n)
    ∧ u.curTile.vxFree = c + (o.beats.toNat + 1) ∧ { u.curTile with vxFree := t.vxFree, shrink := t.shrink, allot := t.allot } = t
/-! The matrix engine (R348 to R362). -/

/-- R193, R201, R202, R353, R354: a promotion adds to each cell its scaled dot product, which the squarer array finds from squares alone, and leaves the sums of squares of rows and columns behind the cells. When its cycle comes, it writes its block from what it holds on that cycle, and ORs its flags, INV of a poisoned cell, OF of a cell that rounds to an infinity and NX of one that its rounding changes, into the sticky status, never into FPST. The sign of a sum that is exactly zero is the model's choice (log 14). -/
def Obligations.PromotionValues : Prop := (∀ (p : Promo) (old : List Nat) (i j : Nat),
  let row := sideImg p.ent.afmt p.ent.asrc p.a p.sa i
  let col := sideImg p.ent.bfmt p.ent.bsrc p.b p.sb j
  let dot := (List.zipWith (· * ·) row.im col.im).sum
  let scale := mul32 (fmtFP32.val (mul32 row.sc col.sc)) (.num ⟨false, 1, row.g + col.g⟩)
  let acc := if p.fresh then 0 else old.getD (32 * i + j) 0
  let out := (p.run old).1
  let cell := leAt out (4 * (32 * i + j)) 4
  p.a.length = p.b.length → old.length = 1024 → (∀ e ∈ old, e < 2 ^ 32) → i < 32 → j < 32 →
    out.length = 4608
    ∧ (row.bad || col.bad || (match fmtFP32.val scale with | .num _ => false | _ => true) → cell = 0x7FC00000)
    ∧ (∀ s, fmtFP32.val scale = .num s → (row.bad || col.bad) = false →
        (dot = 0 → cell = acc) ∧ (∀ a, fmtFP32.val acc = .num a → dot ≠ 0 → cell = (rne32 (a.add ((numOfInt dot).mul s))).1)
        ∧ ((∀ a, fmtFP32.val acc ≠ .num a) → cell = acc))
    ∧ leAt out (4096 + 8 * i) 8 = wrapN 64 ((row.im.map fun x => x * x).sum) ∧ leAt out (4352 + 8 * j) 8 = wrapN 64 ((col.im.map fun x => x * x).sum))
  ∧ ∀ (px py : Nat) (ev : FetchItem) (w : Tile) (a : Act) (p : Promo), a.k = .promote p → w.memWf = true → a.chk = false → w.upsets = [] → p.a.length = p.b.length →
      let old := (List.range 1024).map fun m => w.pool.nat (w.blkAddr p.blk + 4 * m) 4
      let r := p.run old
      let u := w.perform px py ev a
      LeadsTo w u a.at_ (fun a' => BlockWrite a' a.at_ (w.blkAddr p.blk) r.1) ∧ { u with acts := w.acts, mst := w.mst } = w ∧ u.mst = w.mst ||| r.2
      ∧ (bitAt r.2.toNat 4 = true ↔ ∃ i < 32, ∃ j < 32, let row := sideImg p.ent.afmt p.ent.asrc p.a p.sa i; let col := sideImg p.ent.bfmt p.ent.bsrc p.b p.sb j
          (row.bad || col.bad || (match fmtFP32.val (mul32 (fmtFP32.val (mul32 row.sc col.sc)) (.num ⟨false, 1, row.g + col.g⟩)) with | .num _ => false | _ => true)) = true)
      ∧ (bitAt r.2.toNat 2 = true ↔ ∃ i < 32, ∃ j < 32, ∃ x, p.sum old i j = some x ∧ (rne32 x).1 % 2 ^ 31 = 0x7F800000)
      ∧ (bitAt r.2.toNat 0 = true ↔ ∃ i < 32, ∃ j < 32, ∃ x, p.sum old i j = some x ∧ ∀ z, fmtFP32.val (rne32 x).1 = .num z → z.cmp x ≠ 0)
      ∧ r.2 &&& ~~~(fINV ||| fOF ||| fNX) = 0

/-- R351 to R355, R200, R205: an MSQ of a valid entry whose slots are claimed occupies the engine for its beats and its promotion boundaries, tags its block, and reads its first beat at c; a released slot raises cause 0x23, an invalid entry cause 0x60. Beat q reads, at c + q + (q × r) div I, the operands of its K-steps through its ports; the beat that closes an interval hands them, with the interval's scales, to a promotion five cycles later. -/
def Obligations.MatrixProducts : Prop := ∀ (s : State) (o : MsqOp) (x : MsqIxOp),
  let t := s.curTile
  let c := s.cur.c
  let ix := (4 * x.base.toNat + (t.spr c (40 + x.k.toNat)).toNat) % 16
  let direct : List (Instr × Bool × Bool) := [(.msq o, false, false), (.msqTa o, true, false), (.msqTb o, false, true), (.msqTab o, true, true)]
  let all : List (Instr × Nat × Nat × Nat × Nat × Nat × Bool × Bool × Bool) :=
    direct.map (fun d => (d.1, o.fe.toNat, o.sa.toNat, o.sb.toNat, o.beats.toNat + 1, o.blk.toNat, d.2.1, d.2.2, o.acc))
      ++ [(.msqIndexed x, ix, x.sa.toNat, x.sb.toNat, x.beats.toNat + 1, x.blk.toNat, x.form.getLsbD 0, x.form.getLsbD 1, x.acc)]
  ∀ (i : Instr) (fe sa sb n blk : Nat) (ta tb acc : Bool), (i, fe, sa, sb, n, blk, ta, tb, acc) ∈ all → s.mayAct i = true → t.mxFree ≤ c →
    let e := t.fmtEntry fe
    (t.claimedAt sa c = false → Traps s i (0x23, 0, sa)) ∧ (t.claimedAt sa c = true → t.claimedAt sb c = false → Traps s i (0x23, 0, sb))
    ∧ (t.claimedAt sa c = true → t.claimedAt sb c = true → e.v = false → Traps s i (0x60, 0, fe))
    ∧ (t.claimedAt sa c = true → t.claimedAt sb c = true → e.v = true → Gives (exec i s) fun u => OnlyTile s u ∧ MsqStarted t u.curTile c s.cur.slot fe sa sb n blk ta tb acc)
    -- a beat
    ∧ ∀ (px py : Nat) (ev : FetchItem) (w : Tile) (a : Act) (j : MsqJob), w.msq = some j → a.k = .msqBeat → j.ent.v = true →
        let rate := j.ent.rate
        let at_ : Nat → Nat := fun q => j.c + q + q * rate / j.ent.interval
        let pos : Bool → Nat → Nat → Nat → Nat := fun row wd k l => 8 * 512 * (if row then k % 32 else l) + (if row then 32 * (k / 32) + l else k) * wd
        let reads : Nat → Bool → Nat → List (List Nat) := fun slot row code => (List.range rate).map fun m => (List.range 32).map fun l =>
          w.rdElem false (8 * 16384 * slot + pos row (fmtWidth code) (j.q * rate + m) l) (fmtWidth code)
        let sideA := j.a ++ reads j.sa j.ta j.ent.afmt
        let sideB := j.bb ++ reads j.sb j.tb j.ent.bfmt
        let closes := (j.q + 1) * rate % j.ent.interval = 0 ∨ j.q + 1 = j.b
        let scale : Nat → Nat → Nat → Nat → Nat := fun bank code src l =>
          w.scaleEntry px py bank (if src = 2 then 0 else l) (j.q * rate / j.ent.interval * j.ent.interval / (if 11 ≤ code ∧ code ≤ 16 then 32 else 128))
        let u := w.perform px py ev a
        a.at_ = at_ j.q → SameBytes w u
          ∧ u.msq = (if j.q + 1 < j.b then some { j with q := j.q + 1, a := if closes then [] else sideA, bb := if closes then [] else sideB, first := j.first && decide (¬ closes) } else none)
          ∧ (∃ l : List Act, u.acts = w.acts ++ l
            ∧ (∀ o ∈ l, o.k = .msqBeat ∨ ∃ p, o.k = .promote p)
            ∧ (l.filter fun o => o.k == .msqBeat).map (·.at_) = (if j.q + 1 < j.b then [at_ (j.q + 1)] else [])
            ∧ (¬ closes → ∀ o ∈ l, o.k = .msqBeat)
            ∧ (closes → ∃ o ∈ l, o.at_ = at_ j.q + 5 ∧ ∃ p : Promo, o.k = .promote p ∧ (∀ o' ∈ l, o'.k ≠ .msqBeat → o' = o)
                ∧ p.ent = j.ent ∧ p.blk = j.blk ∧ (p.fresh ↔ j.acc = false ∧ j.first = true) ∧ p.a = sideA ∧ p.b = sideB
                ∧ (∀ l < 32, j.ent.asrc ≠ 0 → p.sa[l]? = some (scale 0 j.ent.afmt j.ent.asrc l)) ∧ (∀ l < 32, j.ent.bsrc ≠ 0 → p.sb[l]? = some (scale 1 j.ent.bfmt j.ent.bsrc l))))
          ∧ (a.chk = false → { u with msq := w.msq, acts := w.acts } = w)

/-- R356 to R358: MZERO writes zeros over its block at c + 2; a drain reads row i at c + 2 + i and writes it, converted by the entry of the block's tag, at c + 3 + i, masked elements as zero or −∞; a record of another format raises cause 0x60. -/
def Obligations.MatrixBlocks : Prop := ∀ (s : State) (blk : BitVec 7) (o : DrainOp) (m : DrainMOp),
  let t := s.curTile
  let c := s.cur.c
  let drains : List (Instr × Nat × Nat × Word × Option (BitVec 1024 × BitVec 1024) × Bool) :=
    [(.mdrain o, o.blk.toNat, o.bn.toNat, s.sReg o.x, none, false),
     (.mdrainm m, m.blk.toNat, m.bn.toNat, s.sReg m.x, some (t.m.read m.mr.toNat c, t.m.read m.mc.toNat c), m.zm)]
  t.mxFree ≤ c →
  (s.mayAct (.mzero blk) = true → Gives (exec (.mzero blk) s) fun u => OnlyTile s u ∧ BlockCleared t u.curTile c blk.toNat)
  ∧ ∀ (i : Instr) (b bn : Nat) (x : Word) (masks : Option (BitVec 1024 × BitVec 1024)) (zm : Bool), (i, b, bn, x, masks, zm) ∈ drains → s.mayAct i = true →
    let fe := t.tagOf b
    let e := t.fmtEntry fe
    let r := t.bufRec bn
    (e.v = false ∨ e.ofmt ≠ r.fmt → Traps s i (0x60, 0, fe))
    ∧ (e.v = true → e.ofmt = r.fmt → Gives (exec i s) fun u => OnlyTile s u ∧ RowsDrained t u.curTile c b bn x masks zm)

/-- R175, R350, R360 to R362: MCLAIM and MREL change their slot from c + 1 on; a slot that is so already, and MREL of one that the MSQ in flight is reading, raise cause 0x23, whether or not the engine is occupied; MSCL writes its scale entry; MSTAT gives the sticky status, and clears it with CLR. -/
def Obligations.MatrixControl : Prop := ∀ (s : State) (slot : BitVec 3) (o : SclOp) (p : StatOp),
  let t := s.curTile
  let c := s.cur.c
  let reading := t.mxSlots.contains slot.toNat && decide (c ≤ t.mxReadTo)
  let changes : Instr → Bool → Prop := fun i v => s.mayAct i = true →
    (t.claimedAt slot.toNat (c + 1) = v → Traps s i (0x23, 0, slot.toNat))
    ∧ (v = false → reading = true → Traps s i (0x23, 0, slot.toNat))
    ∧ (t.claimedAt slot.toNat (c + 1) = !v → (v = false → reading = false) → c < t.mxFree → Traps s i (0x41, 0, 0))
    ∧ (t.claimedAt slot.toNat (c + 1) = !v → (v = false → reading = false) → t.mxFree ≤ c → t.claims.length = 8 → Gives (exec i s) fun u => OnlyTile s u ∧ u.curTile.mxFree = c + 1
        ∧ (∀ k, c + 2 ≤ k → u.curTile.claimedAt slot.toNat k = v) ∧ (∀ n k, n ≠ slot.toNat → u.curTile.claimedAt n k = t.claimedAt n k)
        ∧ { u.curTile with mxFree := t.mxFree, claims := t.claims } = t)
  changes (.mclaim slot) true ∧ changes (.mrel slot) false
  ∧ (s.mayAct (.mscl o) = true → t.mxFree ≤ c → Gives (exec (.mscl o) s) fun u => OnlyTile s u ∧ u.curTile.mxFree = c + 1
      ∧ (∀ x y bank lane kb, bank < 2 → lane < 32 → kb < 16 → u.curTile.scaleEntry x y bank lane kb =
          if bank = o.bank.toNat ∧ lane = o.idx.toNat / 16 ∧ kb = o.idx.toNat % 16 then (s.sReg o.v).toNat else t.scaleEntry x y bank lane kb)
      ∧ { u.curTile with mxFree := t.mxFree, scl := t.scl } = t)
  ∧ (s.mayAct (.mstat p) = true → t.mxFree ≤ c → Gives (exec (.mstat p) s) fun u => OnlyTile s u ∧ u.curTile.mxFree = c + 1
      ∧ { u.curTile with mxFree := t.mxFree, s := t.s, acts := t.acts } = t
      ∧ Owes t u.curTile 1 (fun _ => c) fun _ a => ∀ (x y : Nat) (ev : FetchItem) (w : Tile), w.s = u.curTile.s →
          let b := w.perform x y ev a
          (∀ k i, c + 2 ≤ k ∨ i ≠ p.d.toNat → b.s32 k i = if i = p.d.toNat ∧ i ≠ 0 then w.mst.setWidth 32 else t.s32 k i)
          ∧ b.mst = (if p.clr then 0 else w.mst) ∧ { b with s := w.s, mst := w.mst } = w)

/-! Memory, fabric, copies, service (R364 to R387). -/

/-- R217 to R219, R223, R225 to R227, R366: of the writers of one cycle, each byte outside the plane region is that of the writer ranked first among those that write it, by its admitted elements, the highest element prevailing; a byte of two writers raises cause 0x82 with the lowest such address; a refused element raises each of its causes, once a beat. A word of the plane region changes in its next cell alone, by its rule: PRI takes each byte of the first-ranked writer of the latest cycle, ADD and SUM form the sum in sequence order with its flags, FAULT takes the first write and raises cause 0x80 for each later one; its written bit is set. That collisions in both memories raise one 0x82, with the pool's address, and that an element is refused by the part of its first byte are the model's choices (log 15). -/
def Obligations.CycleWrites : Prop := ∀ (t : Tile) (c : Nat),
  let causes : WReq → WrElem → List (Nat × Nat × Nat) := fun r e =>
    let at_ : Nat → Nat × Nat × Nat := fun k => (k, e.ba / 8, 0)
    if r.pool then (t.writeCauses c e.ba e.w).map at_
    else (if t.claimedAt (e.ba / 8 / 16384) c then [] else [(0x23, 0, e.ba / 8 / 16384)]) ++ if misaligned e.ba e.w then [at_ 0x28] else []
  let ok : WReq → List WrElem := fun r => r.els.filter fun e => (causes r e).isEmpty
  let shaped : WrElem → Prop := fun e => (e.w = 1 ∨ e.w = 4 ∨ e.w = 8 ∨ e.w = 16 ∨ e.w = 32) ∧ e.ba % min e.w 8 = 0
  let inPlane : WReq → WrElem → Prop := fun r e => r.pool = true ∧ t.partOf c (e.ba / 8) = .plane
  let won : WReq → Nat → Option WrElem := fun r k => (ok r).reverse.find? fun e => decide (e.ba ≤ k) && decide (k < e.ba + e.w)
  let bitOf : WReq → Nat → Option Bool := fun r k => (won r k).map fun e => bitAt e.val (k - e.ba)
  let touches : WReq → Nat → Bool := fun r x => (ok r).any fun e => decide (e.ba / 8 ≤ x) && decide (8 * x < e.ba + e.w)
  let ordered : List WReq → Prop := fun l => l.Pairwise fun p q => p.rank < q.rank ∨ p.rank = q.rank ∧ q.iss < p.iss
  let calm := t.seq.mode = .run ∧ t.pendc = [] ∧ t.dbg.getLsbD 0 = false
  let entry : Nat → Nat → PendCause := fun code xva => { cause := code, raise := c, xva := xva, sub := 0, src := 7, dfr := decide (1 ≤ t.tlvl c) }
  t.noReleased c →
  -- outside the plane region: one writer
  (∀ r : WReq, r.run = none → (∀ e ∈ r.els, shaped e ∧ ¬ inPlane r e) →
    let b := t.performWrites c [r]
    (∀ k, b.pool.bit k = ((if r.pool then bitOf r k else none).getD (t.pool.bit k)))
    ∧ (∀ k, b.opm.bit k = ((if r.pool then none else bitOf r k).getD (t.opm.bit k))))
  -- several
  ∧ (∀ reqs l : List WReq, reqs.Perm l → ordered l → (∀ r ∈ l, r.run = none ∧ ∀ e ∈ r.els, shaped e ∧ ¬ inPlane r e) →
    let b := t.performWrites c reqs
    let first : Bool → Nat → Option WReq := fun pool x => l.find? fun r => r.pool == pool && touches r x
    let shared : Bool → Nat → Prop := fun pool x => 2 ≤ (l.filter fun r => r.pool == pool && touches r x).length
    (∀ x, b.pool.get x = match first true x with | some r => (t.performWrites c [r]).pool.get x | none => t.pool.get x)
    ∧ (∀ x, b.opm.get x = match first false x with | some r => (t.performWrites c [r]).opm.get x | none => t.opm.get x)
    ∧ (calm → (∀ r ∈ l, r.pre = [] ∧ ok r = r.els) →
        (∀ pool x, shared pool x → (∀ y < x, ¬ shared pool y) → (pool = false → ∀ y, ¬ shared true y) → b.pendc = [entry 0x82 x])
        ∧ ((∀ pool x, ¬ shared pool x) → b.pendc = [])))
  -- refused elements
  ∧ (∀ (r : WReq) (before after : List WrElem) (e : WrElem) (k : Nat × Nat × Nat), r.run = none → r.pre = [] → r.els = before ++ e :: after → k ∈ causes r e →
    (∀ o ∈ before, ∀ k' ∈ causes r o, k'.1 ≠ k.1) → (∀ o ∈ r.els, inPlane r o → (t.ruleOf (t.planeWord (o.ba / 8))).1 ≠ 3) → calm →
      ∃ o ∈ (t.performWrites c [r]).pendc, o.cause = k.1 ∧ o.raise = c ∧ o.xva = k.2.1 ∧ o.sub = k.2.2 ∧ o.src = r.slot)
  -- the plane region
  ∧ (∀ reqs l : List WReq, reqs.Perm l → ordered l → (∀ r ∈ l, r.run = none ∧ ∀ e ∈ r.els, shaped e ∧ inPlane r e) → t.memWf = true → t.lay.pb % 4 = 0 → t.lay.pl % 4 = 0 →
    let b := t.performWrites c reqs
    let at_ : Nat → Nat := fun word => t.lay.pb + 4 * word
    let writers : Nat → List WReq := fun word => l.filter fun r => (List.range 4).any fun i => touches r (at_ word + i)
    let other : Nat → Nat := fun word => t.nextCell (at_ word)
    (b.opm = t.opm ∧ (∀ word, word ∈ b.wrt ↔ word ∈ t.wrt ∨ writers word ≠ []) ∧ b.sel = t.sel)
    ∧ (∀ x, (∀ word, writers word ≠ [] → x < other word ∨ other word + 4 ≤ x) → b.pool.get x = t.pool.get x)
    ∧ ∀ word, writers word ≠ [] →
      let rule := (t.ruleOf word).1
      let started := t.wrt.contains word
      let pres : Nat → Bool := fun k => t.pool.bit (8 * t.present (at_ word) + k)
      let now : Nat → Bool := fun k => t.pool.bit (8 * other word + k)
      let sole := ∀ r ∈ l, r.pre = [] ∧ ok r = r.els ∧ ∀ e ∈ r.els, e.fl = 0 ∧ t.planeWord (e.ba / 8) = word
      let refused := if started then (writers word).length else (writers word).length - 1
      let vals := (writers word).filterMap fun r => (won r (8 * at_ word)).map fun e => e.val % 2 ^ 32
      let add : Nat × Flags → Nat → Nat × Flags := fun acc v => if (t.ruleOf word).2 then ((fadd32 acc.1 v).1, acc.2 ||| (fadd32 acc.1 v).2) else ((acc.1 + v) % 2 ^ 32, acc.2)
      let terms := if started then t.pool.nat (other word) 4 :: vals else if rule = 1 then t.pool.nat (t.present (at_ word)) 4 :: vals else vals
      let sum := terms.tail.foldl add (terms.headD 0, 0)
      (rule = 0 → ∀ k < 32, b.pool.bit (8 * other word + k) =
        (((writers word).find? fun r => touches r (at_ word + k / 8)).bind fun r => bitOf r (8 * at_ word + k)).getD (if started then now k else pres k))
      ∧ (rule = 1 ∨ rule = 2 → b.pool.nat (other word) 4 = sum.1 ∧ (sole → FlagsAt t b c sum.2))
      ∧ (rule = 3 → ∀ k < 32, b.pool.bit (8 * other word + k) = if started then now k else (((writers word).head?).bind fun r => bitOf r (8 * at_ word + k)).getD (pres k))
      ∧ (calm → sole → b.pendc = if rule = 3 then List.replicate (min 4 refused) (entry 0x80 (at_ word)) else []))
  ∧ ∀ x y : Word, FpSum x y (fp32 (fadd32 x.toNat y.toNat))

/-- R364, R366, R368, R369: an active element out of bounds under TRAP raises cause 0x20 precisely, with the first such index. Else a vector load reads beat j at c + 2 + j; its active elements are available at c + 4 + j, an element out of bounds as zero or clamped; an element refused for 0x27 or 0x28 raises it imprecisely, once a beat, and keeps its contents, as do inactive elements, those from E on, every other register, and every byte of memory. A vector store writes beat j at c + 3 + j: its active elements that have an address, in ascending order, with their values read at c, bits [7:6] of a 6-bit format as zero. That an element is refused by the part of its first byte is the model's choice (log 15). -/
def Obligations.VectorMemory : Prop :=
  let outOf : State → Instr → BitVec 5 → Nat → (Nat → Bool) → Nat → (Nat → Int) → Prop := fun s i bn m on wr e =>
    ∀ k i0 i1, k < m → on k = true → s.curTile.placeLin (s.curTile.bufRec bn.toNat) (e k) = .trap i0 i1 → (∀ h < k, on h = true → (s.curTile.placeLin (s.curTile.bufRec bn.toNat) (e h)).traps = false) →
      Traps s i (0x20, bn.toNat * 2 ^ 48 + wrapN 24 i1 * 2 ^ 24 + wrapN 24 i0, wr)
  (∀ (s : State) (o : VMemOp) (x : VMemXOp),
    let t := s.curTile
    let c := s.cur.c
    let base : BitVec 5 → Int := fun r => (s.sReg r).toInt
    let ix : Nat → Nat := fun i => t.velem c 16 x.vi.toNat i
    let forms : List (Instr × Nat × BitVec 5 × Nat × BitVec 3 × (Nat → Int)) :=
      [(.vld o, o.v.toNat, o.bn, o.nb.toNat + 1, o.msk, fun i => base o.x + o.imm.toInt + i), (.vldb o, o.v.toNat, o.bn, o.nb.toNat + 1, o.msk, fun _ => base o.x + o.imm.toInt),
       (.vldx x, x.v.toNat, x.bn, x.nb.toNat + 1, x.msk, fun i => base x.x + ix i)]
    ∀ (i : Instr) (v : Nat) (bn : BitVec 5) (nb : Nat) (msk : BitVec 3) (e : Nat → Int), (i, v, bn, nb, msk, e) ∈ forms → s.mayAct i = true →
      let r := t.bufRec bn.toNat
      let n := 1024 / r.width
      (i = .vldx x ∨ i = .vstx x → nb * n ≤ 256) →
      let on : Nat → Bool := fun k => msk == 0 || bitAt (t.mreg c msk.toNat) k
      outOf s i bn (nb * n) on 0 e
      ∧ ((∀ k < nb * n, on k = true → (t.placeLin r (e k)).traps = false) → r.width ∈ [1, 4, 8, 16, 32] →
        Gives (exec i s) fun u => OnlyTile s u ∧ { u.curTile with vp := t.vp, acts := t.acts, clsAny := t.clsAny } = t
          ∧ (∀ k g b, b < 4 → k < c + 4 + b ∨ g ≠ v → u.curTile.vBeat k g b = t.vBeat k g b)
          ∧ (∀ k m, m < 4 * n → on m = false ∨ nb * n ≤ m → u.curTile.velem k r.width v m = t.velem k r.width v m)
          ∧ Owes t u.curTile nb (fun j => c + 2 + j) fun j a => ∀ (px py : Nat) (ev : FetchItem) (w : Tile), w.vp = u.curTile.vp →
              let refused : Nat → Nat → Nat → Prop := fun p ba cause => on (j * n + p) = true ∧ t.placeLin r (e (j * n + p)) = .at_ ba ∧ cause ∈ w.readCauses (c + 2 + j) ba r.width
              let b := w.perform px py ev a
              SameBytes w b ∧ (∀ g k m, m < 4 * n → g ≠ v ∨ m / n ≠ j → b.velem k r.width g m = w.velem k r.width g m)
                ∧ (∀ p < n, ∀ k, let m := j * n + p
                  (on m = true → (∀ ba x, ¬ refused p ba x) → c + 4 + j ≤ k → b.velem k r.width v m = match t.placeLin r (e m) with | .at_ ba => w.rdElem true ba r.width | _ => 0)
                  ∧ ((∀ o ∈ t.vp, o.iss = c → o.slot ≠ s.cur.slot) → (∃ ba x, refused p ba x) → b.velem k r.width v m = t.velem k r.width v m)
                  ∧ (on m = false → b.velem k r.width v m = w.velem k r.width v m))
                ∧ ∀ p < n, ∀ ba cause, refused p ba cause → (∀ q < p, ∀ ba', ¬ refused q ba' cause) → w.seq.mode = .run → w.pendc = [] →
                    ∃ o ∈ b.pendc, o.cause = cause ∧ o.raise = c + 2 + j ∧ o.xva = ba / 8 ∧ o.src = s.cur.slot))
  ∧ (∀ (s : State) (o : VMemOp) (x : VMemXOp),
    let t := s.curTile
    let c := s.cur.c
    let base : BitVec 5 → Int := fun r => (s.sReg r).toInt
    let ix : Nat → Nat := fun i => t.velem c 16 x.vi.toNat i
    let forms : List (Instr × Nat × BitVec 5 × Nat × BitVec 3 × (Nat → Int)) :=
      [(.vst o, o.v.toNat, o.bn, o.nb.toNat + 1, o.msk, fun i => base o.x + o.imm.toInt + i), (.vstx x, x.v.toNat, x.bn, x.nb.toNat + 1, x.msk, fun i => base x.x + ix i)]
    ∀ (i : Instr) (v : Nat) (bn : BitVec 5) (nb : Nat) (msk : BitVec 3) (e : Nat → Int), (i, v, bn, nb, msk, e) ∈ forms → s.mayAct i = true →
      let r := t.bufRec bn.toNat
      let n := 1024 / r.width
      (i = .vldx x ∨ i = .vstx x → nb * n ≤ 256) →
      let on : Nat → Bool := fun k => msk == 0 || bitAt (t.mreg c msk.toNat) k
      outOf s i bn (nb * n) on 1 e
      ∧ ((∀ k < nb * n, on k = true → (t.placeLin r (e k)).traps = false) → r.width ∈ [1, 4, 8, 16, 32] →
        Gives (exec i s) fun u => OnlyTile s u ∧ { u.curTile with acts := t.acts, clsAny := t.clsAny, clsWr := t.clsWr } = t
          ∧ Owes t u.curTile nb (fun j => c + 3 + j) fun j a => WriteOf a 2 true
              (((List.range n).map (j * n + ·)).filterMap fun m => if on m then (t.placeLin r (e m)).ba.map fun ba => ⟨ba, r.width, stored6 r.fmt (t.velem c r.width v m), 0⟩ else none)))

/-- R371, R372: an atomic on an admitted word reads it at c + 2 into its scalar, available at c + 3, and writes the new value on that cycle; a compare that fails writes nothing; out of bounds under ZERO the scalar is zero and no access is made, and under TRAP the word raises cause 0x20. On a word of the plane region or of a forbidden part it raises cause 0x27 on its perform cycle, at a misaligned address 0x28, both where both apply, and neither the word nor the scalar is written (R223, R366). That a misaligned word is judged by the part of its first byte is the model's choice (log 15). -/
def Obligations.Atomics : Prop := ∀ (s : State) (o : AtomOp),
  let t := s.curTile
  let c := s.cur.c
  let v := s.sReg o.v
  let r := t.bufRec o.bn.toNat
  let fp := r.fmt == 22
  let place := t.placeLin r ((s.sReg o.x).toInt + o.imm.toInt)
  let forms : List (Instr × (Word → Option Word × Flags)) :=
    [(.aadd o, fun old => if fp then (some (fpAdd old v).1, (fpAdd old v).2) else (some (old + v), 0)),
     (.amax o, fun old => if fp then (some (fpMinMax true old v).1, (fpMinMax true old v).2) else (some (if old.toInt < v.toInt then v else old), 0)),
     (.amin o, fun old => if fp then (some (fpMinMax false old v).1, (fpMinMax false old v).2) else (some (if old.toInt < v.toInt then old else v), 0)),
     (.axch o, fun _ => (some v, 0)), (.acas o, fun old => (if old = s.sReg o.s then some v else none, 0))]
  ∀ f ∈ forms, s.mayAct f.1 = true →
    (place = .zero → Gives (exec f.1 s) fun u => OnlyTile s u ∧ ScalarWritten t u.curTile o.s.toNat (c + 3) 0
      ∧ { u.curTile with s := t.s, clsAny := t.clsAny, clsWr := t.clsWr } = t)
    ∧ (∀ i0 i1, place = .trap i0 i1 → Traps s f.1 (0x20, o.bn.toNat * 2 ^ 48 + wrapN 24 i1 * 2 ^ 24 + wrapN 24 i0, 1))
    ∧ ∀ ba, place = .at_ ba → Gives (exec f.1 s) fun u => OnlyTile s u
      ∧ { u.curTile with s := t.s, acts := t.acts, clsAny := t.clsAny, clsWr := t.clsWr } = t
      ∧ Owes t u.curTile 1 (fun _ => c + 2) fun _ a => ∀ (px py : Nat) (ev : FetchItem) (w : Tile), w.s = u.curTile.s →
         let part := w.partOf (c + 2) (ba / 8)
         let refused : Nat → Prop := fun k => (k = 0x27 ∧ (part = .plane ∨ part.noRead = true ∨ part.noWrite = true)) ∨ (k = 0x28 ∧ ba / 8 % 4 ≠ 0)
         ((∃ k, refused k) → (∀ e ∈ t.s.pend, ¬ (e.iss = c ∧ e.slot = s.cur.slot ∧ e.idx = o.s.toNat)) →
          let b := w.perform px py ev a
          SameBytes w b ∧ b.acts = w.acts ∧ b.fp = w.fp ∧ (∀ k i, b.s32 k i = t.s32 k i)
          ∧ (w.seq.mode = .run → w.pendc.length < 3 → ∀ k, refused k → ∃ e ∈ b.pendc, e.cause = k ∧ e.raise = c + 2 ∧ e.xva = ba / 8))
         ∧ ((∀ k, ¬ refused k) →
          let old := BitVec.ofNat 32 (w.rdPool (ba / 8) 4)
          let b := w.perform px py ev a
          SameBytes w b
          ∧ (∀ k i, c + 3 ≤ k ∨ i ≠ o.s.toNat → b.s32 k i = if i = o.s.toNat ∧ i ≠ 0 then old else t.s32 k i)
          ∧ FlagsAt w b (c + 3) (f.2 old).2
          ∧ (match (f.2 old).1 with
            | none => b.acts = w.acts
            | some n => ∃ a', b.acts = w.acts ++ [a'] ∧ a'.at_ = c + 2 ∧ WriteOf a' 2 true [⟨8 * (ba / 8), 32, n.toNat, 0⟩]))

/-- R374, R375: a sending form puts beat j on the Local input at c + 1 + j, its data from registers at c, or from memory at c + j; a beat that finds the input taken is lost and recorded as 0x83, the others go; SENDM's first element out of bounds under TRAP raises cause 0x20. -/
def Obligations.Sends : Prop := ∀ (s : State) (o : SendOp) (p : SendsOp) (q : SendmOp),
  let t := s.curTile
  let c := s.cur.c
  let taken : Nat → Bool := fun j => t.localIn.contains (c + 1 + j)
  let sent : Nat → List Nat := fun nb => (List.range nb).filter fun j => !taken j
  let lost : Nat → List Nat := fun nb => ((List.range nb).filter taken).map (c + 1 + ·)
  let records : Act → Prop := fun a => a.k = .lost ∧ ∀ (px py : Nat) (ev : FetchItem) (w : Tile), (w.perform px py ev a).log = w.logged a.at_ 0xFFFFFFFF 0x83 6 0
  let word : Nat → BitVec 512 := fun j => BitVec.ofNat 512 ((t.vBeat c o.v.toNat (j / 2)).toNat / 2 ^ (512 * (j % 2)))
  let from_ : Instr → Nat → Nat → (Nat → BitVec 512) → Prop := fun i nb port data => s.mayAct i = true →
    Gives (exec i s) fun u => OnlyTile s u ∧ u.curTile.out = t.out ++ (sent nb).map (fun j => .inject (c + 1 + j) port ⟨data j, false⟩)
      ∧ u.curTile.localIn = t.localIn ++ (sent nb).map (fun j => c + 1 + j) ∧ { u.curTile with out := t.out, localIn := t.localIn, acts := t.acts } = t
      ∧ Owes t u.curTile (lost nb).length (fun k => (lost nb).getD k 0) fun _ a => records a
  from_ (.send o) (o.nb.toNat + 1) o.port.toNat word ∧ from_ (.sends p) 1 p.port.toNat (fun _ => (s.sReg p.s).setWidth 512)
  ∧ (let r := t.bufRec q.bn.toNat
     let n := 512 / r.width
     let nb := q.nb.toNat + 1
     let place : Nat → Place := fun i => t.placeLin r ((s.sReg q.x).toInt + q.imm.toInt + i)
     s.mayAct (.sendm q) = true → (∀ k i0 i1, k < nb * n → place k = .trap i0 i1 → (∀ h < k, (place h).traps = false) →
        Traps s (.sendm q) (0x20, q.bn.toNat * 2 ^ 48 + wrapN 24 i1 * 2 ^ 24 + wrapN 24 i0, 0))
     ∧ ((∀ i < nb * n, (place i).traps = false) → r.width ∈ [1, 4, 8, 16, 32] →
      Gives (exec (.sendm q) s) fun u => OnlyTile s u ∧ u.curTile.localIn = t.localIn ++ (sent nb).map (fun j => c + 1 + j)
        ∧ { u.curTile with acts := t.acts, localIn := t.localIn, clsAny := t.clsAny } = t
        ∧ ∃ l : List Act, u.curTile.acts = t.acts ++ l ∧ (l.filter (·.k == .lost)).map (·.at_) = lost nb ∧ (∀ a ∈ l, a.k = .lost → records a)
          ∧ (l.filter (·.k != .lost)).length = nb ∧ ∀ j a, (l.filter (·.k != .lost))[j]? = some a → a.at_ = c + j
          ∧ ∀ (px py : Nat) (ev : FetchItem) (w : Tile), w.upsets = [] →
            (∀ p < n, ∀ ba, place (j * n + p) = .at_ ba → w.readCauses (c + j) ba r.width = []) →
            SameBytes w (w.perform px py ev a) ∧ if taken j then (w.perform px py ev a).out = w.out else ∃ f : Flit, (w.perform px py ev a).out = w.out ++ [.inject (c + j + 1) q.port.toNat f] ∧ f.poison = false
              ∧ ∀ p < n, laneAt r.width f.data.toNat p = match place (j * n + p) with | .at_ ba => w.rdElem true ba r.width | _ => 0))

/-- R44, R376, R377: a receiving form claims beat j at c + j; a landed flit goes to the half of a register beat, the scalar or the elements that the form names, and one with POISON is recorded as 0x81 too; a void claim gives zeros, writes no memory, and raises cause 0x48; RECVM writes bits [7:6] of a 6-bit format as zero. -/
def Obligations.Receives : Prop := ∀ (s : State) (o : RecvOp) (p : RecvsOp) (q : RecvmOp),
  let t := s.curTile
  let c := s.cur.c
  let nb := o.nb.toNat + 1
  let got : Tile → Nat := fun w => match w.landing with | some l => l.flit.data.toNat | none => 0
  let claims : Tile → Tile → Nat → Prop := fun w b j => b.landing = none ∧ SameBytes w b
    ∧ (∀ l, w.landing = some l → b.pendc = w.pendc ∧ b.log = if l.flit.poison then w.logged (c + j) 0xFFFFFFFF 0x81 6 0 else w.log)
    ∧ (w.landing = none → w.seq.mode = .run → w.pendc.length < 4 → ∃ e ∈ b.pendc, e.cause = 0x48 ∧ e.raise = c + j)
  (s.mayAct (.recv o) = true → Gives (exec (.recv o) s) fun u => OnlyTile s u ∧ { u.curTile with vp := t.vp, acts := t.acts } = t
    ∧ (∀ k g b, b < 4 → k < c + 2 ∨ g ≠ o.v.toNat → u.curTile.vBeat k g b = t.vBeat k g b)
    ∧ Owes t u.curTile nb (fun j => c + j) fun j a => ∀ (px py : Nat) (ev : FetchItem) (w : Tile), w.vp = u.curTile.vp →
        let b := w.perform px py ev a
        claims w b j ∧ ∀ i k, (if i / 64 = j then c + (if j / 2 * 2 + 1 < nb then j / 2 * 2 + 3 else j + 2) ≤ k → b.velem k 8 o.v.toNat i = got w / 2 ^ (8 * (i % 64)) % 256
          else i < 256 → b.velem k 8 o.v.toNat i = w.velem k 8 o.v.toNat i))
  ∧ (s.mayAct (.recvs p) = true → Gives (exec (.recvs p) s) fun u => OnlyTile s u ∧ { u.curTile with s := t.s, acts := t.acts } = t
    ∧ Owes t u.curTile 1 (fun _ => c) fun _ a => ∀ (px py : Nat) (ev : FetchItem) (w : Tile), w.s = u.curTile.s →
        let b := w.perform px py ev a
        claims w b 0 ∧ ∀ k i, c + 2 ≤ k ∨ i ≠ p.s.toNat → b.s32 k i = if i = p.s.toNat ∧ i ≠ 0 then BitVec.ofNat 32 (got w / 2 ^ (32 * p.word.toNat)) else t.s32 k i)
  ∧ (let r := t.bufRec q.bn.toNat
     let n := 512 / r.width
     let place : Nat → Place := fun i => t.placeLin r ((s.sReg q.x).toInt + q.imm.toInt + i)
     s.mayAct (.recvm q) = true → (∀ i < (q.nb.toNat + 1) * n, (place i).traps = false) → r.width ∈ [1, 4, 8, 16, 32] →
      Gives (exec (.recvm q) s) fun u => OnlyTile s u ∧ { u.curTile with acts := t.acts, clsAny := t.clsAny, clsWr := t.clsWr } = t
        ∧ Owes t u.curTile (q.nb.toNat + 1) (fun j => c + j) fun j a => ∀ (px py : Nat) (ev : FetchItem) (w : Tile),
            let b := w.perform px py ev a
            claims w b j ∧ (match w.landing with
              | none => b.acts = w.acts
              | some l => ∃ a', b.acts = w.acts ++ [a'] ∧ a'.at_ = c + j + 2 ∧ WriteOf a' (8 + l.src) true
                  ((List.range n).filterMap fun p => (place (j * n + p)).ba.map fun ba => ⟨ba, r.width, stored6 r.fmt (laneAt r.width l.flit.data.toNat p), 0⟩)))

/-- R165, R181, R183, R378, R379: a copy takes its free channel for N beats and reads its first at c + 2; it completes at c + 4 + sg + N, which holds the next word of a CPYW, and one cycle later a CPYM's command issues; a channel in use raises cause 0x42. -/
def Obligations.CopyStarts : Prop := ∀ (s : State) (o : CpyOp),
  let t := s.curTile
  let c := s.cur.c
  let sr := t.seqRec o.q.toNat
  let n := (sr.levels.map (·.1)).foldl (· * ·) 1
  let st : Nat → Nat := fun k => (o.st.getLsbD k).toNat
  let done := c + 4 + (st 7 + 2 * st 6 + 4 * st 5 + 2 * st 4) + n
  let job : CopyJob := { c := c, s0 := (s.sReg o.s0).toInt, d0 := (s.sReg o.d0).toInt, g0 := (s.sReg o.g0).toInt, gate := o.st.getLsbD 7, cvt := o.st.getLsbD 6, xpose := o.st.getLsbD 5, scale := o.st.getLsbD 4, factor := if sr.ssrc < 4 then t.q32 c sr.ssrc else sr.sconst, src := t.bufRec sr.srec, dst := t.bufRec sr.drec, msk := t.bufRec sr.mrec, sr := sr, n := n, k := 0, cls := o.cls.toNat }
  let taken := match t.copies.getD o.ch.toNat none with | some j => decide (c < j.completion) | none => false
  let starts : Tile → Prop := fun b => b.copies = t.copies.set o.ch.toNat (some job) ∧ job.completion = done
    ∧ ∃ a l, b.acts = t.acts ++ a :: l ∧ a.at_ = c + 2 ∧ a.k = .copyBeat o.ch.toNat
  ∀ i ∈ [Instr.cpy o, .cpyg o, .cpyw o, .cpym o], s.mayAct i = true →
    (taken = true → Traps s i (0x42, 0, o.ch.toNat))
    ∧ (taken = false → Gives (exec i s) fun u => OnlyTile s u ∧ starts u.curTile
      ∧ { u.curTile with copies := t.copies, acts := t.acts, clsAny := t.clsAny, clsWr := t.clsWr, chains := t.chains, seq := t.seq } = t
      ∧ u.curTile.seq = (if i = .cpyw o then { t.seq with minDue := max t.seq.minDue done, waitTo := done, waitPc := some (s.cur.pc, s.cur.dly) } else t.seq)
      ∧ u.curTile.chains = (if i = .cpym o then t.chains ++ [(done + 1, o.ch.toNat, s.cur.mx)] else t.chains)
      ∧ (i = .cpym o → ∃ a ∈ u.curTile.acts, a.at_ = done + 1 ∧ ∃ f, a.k = .event f ∧ decodeItem f = .instr .chainedCommandIssue))

/-- R177, R181, R379: beat k of a copy reads its 32 source elements, and, unless its bitmap bit skips it, writes them at its write cycle, scaled, then converted; the next beat reads on the next cycle. An element whose source is refused, or that has no address, is not written; refused sources and bitmap bits raise their causes at the read, an element out of its destination's bounds cause 0x20 at the write. That an element is refused by the part of its first byte is the model's choice (log 15). -/
def Obligations.CopyBeats : Prop := ∀ (t : Tile) (a : Act) (ch : Nat) (j : CopyJob),
  let src : Nat → Place := fun e => t.placeLin j.src (j.s0 + (levelSteps j.sr.levels j.k).1 + (e : Int))
  let dst : Nat → Place := fun e => t.copyDst j (j.d0 + (levelSteps j.sr.levels j.k).2) e
  let gate : Place := t.placeLin j.msk (j.g0 + j.k)
  let outside : Nat → Int → Int → Nat := fun rec i0 i1 => rec * 2 ^ 48 + wrapN 24 i1 * 2 ^ 24 + wrapN 24 i0
  let refused : Nat → List (Nat × Nat) := fun e => match src e with
    | .at_ x => if j.src.space = 2 then (if misaligned x j.src.width then [(0x28, x / 8)] else []) else (t.readCauses a.at_ x j.src.width).map fun k => (k, x / 8)
    | .trap i0 i1 => [(0x20, outside j.sr.srec i0 i1)]
    | .zero => []
  let gateRefused : List (Nat × Nat) := if j.gate then (match gate with
    | .at_ x => (t.readCauses a.at_ x 1).map fun k => (k, x / 8)
    | .trap i0 i1 => [(0x20, outside j.sr.mrec i0 i1)]
    | .zero => []) else []
  let opened := j.gate = false ∨ ∃ x, gate = .at_ x ∧ t.readCauses a.at_ x 1 = [] ∧ t.rdElem true x 1 = 1
  let raw : Nat → Nat := fun e => match src e with | .at_ ba => t.rdElem (j.src.space != 2) ba j.src.width | _ => 0
  let product : Nat → Nat × Flags := fun e => fmtFP32.mulV (fmtVal j.src.fmt (raw e)) (fmtFP32.val j.factor)
  let value : Nat → Nat × Flags := fun e => match j.scale, j.cvt with
    | false, false => (stored6 j.src.fmt (raw e), 0)
    | false, true => fmtConvert j.dst.fmt (modeOf j.sr.rnd) (fmtVal j.src.fmt (raw e))
    | true, false => product e
    | true, true => let y := fmtConvert j.dst.fmt (modeOf j.sr.rnd) (fmtFP32.val (product e).1); (y.1, (product e).2 ||| y.2)
  let moved := (List.range 32).filter fun e => (refused e).isEmpty
  let b := t.performCopyBeat a ch
  t.copies.getD ch none = some j → ch < t.copies.length → a.at_ = j.c + 2 + j.k →
    b.copies = t.copies.set ch (some { j with k := j.k + 1 }) ∧ SameBytes t b
    ∧ (∃ l w, b.acts = t.acts ++ l ++ w
        ∧ (if j.k + 1 < j.n then ∃ x, l = [x] ∧ x.at_ = a.at_ + 1 ∧ x.k = .copyBeat ch else l = [])
        ∧ (¬ opened → w = [])
        ∧ (opened → ∃ x r, w = [x] ∧ x.at_ = j.c + 4 + j.sg + j.k ∧ x.k = .write r ∧ r.rank = 4 + ch ∧ r.pool = (j.dst.space != 2) ∧ r.run = none
            ∧ r.els = moved.filterMap (fun e => (dst e).ba.map fun ba => ⟨ba, j.dst.width, (value e).1, (value e).2⟩)
            ∧ (∀ e i0 i1, e ∈ moved → dst e = .trap i0 i1 → (∀ h < e, h ∈ moved → (dst h).traps = false) → r.pre = [(0x20, outside j.sr.drec i0 i1, 1)])
            ∧ ((∀ e ∈ moved, (dst e).traps = false) → r.pre = [])))
    ∧ (t.seq.mode = .run → t.pendc = [] → a.chk = false → t.dbg.getLsbD 1 = false →
        (∀ e < 32, ∀ k ∈ refused e, (∀ h < e, ∀ k' ∈ refused h, k'.1 ≠ k.1) → ∃ o ∈ b.pendc, o.cause = k.1 ∧ o.raise = a.at_ ∧ o.xva = k.2 ∧ o.sub = 0 ∧ o.src = 6)
        ∧ (∀ k ∈ gateRefused, ∃ o ∈ b.pendc, o.cause = k.1 ∧ o.raise = a.at_ ∧ o.xva = k.2 ∧ o.sub = 0 ∧ o.src = 6)
        ∧ ((∀ e < 32, refused e = []) → gateRefused = [] → t.upsets = [] → { b with copies := t.copies, acts := t.acts } = t))

/-- R228, R232, R383: FENCE lets no word issue before c + 1 + F + WAIT, and PMODE leaves a rule pending for its sub-region's next STEP. -/
def Obligations.FenceAndPlaneMode : Prop := ∀ (s : State) (o : FenceOp) (p : PmodeOp),
  let t := s.curTile
  let c := s.cur.c
  (s.mayAct (.fence o) = true → (t.chk c = true → ∀ k < 15, o.mask.getLsbD k = true → t.clsAny.getD k 0 ≤ c + 1 + o.f.toNat) →
    Gives (exec (.fence o) s) fun u => OnlyTile s u
      ∧ u.curTile = { t with seq := { t.seq with minDue := max t.seq.minDue (c + 1 + o.f.toNat + s.cur.wait), waitTo := c + 1 + o.f.toNat, waitPc := some (s.cur.pc, s.cur.dly) } })
  ∧ (s.mayAct (.fence o) = true → t.chk c = true → ∀ k < 15, o.mask.getLsbD k = true → c + 1 + o.f.toNat < t.clsAny.getD k 0 →
      (∀ j < k, o.mask.getLsbD j = true → t.clsAny.getD j 0 ≤ c + 1 + o.f.toNat) → Traps s (.fence o) (0x46, 0, k))
  ∧ (s.mayAct (.pmode p) = true → Gives (exec (.pmode p) s) fun u => OnlyTile s u ∧ { u.curTile with rules := t.rules } = t
      ∧ ∀ k, u.curTile.rules[k]? = (t.rules[k]?).map fun r => if k = p.sub.toNat then { r with next := some (p.rule.toNat, p.ety) } else r)

/-- R248, R384, R385, R387: SVSAVE, SVLOAD and SVMSG start a transfer; SVSAVE's 512 bytes are the save area with the values read at c, FPST with the flags set on that cycle; a transfer in progress raises cause 0x2A, an unaligned XSAVE cause 0x29. That SVMSG asks nothing of XSAVE is the model's choice (log 29). -/
def Obligations.ServiceStarts : Prop := ∀ (s : State) (o : SvOp) (m : SvmsgOp),
  let t := s.curTile
  let c := s.cur.c
  let va := (t.spr c 12).toNat
  let starts : Instr → (Service → Prop) → Prop := fun i q => Gives (exec i s) fun u => OnlyTile s u
    ∧ (∃ v, u.curTile.svc = some v ∧ v.c = c ∧ v.pc = s.cur.pc ∧ v.wait = s.cur.wait ∧ v.moved = 0 ∧ v.done = 0 ∧ v.failed = none ∧ q v)
    ∧ u.curTile.out = t.out ++ [.service] ∧ { u.curTile with svc := t.svc, out := t.out, seq := t.seq, acts := t.acts } = t
    ∧ (i ≠ .svsave o → u.curTile.acts = t.acts)
    ∧ u.curTile.seq = if i = .svmsg m then t.seq else { t.seq with waitPc := some (s.cur.pc, s.cur.dly) }
  let fields : List (Nat × Nat × Nat) :=
    (List.range 32).map (fun i => (4 * i, 4, (t.s32 c i).toNat)) ++ (List.range 4).map (fun i => (0x90 + 4 * i, 4, t.q32 c i))
      ++ (List.range 16).map (fun i => (0xA0 + 4 * i, 4, (t.spr c (32 + i)).toNat % 2 ^ 32))
      ++ [(0xE0, 4, (t.spr c 14).toNat % 2 ^ 32), (0xE4, 4, (t.spr c 15).toNat % 2 ^ 32), (0xE8, 8, (t.spr c 16).toNat), (0xF0, 4, (t.spr c 17).toNat % 2 ^ 32),
        (0xF4, 4, (t.spr c 18).toNat % 2 ^ 32), (0xF8, 4, (t.spr c 19).toNat % 2 ^ 32), (0xFC, 4, 0), (0x100, 8, (t.spr c 20).toNat),
        (0x108, 4, (t.spr c 21).toNat % 2 ^ 32), (0x10C, 4, (t.spr c 13).toNat % 2 ^ 32), (0x110, 4, (t.spr c 6).toNat % 2 ^ 32), (0x114, 4, (t.spr c 7).toNat % 2 ^ 32),
        (0x11C, 4, (t.spr c 9).toNat % 2 ^ 32), (0x120, 4, (t.spr c 26).toNat % 2 ^ 32), (0x124, 4, (t.spr c 11).toNat % 2 ^ 32),
        (0x128, 8, (t.spr c 12).toNat), (0x130, 8, t.gcy c % 2 ^ 64)]
  let loads := (Instr.svload o, (fun v : Service => v.kind = 1 ∧ v.va = va ∧ v.d = o.s.toNat ∧ v.total = 16))
  let saves := (Instr.svsave o, (fun v : Service => v.kind = 0 ∧ v.va = va ∧ v.d = o.s.toNat ∧ v.total = 16 ∧ v.bytes.length = 512
    ∧ (∀ f ∈ fields, leAt v.bytes f.1 f.2.1 = f.2.2) ∧ (∀ k < 8, (v.bytes.getD 0x80 0).getLsbD k = t.pr c k)
    ∧ ∀ k, (0x81 ≤ k ∧ k < 0x90) ∨ (0x138 ≤ k ∧ k < 0x200) → v.bytes[k]? = some 0))
  let sends := (Instr.svmsg m, (fun v : Service => v.kind = 2 ∧ v.total = 2 * (m.nb.toNat + 1) ∧ v.bytes.length = 64 * (m.nb.toNat + 1)
    ∧ ∀ i < 64 * (m.nb.toNat + 1), (v.bytes.getD i 0).toNat = t.velem c 8 m.v.toNat i))
  (s.mayAct (.svsave o) = true → va % 64 = 0 → t.svc = none → Gives (exec (.svsave o) s) fun u =>
      Owes t u.curTile 1 (fun _ => c) fun _ a => ∀ (x y : Nat) (ev : FetchItem) (w : Tile), w.svc = u.curTile.svc → ∃ v b, w.svc = some v ∧ b.length = 512
        ∧ w.perform x y ev a = { w with svc := some { v with bytes := b } } ∧ leAt b 0x118 4 = (w.fpstAt c).toNat % 2 ^ 32
        ∧ ∀ k, k < 0x118 ∨ 0x11C ≤ k → b[k]? = v.bytes[k]?)
  ∧ (∀ f ∈ [loads, saves], s.mayAct f.1 = true → (va % 64 = 0 → t.svc = none → starts f.1 f.2) ∧ (va % 64 ≠ 0 → Traps s f.1 (0x29, va, 0))
    ∧ (va % 64 = 0 → t.svc.isSome = true → Traps s f.1 (0x2A, 0, 0)))
  ∧ (s.mayAct (.svmsg m) = true → (t.svc = none → starts sends.1 sends.2) ∧ (t.svc.isSome = true → Traps s (.svmsg m) (0x2A, 0, 0)))
/-! Events of the module (R22 to R70, R94 to R131, R253 to R267). -/

/-- R22 to R28: at power-on the SHA-384 of every firmware image up to the first whose signature does not verify is extended from zero, and the module enters RECOVERY or SERVICE_ONLY, or awaits the wafer test; after the test START goes out with STAMP + 6, and the module is READY, a single newly failed tile being appended to the list, which is signed and measured again; or that tile is reported and the module is in SERVICE_ONLY. Firmware is installed in RECOVERY; a valid map empties the list and restarts the module, another leaves it as it is; the self-test exports an unsigned map with its failed tiles and trims, and leaves out field column 0 or 11 when a row there has two failed tiles and its links pass. The keys and images at reset, that the measured record of a map or a list takes in its signature, the module's state during the test, START and the report on a failure, an installation that restarts nothing, and the candidate map's serial number and SKU are the model's choices (logs 1, 9, 24, 31). -/
def Obligations.BootAndMaps : Prop := ∀ (s : State),
  let z : List Byte := List.replicate 48 0
  let good : FwImage → Bool := fun f => ecVerify s.vexKey f.image f.sig
  let verified := ∀ f ∈ s.fw, good f = true
  let listed : List RemapEntry → List Byte := fun l => leBytes 4 l.length ++ l.flatMap fun e => leBytes 1 e.fx ++ leBytes 1 e.fy ++ leBytes 1 e.prow ++ leBytes 1 e.col
  let usable := ∃ m, s.map = some m ∧ ecVerify s.vexKey m.bytes m.sig = true ∧ mapFieldsOk m.bytes = true
    ∧ ecVerify (EcKey.ofSecret s.devKey) (listed s.remap) s.remapSig = true ∧ remapValid m.bytes s.remap = true
  (s.fw.length = 5 → Gives (exec .powerOnReset s) fun t =>
    t.meas.length = 8 ∧ t.meas.getD 0 [] = sha384 (z ++ sha384 s.rom)
    ∧ (∀ k f, s.fw[k]? = some f → (∀ j < k, ∀ g, s.fw[j]? = some g → good g = true) → t.meas.getD (k + 1) [] = sha384 (z ++ sha384 f.image))
    ∧ (∀ k j g, k < 5 → j < k → s.fw[j]? = some g → good g = false → t.meas.getD (k + 1) [] = z)
    ∧ (¬ verified → t.mode = .recovery ∧ t.testing = false)
    ∧ (verified → (∀ m, s.map = some m → t.meas.getD 6 [] = sha384 (z ++ sha384 (m.bytes ++ m.sig))) ∧ (¬ usable → t.mode = .serviceOnly ∧ t.testing = false)
        ∧ (usable → t.mode = .reset ∧ t.testing = true ∧ t.meas.getD 7 [] = sha384 (z ++ sha384 (listed s.remap ++ s.remapSig))))
    ∧ t.vexKey = s.vexKey ∧ t.devKey = s.devKey ∧ t.rom = s.rom ∧ t.fw = s.fw ∧ t.map = s.map ∧ t.remap = s.remap ∧ t.remapSig = s.remapSig
    ∧ t.dram = s.dram ∧ t.ports = s.ports ∧ t.allow = s.allow ∧ t.mgmt = s.mgmt ∧ t.exported = s.exported
    ∧ t.tiles = [] ∧ t.sessions = [] ∧ t.launches = [] ∧ t.runs = [] ∧ t.now = 0 ∧ t.n = 64 ∧ t.agenda = [] ∧ t.fetch = []
    ∧ ∀ c < 16, (t.ctx c).opening = 0)
  ∧ (s.testing = true →
    (s.arg.n = [] → Gives (exec .builtInTestComplete s) fun t => t.mode = .ready ∧ t.testing = false ∧ FromMarkhor s t 4 0 ∧ EventOut s t 1
      ∧ { t with mode := s.mode, testing := s.testing, agenda := s.agenda, outbox := s.outbox } = s)
    ∧ ∀ e : RemapEntry, s.arg.n = [e.fx, e.fy, e.col, e.prow] → s.isNew e = true →
      (canAppend s.mapBytes s.remap e = true → Gives (exec .builtInTestComplete s) fun t => t.mode = .ready ∧ t.testing = false ∧ FromMarkhor s t 4 0 ∧ EventOut s t 1
        ∧ t.remap = s.remap ++ [e] ∧ t.remapSig = s.devSign (listed (s.remap ++ [e])) ∧ t.fv = s.fv + 1
        ∧ (s.meas.length = 8 → t.meas.getD 7 [] = sha384 (s.meas.getD 7 [] ++ sha384 (listed (s.remap ++ [e]) ++ t.remapSig)) ∧ ∀ k < 7, t.meas.getD k [] = s.meas.getD k [])
        ∧ { t with mode := s.mode, testing := s.testing, remap := s.remap, remapSig := s.remapSig, fv := s.fv, meas := s.meas, agenda := s.agenda, outbox := s.outbox } = s)
      ∧ (canAppend s.mapBytes s.remap e = false → Gives (exec .builtInTestComplete s) fun t => t.mode = .serviceOnly ∧ FromMarkhor s t 4 0 ∧ EventOut s t 1
        ∧ t.mgmt = s.mgmt ++ [.failed e] ∧ t.testing = false
        ∧ { t with mode := s.mode, testing := true, mgmt := s.mgmt, agenda := s.agenda, outbox := s.outbox } = s))
  ∧ (∀ (k : Nat) (f : FwImage), 1 ≤ k → k ≤ 5 → s.arg.nat 0 = k → s.arg.bytes = f.image ++ f.sig → f.sig.length = 96 → s.mode = .recovery →
      Gives (exec .firmwareInstall s) fun t => { t with fw := s.fw } = s ∧ ∀ j, t.fw[j]? = if j + 1 = k ∧ j < s.fw.length then some f else s.fw[j]?)
  ∧ (∀ m : DefectMap, s.arg.bytes = m.bytes ++ m.sig → m.bytes.length = 0x2B20 →
      let taken := (s.mode = .serviceOnly ∨ s.mode = .ready) ∧ ecVerify s.vexKey m.bytes m.sig = true ∧ mapFieldsOk m.bytes = true
      (taken → Gives (exec .mapInstall s) fun t =>
        exec .powerOnReset { s with map := some m, remap := [], remapSig := s.devSign (leBytes 4 0), fv := s.fv + 1 } = .next t)
      ∧ (¬ taken → Gives (exec .mapInstall s) fun t => t = s))
  ∧ (s.mode = .serviceOnly ∨ s.mode = .ready → Gives (exec .fullWaferSelfTest s) fun t => t = { s with fullTest := true })
  ∧ (s.fullTest = true → Gives (exec .fullWaferSelfTestComplete s) fun t => { t with fullTest := true, exported := s.exported } = s ∧ t.fullTest = false
      ∧ t.exported.length = 0x2B80 ∧ leAt t.exported 0 4 = 0x4D44574F ∧ leAt t.exported 4 2 = 1 ∧ leAt t.exported 0x2B20 96 = 0
      ∧ (∀ k, 8 ≤ k → k < 0x18 → t.exported.getD k 0 = s.mapBytes.getD k 0)
      ∧ (∀ k < 8712, t.exported.getD (0x918 + k) 0 = s.arg.bytes.getD k 0)
      ∧ (∀ w, s.arg.n = [w] → (∀ k, 0x18 ≤ k → k < 0x918 → t.exported.getD k 0 = 0x1F) ∧ leAt t.exported 6 1 = 0 ∧ leAt t.exported 7 1 = 0xFF)
      ∧ (∀ (w : Nat) (e : RemapEntry), s.arg.n = [w, e.fx, e.fy, e.col, e.prow] → e.fx < 12 → e.fy < 12 → e.prow < 16 → e.col ≤ 16 →
          leAt t.exported 6 1 = 0 ∧ leAt t.exported 7 1 = 0xFF
          ∧ ∀ k < 2304, t.exported.getD (0x18 + k) 0 = if k = (e.fy * 12 + e.fx) * 16 + e.prow then BitVec.ofNat 8 e.col else 0x1F)
      ∧ ∀ (w a b fx fy r : Nat), s.arg.n = [w, fx, fy, a, r, fx, fy, b, r] → a ≠ b → a ≤ 16 → b ≤ 16 → fy < 12 → r < 16 →
          ((fx = 0 ∧ w % 2 = 1) ∨ (fx = 11 ∧ w / 2 % 2 = 1) → leAt t.exported 6 1 = 1 ∧ leAt t.exported 7 1 = fx ∧ ∀ k < 2304, t.exported.getD (0x18 + k) 0 = 0x1F))

/-- R27, R31, R32, R47 to R50, R128: n changes by at most 4, between 32 and 64, at the next alignment point, and no change is pending where the limits leave n as it is; a rise waits for 64 alignment points under limit. A clock group is configured in a managed state of the module. A thermal emergency sends THERMAL and halts; recovery makes the module READY, or SERVICE_ONLY where nothing may be dispatched (log 31). A drift moves the tile's counter, a number of 64 bits, and its next exchange is due at its own next point, as is that of each neighbour present at the neighbour's, whichever point the drift has carried it past (R49). Which readings and which span of wall time an event stands for, the codes of the reports, that one asked for within the 12 cycles of an exchange waits for the next point, that n may rise at each point once 64 have passed, that a later request replaces the one that is pending, that a thermal emergency has no effect outside READY, and that an exchange is entered for a tile adrift and its neighbours are the model's choices (logs 11, 24, 26, 31). -/
def Obligations.ClockAndHeat : Prop := ∀ (s : State),
  let point := (s.now / 65536 + 1) * 65536
  -- n, or what the alignment point in progress makes of it
  let n := s.nDue.getD s.n
  let changes : Instr → (Int → Prop) → Nat → Prop := fun i want since => Gives (exec i s) fun t => KeepsDue s t ∧ t.overAt = since
    ∧ { t with nNext := s.nNext, overAt := s.overAt, agenda := s.agenda } = s
    ∧ ∃ k : Nat, 32 ≤ k ∧ k ≤ 64 ∧ ((k : Int) - n).natAbs ≤ 4 ∧ want k
      ∧ (k ≠ n → t.nNext = some (k, point) ∧ t.owes point .alignmentPoint []) ∧ (k = n → t.nNext = none ∧ t.agenda = s.agenda)
  let by_ := max 1 (s.arg.nat 0)
  (32 ≤ n ∧ n ≤ 64 →
    changes .clockLower (fun k => k = max 32 ((n : Int) - min 4 by_)) s.now
    ∧ (s.overAt / 65536 + 64 ≤ s.now / 65536 → s.nNext = none → changes .clockRaise (fun k => k = min 64 ((n : Int) + min 4 by_)) s.overAt)
    ∧ changes .clockGroupNChange (fun k => (32 ≤ s.arg.nat 0 ∧ s.arg.nat 0 ≤ 64 ∧ s.arg.nat 0 ≤ n + 4 ∧ n ≤ s.arg.nat 0 + 4 → k = s.arg.nat 0)) s.overAt)
  ∧ (s.mode ≠ .reset → s.mode ≠ .recovery → Gives (exec .clockGroupConfig s) fun t => t = { s with group := s.arg.nat 0, groupMembers := s.arg.n.drop 1 })
  ∧ (s.mode = .reset ∨ s.mode = .recovery → Gives (exec .clockGroupConfig s) fun t => t = s)
  ∧ (∀ a b : Int, (s.arg.nat 0 ≤ 1 ∧ a = if s.arg.nat 0 = 1 then -(s.arg.nat 1 : Int) else s.arg.nat 1) →
      (s.arg.nat 2 ≤ 1 ∧ b = if s.arg.nat 2 = 1 then -(s.arg.nat 3 : Int) else s.arg.nat 3) →
      Gives (exec .ptpMessage s) fun t => t.ptpOffset = a ∧ -10 ≤ t.ptpPpm ∧ t.ptpPpm ≤ 10 ∧ (b.natAbs ≤ 10 → t.ptpPpm = b)
        ∧ { t with ptpOffset := s.ptpOffset, ptpPpm := s.ptpPpm } = s)
  ∧ (s.mode = .ready → Gives (exec .thermalEmergency s) fun t => t.halted = true ∧ t.halts = s.halts ++ [⟨s.now, 0xA4, 3, 0, 0, 0, false⟩] ∧ FromMarkhor s t 3 0xA4
      ∧ { t with halted := s.halted, halts := s.halts, agenda := s.agenda } = s)
  ∧ (s.mode ≠ .ready → Gives (exec .thermalEmergency s) fun t => t = s)
  ∧ (s.mode = .thermalHalt → s.halts = [] → s.launches = [] → s.noDispatch = true → Gives (exec .thermalRecovery s) fun t => t.mode = .serviceOnly ∧ t.halted = false)
  ∧ (s.mode = .thermalHalt → s.halts = [] → s.launches = [] → s.noDispatch = false → Gives (exec .thermalRecovery s) fun t => t.mode = .ready ∧ t.halted = false ∧ Wakes s t ∧ EventOut s t 1
      ∧ { t with mode := s.mode, halted := s.halted, agenda := s.agenda, outbox := s.outbox } = s)
  ∧ (∀ (x y : Nat) (d : Int), s.arg.nat 0 = x → s.arg.nat 1 = y → s.arg.nat 2 ≤ 1 → d = (if s.arg.nat 2 = 1 then -(s.arg.nat 3 : Int) else s.arg.nat 3) → s.inGrid x y = true →
      (s.tile x y).seq.hold = .none → (s.tile x y).launch = none → (s.tile x y).align = none → Gives (exec .counterDrift s) fun t => KeepsDue s t
        ∧ TileBecomes s { t with agenda := s.agenda } x y { s.tile x y with gofs := ((s.tile x y).gofs + d).bmod (2 ^ 64) }
        ∧ (∀ c, (t.tile x y).gcy c = (((s.tile x y).gcy c : Int) + d) % 2 ^ 64)
        ∧ t.owesPoint x y ∧ ∀ d < 4, ∀ n, s.neighbour x y d = some n → t.owesPoint n.1 n.2)
/-- R27, R264, R267, R394: in RESET and RECOVERY nothing is written, and in every other state (SERVICE_ONLY and THERMAL_HALT included) debug writes, stops and resumes are taken: which states take them is the model's choice (log 31), since R27 names the host's commands. There Markhor's writes of a tile's debug unit are messages over Distaff, one payload in each slot of the tile, and the last payload writes the word, the filter or the ring; a stop leaves the 32-byte record and a log entry of KIND 7 and ends the requests that have come by its cycle, while later ones stay, and a resume issues the recorded word; an upset flips bits of a pool word, once every vector result that is available has reached it, and marks it. That the three writes are messages, that requests for a stop and a resume reach the tile at once, and that a ring that is written is no longer held are the model's choices (logs 10, 33), and so is CAUSE 0 in the log entry (log 15). -/
def Obligations.DebugUnit : Prop := ∀ (s : State) (x y : Nat),
  let t := s.tile x y
  let c := s.now
  let v := s.arg.nat 3
  s.arg.nat 0 = x → s.arg.nat 1 = y →
  let closed := s.mode = .reset ∨ s.mode = .recovery
  (closed → Gives (exec .debugControlWrite s) fun u => u = s)
  ∧ (s.inGrid x y = true → ¬ closed →
    (∀ (k : Nat) (bytes : List Byte), s.arg.nat 2 = k → (k = 0 ∧ bytes = leBytes 4 v) ∨ (k = 1 ∧ bytes = leBytes 512 v) ∨ (k = 2 ∧ bytes = s.arg.bytes ∧ bytes.length = 4096) →
      Gives (exec .debugControlWrite s) fun u => KeepsDue s u ∧ TileBecomes s { u with agenda := s.agenda } x y { t with svcIn := t.svcIn ++ [⟨k, bytes, 0⟩] }
        ∧ ∃ a, c < a ∧ a ≤ c + 288 ∧ a % 288 = x % 16 + 16 * (y % 16) ∧ u.owes a .distaffDownstreamPayload [x, y])
    ∧ (s.arg.nat 2 = 3 → Gives (exec .debugControlWrite s) fun u => TileBecomes s u x y { t with stopReq := t.stopReq ++ [c] })
    ∧ (s.arg.nat 2 = 4 → t.seq.mode = .debug → Gives (exec .debugControlWrite s) fun u => KeepsDue s u ∧ u.owes (max c (t.cycleOf v)) .debugResume [x, y] ∧ { u with agenda := s.agenda } = s))
  ∧ (∀ (m : SvcIn) (r : List SvcIn), t.svcIn = m :: r → c % 288 = x % 16 + 16 * (y % 16) → (∀ d, t.downAt = some d → d.1 ≠ c) → t.svc = none →
      (∀ l ∈ s.launches, l.holds x y → l.phase ≠ .staged ∧ l.phase ≠ .fixed) →
      let n := (m.bytes.length + 31) / 32
      Gives (exec .distaffDownstreamPayload s) fun u => ∃ (b : Tile) (p : Payload), KeepsDue s u ∧ TileBecomes s { u with agenda := s.agenda } x y b ∧ b.downAt = some (c, p)
        ∧ p.side = BitVec.ofNat 8 (0xC0 + (if m.moved = 0 then 0x20 else 0) + (if m.moved + 1 = n then 0x10 else 0)) ∧ p.data.length = 32
        ∧ (∀ i < 32, p.data.getD i 0 = m.bytes.getD (32 * m.moved + i) 0)
        ∧ (m.moved + 1 < n → u.owes (c + 288) .distaffDownstreamPayload [x, y] ∧ { b with downAt := t.downAt } = { t with svcIn := { m with moved := m.moved + 1 } :: r })
        ∧ (n ≤ m.moved + 1 →
          (∀ w : Nat, m.kind = 0 → m.bytes = leBytes 4 w → { b with downAt := t.downAt } = { t with svcIn := r, dbg := BitVec.ofNat 32 w &&& 0xFFFF000F })
          ∧ (∀ w : Nat, m.kind = 1 → m.bytes = leBytes 512 w → { b with downAt := t.downAt } = { t with svcIn := r, filt := BitVec.ofNat 4096 w })
          ∧ (m.kind = 2 → m.bytes.length = 4096 → { b with downAt := t.downAt, ring := t.ring } = { t with svcIn := r, captureTo := none }
              ∧ b.ring.length = 256 ∧ ∀ k < 256, b.ring[k]? = some (slice m.bytes (16 * k) 16))))
  ∧ (t.seq.mode = .run → t.seq.due = none → t.seq.hold = .none → (∃ r ∈ t.stopReq, r ≤ c) → Gives (exec .debugStop s) fun u =>
      let b := u.tile x y
      TileBecomes s u x y b ∧ b.seq = { t.seq with mode := .debug } ∧ b.stopReq = t.stopReq.filter (fun r => decide (c < r)) ∧ b.stopAt = some c
      ∧ (∃ r : List Byte, b.stopRec = t.stopRec ++ [r] ∧ r.length = 32 ∧ leAt r 0 8 = t.gcy c % 2 ^ 64 ∧ leAt r 8 4 = t.seq.pc % 2 ^ 32
          ∧ (∀ k < 8, (r.getD 12 0).getLsbD k = t.pr c k) ∧ leAt r 13 1 = t.tlvl c % 256 ∧ leAt r 14 2 = 0 ∧ ∀ k < 4, leAt r (16 + 4 * k) 4 = (t.spr c (40 + k)).toNat % 2 ^ 32)
      ∧ b.log = t.logged c t.seq.pc 0 7 0 ∧ b.logCount = t.logCount + 1 ∧ b.stopSlot = (if t.log.length < 32 then some t.log.length else none)
      ∧ { b with seq := t.seq, stopReq := t.stopReq, stopAt := t.stopAt, stopSlot := t.stopSlot, stopRec := t.stopRec, log := t.log, logCount := t.logCount } = t)
  ∧ (∀ b, t.stopAt = some b → t.seq.mode = .debug → Gives (exec .debugResume s) fun u =>
      let r := u.tile x y
      TileBecomes s u x y r ∧ r.seq = { t.seq with mode := .run, due := some c } ∧ r.stopAt = none ∧ r.stopSlot = none ∧ r.log.length = t.log.length ∧ r.logLost = t.logLost + min (c - b) 0xFFFFFFFF
      ∧ (∀ (k : Nat) (e : DevEntry), t.log[k]? = some e → r.log[k]? = some (if t.stopSlot = some k then { e with lost := min (c - b) 0xFFFFFFFF } else e))
      ∧ { r with seq := t.seq, stopAt := t.stopAt, stopSlot := t.stopSlot, log := t.log, logLost := t.logLost } = t)
  ∧ (∀ a, s.arg.nat 2 / 4 * 4 = a → a < 0x200000 → t.pool.wf = true → Gives (exec .poolSramUpset s) fun u =>
      let b := u.tile x y
      let r := t.flushV c
      TileBecomes s u x y b ∧ (∀ w, w ∈ b.upsets ↔ w = a ∨ w ∈ r.upsets) ∧ { b with pool := r.pool, upsets := r.upsets } = r
      ∧ ∀ k, b.pool.get k = if a ≤ k ∧ k < a + 4 then r.pool.get k ^^^ BitVec.ofNat 8 (v / 2 ^ (8 * (k - a))) else r.pool.get k)
  ∧ ((∀ e ∈ t.vp, c < e.avail) → (t.flushV c).pool = t.pool ∧ (t.flushV c).upsets = t.upsets ∧ (t.flushV c).vp = t.vp)
  ∧ (∀ e, t.vp = [e] → e.avail ≤ c → t.released e = false → t.pool.wf = true → (t.flushV c).vp = []
      ∧ ∀ k, (t.flushV c).pool.bit k = if 8 * t.lay.vb + 1024 * e.idx ≤ k ∧ k < 8 * t.lay.vb + 1024 * e.idx + 1024 ∧ e.mask.getLsbD (k - (8 * t.lay.vb + 1024 * e.idx)) = true
          then e.val.getLsbD (k - (8 * t.lay.vb + 1024 * e.idx)) else t.pool.bit k)

/-- R94, R95: a port answers ARP and Neighbor Discovery for its own address with its MAC address, and ICMP echo with the payload, with the request's own VLAN tag (a choice of the model, log 34), and no other frame; a frame with a UDP payload that is no packet is counted on its port, whatever its event; a port's addresses and the ADMIN allow-list are installed over the management port, in the states that log 31 chooses. -/
def Obligations.PortAnswers : Prop := ∀ (s : State) (p : Nat),
  let me := s.port p
  let b := s.arg.bytes
  let own := s.arg.nat 6
  let answers : Instr → TxKind → List Byte → Prop := fun i k bytes => Gives (exec i s) fun t => { t with tx := s.tx } = s
    ∧ ∃ q : TxPkt, t.tx = s.tx ++ [q] ∧ q.port = p ∧ q.kind = k ∧ q.src = own ∧ q.addr = s.arg.nat 5 ∧ q.vlan = s.arg.n[10]? ∧ q.bytes = bytes
  let silent : Instr → Prop := fun i => Gives (exec i s) fun t => t = s
  let asked := s.arg.nat 0 = p ∧ p < 2 ∧ s.arg.nat 1 ≤ 9216
  let whole := ¬ (s.arg.nat 2 = 4 ∧ s.arg.nat 4 = 1)
  let ip := if s.arg.nat 2 = 4 then me.ip4 else me.ip6
  let managed := s.mode ≠ .reset ∧ s.mode ≠ .recovery
  let wrong := leAt b 0 2 ≠ 0xC4A7 ∨ leAt b 2 1 ≠ 1 ∨ 4 ≤ leAt b 0x1A 1 ∨ leAt b 0x1B 1 ≠ 0 ∨ leAt b 0x1C 4 ≠ crc32c (b.take 28 ++ [0, 0, 0, 0] ++ (b.drop 32).take (leAt b 0x18 2))
  (asked → (own = me.ip4 → answers .arpRequest .arp (leBytes 6 me.mac)) ∧ (own = me.ip6 → answers .neighborDiscovery .nd (leBytes 6 me.mac))
    ∧ (own = ip → whole → answers .icmpEcho .echo b))
  ∧ (s.arg.nat 0 = p → (own ≠ me.ip4 → silent .arpRequest) ∧ (own ≠ me.ip6 → silent .neighborDiscovery) ∧ (own ≠ ip ∨ ¬ whole → silent .icmpEcho))
  ∧ (¬ (s.arg.nat 0 < 2 ∧ s.arg.nat 1 ≤ 9216) → silent .arpRequest ∧ silent .neighborDiscovery ∧ silent .icmpEcho)
  ∧ (s.udpComes p own (s.arg.nat 5) (s.arg.nat 7) → wrong → ∀ i ∈ [Instr.discardedPacket, .data, .ack, .probe, .openS, .close], Gives (exec i s) fun t => { t with ports := s.ports } = s
      ∧ ∀ q, t.ports[q]? = (s.ports[q]?).map fun h => if q = p then { h with discards := h.discards + 1 } else h)
  ∧ (managed → s.arg.nat 0 = p → Gives (exec .portAddressConfig s) fun t => { t with ports := s.ports } = s
        ∧ ∀ q, t.ports[q]? = (s.ports[q]?).map fun h => if q = p then { h with mac := s.arg.nat 1, ip4 := s.arg.nat 2, ip6 := s.arg.nat 3 } else h)
  ∧ (managed → Gives (exec .allowListInstall s) fun t => t = { s with allow := s.arg.n })
  ∧ (¬ managed → silent .portAddressConfig ∧ silent .allowListInstall)

/-- R27, R28, R94 to R106, R108: OPEN is refused with its code or opens a session with the next id, bound to the addresses and the UDP port that it came with; a DATA packet in order extends the message, one ahead is held until its turn, an old one is acknowledged again, and the 16th in order is acknowledged at once; the last packet of a message makes its command: one too short to parse, one that breaks its form, one that the module's state, the context, the role or the tags turn away is refused with its code, one with a failed dependence ends DEP_FAILED, a queued one joins the tail of its queue unless 256 wait there, and an immediate one acts next; ACK frees what it covers; PROBE and the acknowledgement timer send an ACK; a packet from elsewhere does nothing; the retransmission timer sends a packet again, up to 12 times; CLOSE, a lost packet and an idle second end the session. The order of the codes of OPEN_FAIL, that of a command's refusals, which CTX and TAG a command that cannot be parsed is given, that the refusal of a command which names a context of another session goes to its sender, which packets the counter of R124 counts, that a ROLE above 1 is refused as a role, that the commands with CTX 0xFF of all sessions share one space of tags, and that a subscription to CTX 0xFF copies every session's notifications under it are the model's choices (log 22), and so are the checksums that the rules only name (log 34). -/
def Obligations.Sessions : Prop :=
  (∀ (s : State) (port own addr udp role : Nat) (p : Packet), s.packetComes port own addr udp 0x03 p → leAt p.bytes 0 1 = role → leAt p.bytes 1 3 = 0 →
    let e : Session := { sid := s.nextSid, port := port, own := own, addr := addr, udp := udp, vlan := s.arg.n[10]?, admin := role = 1, rxNext := 0, held := [], unacked := 0, msg := none, skip := false, txNext := 0, out := [], wait := [], subs := [] }
    let state := s.mode = .reset ∨ s.mode = .recovery
    let unfit := 1 < role ∨ (role = 1 ∧ addr ∉ s.allow)
    let fails : Nat → Prop := fun k => Gives (exec .openS s) fun t => PacketCounted s t port ∧ SendsPacket s t e 0x05 (fun p => p.sid = 0 ∧ p.bytes = [BitVec.ofNat 8 k])
      ∧ { t with ports := s.ports, tx := s.tx } = s
    (state → fails 3) ∧ (¬ state → unfit → fails 2) ∧ (¬ state → ¬ unfit → 64 ≤ s.sessions.length → fails 1)
    ∧ (¬ state → ¬ unfit → s.sessions.length < 64 → Gives (exec .openS s) fun t => t.sessions = s.sessions ++ [e] ∧ t.nextSid = s.nextSid + 1 ∧ PacketCounted s t port
        ∧ SendsPacket s t e 0x04 (fun p => p.sid = s.nextSid ∧ p.bytes = []) ∧ { t with sessions := s.sessions, nextSid := s.nextSid, ports := s.ports, tx := s.tx } = s))
  ∧ ∀ (s : State) (e : Session), s.session e.sid = some e →
    let only : State → Prop := fun t => { t with sessions := s.sessions, ports := s.ports, tx := s.tx } = s
    let owner := ∃ c < 16, s.isOpen c = true ∧ (s.ctx c).owner = e.sid
    let ends : State → Prop := fun t => t.sessions = s.sessions.filter (fun o => o.sid != e.sid)
    (∀ (p : Packet), p.sid = e.sid →
      let d := (p.seq + 2 ^ 32 - e.rxNext) % 2 ^ 32
      let on : Instr → Nat → (State → Prop) → Prop := fun i typ q => s.packetComes e.port e.own e.addr e.udp typ p → Gives (exec i s) fun t => PacketCounted s t e.port ∧ q t
      let acks : Session → State → Prop := fun n t => SendsPacket s t n 0x02 fun q => q.sid = e.sid ∧ q.bytes = []
      let next : Session := { e with rxNext := (e.rxNext + 1) % 2 ^ 32, msg := some p.bytes, skip := false }
      (e.out = [] → e.wait = [] →
        (d = 0 → e.msg = none → e.held = [] → p.first = true → p.last = false →
          (e.unacked < 15 → on .data 0x01 fun t => only t ∧ t.tx = s.tx ∧ SessionBecomes s t { next with unacked := e.unacked + 1 })
          ∧ (15 ≤ e.unacked → on .data 0x01 fun t => only t ∧ acks next t ∧ SessionBecomes s t { next with unacked := 0 }))
        -- a message is complete
        ∧ (∀ (m : List Byte), d = 0 → e.held = [] → e.unacked < 15 → p.last = true → m.length ≤ 2 ^ 24 + 4096 → s.contexts.length = 16 →
            (p.first = true ∧ e.msg = none ∧ m = p.bytes) ∨ (p.first = false ∧ e.skip = false ∧ ∃ a, e.msg = some a ∧ m = a ++ p.bytes) →
            let q := commandOf e.sid m
            let k := s.ctx q.ctx
            let gives : (State → Prop) → Prop := fun r => on .data 0x01 fun t => t.tx = s.tx ∧ SessionBecomes s t { next with msg := none, unacked := e.unacked + 1 } ∧ r t
            let frame : State → Prop := fun t => { t with sessions := s.sessions, ports := s.ports, outbox := s.outbox, agenda := s.agenda, contexts := s.contexts, fetch := s.fetch } = s
            let refused : Nat → Nat → Nat → Nat → Prop := fun status ctx queue tag => gives fun t => Notifies s t ⟨0x82, ctx, queue, status, 0, tag, 0, 0⟩ (some e.sid) (s.faultBytes {})
              ∧ { t with sessions := s.sessions, ports := s.ports, outbox := s.outbox } = s
            let no : Nat → Prop := fun status => refused status q.ctx q.queue q.tag
            let service := q.kind ∈ [1, 3, 4, 5, 6, 7, 8, 9, 11]
            let works := s.mode = .ready ∨ (s.mode = .thermalHalt ∧ ¬ (q.kind ∈ [4, 5] ∧ q.ctx = 0xFF)) ∨ (s.mode ≠ .ready ∧ s.mode ≠ .thermalHalt ∧ ¬ service)
            let mine := q.ctx = 0xFF ∨ (q.kind = 1 ∧ k.opening = 0) ∨ (q.kind ≠ 1 ∧ k.opening ≠ 0 ∧ k.closing = false ∧ (k.owner = e.sid ∨ (q.kind = 15 ∧ e.admin = true)))
            let kept : Nat → Option Nat := fun tag => (k.kept.find? fun u => u.1 == tag).map (·.2)
            let named := s.pending q.ctx q.tag = false ∧ ∀ a ∈ q.deps, s.pending q.ctx a = true ∨ (kept a).isSome = true
            let failed := ∃ a ∈ q.deps, s.pending q.ctx a = false ∧ kept a ≠ some 0
            (m.length < 32 → refused 0x13 0xFF 0 0)
            ∧ (32 ≤ m.length → ¬ WellFormedCommand m → no 0x13)
            ∧ (WellFormedCommand m →
              (¬ works → no 0x12)
              ∧ (works → q.ctx < 16 → (q.kind = 1 ∧ k.opening ≠ 0) ∨ (q.kind ≠ 1 ∧ (k.opening = 0 ∨ k.closing = true ∨ (k.owner ≠ e.sid ∧ q.kind ≠ 15))) → no 0x14)
              ∧ (works → q.ctx < 16 → q.kind = 15 → k.opening ≠ 0 → k.closing = false → k.owner ≠ e.sid → e.admin = false → no 0x1A)
              ∧ (works → mine → ¬ named → no 0x15)
              ∧ (works → mine → named → q.queued →
                (failed → (∀ o ∈ k.queues.flatMap id, q.tag ∉ o.deps) → gives fun t => frame t ∧ t.fetch = s.fetch ∧ Completes s t q 4 0 0 [] ∧ ContextBecomes s t q.ctx (k.keeps q.tag 4))
                ∧ (¬ failed → 256 ≤ (k.queues.getD q.queue []).length → no 0x16)
                ∧ (¬ failed → (k.queues.getD q.queue []).length < 256 → gives fun t => frame t ∧ t.fetch = s.fetch ∧ t.outbox = s.outbox ∧ Wakes s t
                    ∧ ContextBecomes s t q.ctx { k with queues := k.queues.modify q.queue (· ++ [{ q with deps := q.deps.filter fun a => s.pending q.ctx a }]) }))
              ∧ (∀ i, works → mine → named → ¬ q.queued →
                (q.kind, i) ∈ [(1, Instr.openContext), (2, .closeContext), (4, .writeDram), (5, .readDram), (10, .cancel), (12, .preempt), (13, .query), (14, .attest), (15, .subscribe)] →
                gives fun t => frame t ∧ t.outbox = s.outbox ∧ t.agenda = s.agenda ∧ t.contexts = s.contexts ∧ t.fetch = s.fetch ++ [eventItem (encode i).bits ⟨[e.sid, q.ctx, q.queue, q.tag], q.body⟩])))
        ∧ (1 ≤ d → d ≤ 64 → e.held = [] → e.unacked < 15 → on .data 0x01 fun t => only t ∧ t.tx = s.tx
            ∧ SessionBecomes s t { e with held := [⟨p.seq, p.first, p.last, p.bytes, 0⟩], unacked := e.unacked + 1 })
        ∧ (2 ^ 31 ≤ d → on .data 0x01 fun t => only t ∧ acks e t ∧ SessionBecomes s t { e with unacked := 0 })
        ∧ (on .probe 0x07 fun t => only t ∧ acks e t ∧ SessionBecomes s t { e with unacked := 0 })
        ∧ (¬ owner → on .close 0x06 fun t => only t ∧ t.tx = s.tx ∧ ends t))
      ∧ (e.wait = [] → on .ack 0x02 fun t => only t ∧ t.tx = s.tx ∧ ∃ l, SessionBecomes s t { e with out := l }
          ∧ ∀ q, q ∈ l ↔ q ∈ e.out ∧ (let k := (q.seq + 2 ^ 32 - p.ack) % 2 ^ 32; k < 2 ^ 31 ∧ (1 ≤ k → k ≤ 64 → p.sack / 2 ^ (k - 1) % 2 = 0)))
      ∧ (∀ port own addr udp typ, (port, own, addr, udp) ≠ (e.port, e.own, e.addr, e.udp) → s.packetComes port own addr udp typ p →
          ∀ i ∈ [(Instr.data, 1), (.ack, 2), (.close, 6), (.probe, 7)], typ = i.2 → Gives (exec i.1 s) fun t => t = s))
    ∧ (∀ q : DataPkt, s.arg.n = [e.sid, q.seq] → e.held = [q] → q.seq = e.rxNext → q.first = true → q.last = false → e.msg = none → q.bytes.length ≤ 8192 →
        Gives (exec .data s) fun t => only t ∧ t.ports = s.ports ∧ t.tx = s.tx
          ∧ SessionBecomes s t { e with held := [], rxNext := (e.rxNext + 1) % 2 ^ 32, msg := some q.bytes, skip := false })
    ∧ (s.arg.nat 0 = e.sid →
      (0 < e.unacked → Gives (exec .ackTimerExpiry s) fun t => only t ∧ t.ports = s.ports ∧ SendsPacket s t e 0x02 (fun p => p.sid = e.sid ∧ p.bytes = []) ∧ SessionBecomes s t { e with unacked := 0 })
      ∧ (¬ owner → Gives (exec .sessionIdleTimeout s) fun t => only t ∧ t.ports = s.ports ∧ t.tx = s.tx ∧ ends t)
      ∧ ∀ p ∈ e.out, p.seq = s.arg.nat 1 → (∀ q ∈ e.out, q.seq = p.seq → q = p) →
        (p.retries < 12 → Gives (exec .retransmitTimerExpiry s) fun t => only t
          ∧ SendsPacket s t e 0x01 (fun q => q.sid = e.sid ∧ q.seq = p.seq ∧ q.first = p.first ∧ q.last = p.last ∧ q.bytes = p.bytes)
          ∧ (∀ q, t.ports[q]? = (s.ports[q]?).map fun h => if q = e.port then { h with retrans := h.retrans + 1 } else h)
          ∧ SessionBecomes s t { e with unacked := 0, out := e.out.map fun q => if q.seq = p.seq then { q with retries := q.retries + 1 } else q })
        ∧ (12 ≤ p.retries → ¬ owner → Gives (exec .retransmitTimerExpiry s) fun t => only t ∧ t.ports = s.ports ∧ t.tx = s.tx ∧ ends t))
/-- R105, R114, R118 to R121, R124 to R126: OPEN_CONTEXT, CLOSE_CONTEXT, SET_DETERMINISM, CANCEL, PREEMPT, QUERY, ATTEST and SUBSCRIBE in a context that lets them act: each has its effect and ends DONE with one notification, and CANCEL and PREEMPT that find no target end NO_EFFECT; a running launch that CANCEL or CLOSE_CONTEXT meets is to stop at its first boundary from 48 cycles on, one that has not started ends at once, a run drops what is not dispatched and its running nodes are killed, and the context closes with the last of what it ran; the bodies of QUERY's replies; SUBSCRIBE to a context that another session owns takes an ADMIN; an ATTEST that came over the management port is answered there (session 0 names that port: log 31). What ATTEST and QUERY give of a part with no map installed is the model's choice (log 31). That a PREEMPT under a pending halt counts its own stop as a boundary is the model's reading (log 33); the widths of QUERY's replies are its choice (log 10); so are which TSTART a resumed launch reports there, that a closed context keeps no final statuses, that subscriptions to it stay, that a pre-empted launch which waits in its queue ends CLOSED with its context, that SUBSCRIBE's final notification goes to its sender where another session owns the context, and what a subscription to CTX 0xFF copies (log 22). -/
def Obligations.ContextCommands : Prop := ∀ (s : State),
  let cmd : Nat → Cmd := fun kind => { sess := s.arg.nat 0, ctx := s.arg.nat 1, queue := s.arg.nat 2, kind := kind, tag := s.arg.nat 3, deps := s.arg.n.drop 4, body := s.arg.bytes, resume := none }
  let c := s.arg.nat 1
  let b := s.arg.bytes
  let tag := s.arg.nat 3
  let k := s.ctx c
  let quiet : State → Prop := fun t => { t with outbox := s.outbox, agenda := s.agenda, contexts := s.contexts } = s
  (s.contexts.length = 16 → c < 16 →
    (k.opening = 0 → k.closing = false → Gives (exec .openContext s) fun t => Completes s t (cmd 1) 0 0 0 [] ∧ t.openings = s.openings + 1 ∧ quiet { t with openings := s.openings }
      ∧ ContextBecomes s t c { Context.closed with opening := s.openings + 1, owner := s.arg.nat 0, ptBase := leAt b 0 8, ptCount := leAt b 8 4, level := leAt b 12 1, kept := [(tag, 0)] })
    ∧ (k.opening ≠ 0 →
      (Gives (exec .setDeterminism s) fun t => Completes s t (cmd 11) 0 0 0 [] ∧ quiet t ∧ ContextBecomes s t c (Context.ends { k with level := leAt b 0 1 } tag))
      ∧ (k.closing = false → (∀ l ∈ s.launches, l.cmd.ctx = c → ∃ q ∈ k.queues.flatMap id, q.resume = some l.id) → (∀ r ∈ s.runs, r.cmd.ctx ≠ c) → (∀ j ∈ s.jobs, j.cmd.ctx ≠ c) → (∀ j ∈ s.loads, j.cmd.ctx ≠ c) → (∀ e ∈ s.ending, e.cmd.ctx ≠ c) →
        (∀ q ∈ k.queues.flatMap id, q.ctx = c) → Gives (exec .closeContext s) fun t => ContextBecomes s t c Context.closed
          ∧ Notified s t ⟨0x81, c, s.arg.nat 2, 0, 0, tag, 0, 0⟩ (some (s.arg.nat 0)) []
          ∧ (∀ q ∈ k.queues.flatMap id, Notified s t ⟨0x81, c, q.queue, 3, 0, q.tag, 0, 0⟩ (some q.sess) [])
          ∧ (∀ l, l ∈ t.launches ↔ l ∈ s.launches ∧ ∀ q ∈ k.queues.flatMap id, q.resume ≠ some l.id) ∧ quiet { t with launches := s.launches })
      ∧ (∀ q : Cmd, k.closing = false → q ∈ k.queues.flatMap id → q.tag = leAt b 0 8 → q.ctx = c → q.resume = none → (∀ o ∈ k.queues.flatMap id, o.tag = q.tag → o = q) →
        (∀ o ∈ k.queues.flatMap id, q.tag ∉ o.deps) → Gives (exec .cancel s) fun t => quiet t
          ∧ Notified s t ⟨0x81, c, q.queue, 1, 0, q.tag, 0, 0⟩ (some q.sess) [] ∧ Notified s t ⟨0x81, c, s.arg.nat 2, 0, 0, tag, 0, 0⟩ (some (s.arg.nat 0)) []
          ∧ (∀ i : Nat, (t.ctx c).queues[i]? = (k.queues[i]?).map fun l => (removeTag q.tag l).map fun o => { o with deps := o.deps.filter (· != tag) }) ∧ Wakes s t)
      ∧ (k.queues.flatMap id = [] → s.launches = [] → s.runs = [] →
        ∀ p ∈ [(Instr.cancel, 10), (.preempt, 12)], Gives (exec p.1 s) fun t => quiet t ∧ Completes s t (cmd p.2) 5 0 0 [] ∧ ContextBecomes s t c (k.keeps tag 5))
      -- CANCEL and CLOSE_CONTEXT with a launch or a run in flight
      ∧ (let done : State → Prop := fun t => Notified s t ⟨0x81, c, s.arg.nat 2, 0, 0, tag, 0, 0⟩ (some (s.arg.nat 0)) [] ∧ Wakes s t
         let closes : State → Prop := fun t => KeepsDue s t ∧ (t.ctx c).closing = true ∧ (t.ctx c).closeCmd = some (cmd 2) ∧ (∀ q ∈ (t.ctx c).queues, q = [])
           ∧ ∀ q ∈ k.queues.flatMap id, Notified s t ⟨0x81, c, q.queue, 3, 0, q.tag, 0, 0⟩ (some q.sess) []
         let gone : NodeState → NodeState := fun n => match n with | .waiting => .dropped | .saved _ => .dropped | o => o
         let target := ∀ q ∈ k.queues.flatMap id, q.tag ≠ leAt b 0 8
         let killed : Launch → State → Prop := fun l t => (l.lnr.rbsp = 0 → t.launches = [{ l with stop := some ⟨s.now + 48, none, .kill⟩ }])
           ∧ ∀ q, l.lnr.rbsp ≠ 0 → l.nextBoundary (s.now + 48) q → t.owes q .launchStop [l.id] ∧ t.launches = [{ l with stop := some ⟨s.now + 48, some q, .kill⟩ }]
         let plain := ∀ q ∈ k.queues.flatMap id, q.resume = none ∧ q.ctx = c
         (∀ l : Launch, s.launches = [l] → l.cmd.ctx = c → l.stop = none → l.phase = .running ∨ (l.phase = .fixed ∧ l.runStart ≤ s.now) →
           (s.runs = [] → l.node = none → l.cmd.tag = leAt b 0 8 → target → Gives (exec .cancel s) fun t => done t ∧ killed l t)
           ∧ (s.runs = [] → k.closing = false → plain → Gives (exec .closeContext s) fun t => closes t ∧ killed l t ∧ ∀ e ∈ t.outbox, e ∈ s.outbox ∨ leAt e.bytes 3 1 = 3)
           ∧ (∀ (r : Run) (i : Nat), s.runs = [r] → r.cmd.ctx = c → r.fate = none → l.node = some (r.id, i) → r.nodes[i]? = some .running → (∀ id, .saved id ∉ r.nodes) →
               let left : State → Prop := fun t => killed l t ∧ t.runs = [{ r with fate := some ⟨2, 0, 0, 0, {}⟩, nodes := r.nodes.map gone }]
               (r.cmd.tag = leAt b 0 8 → target → Gives (exec .cancel s) fun t => done t ∧ left t)
               ∧ (k.closing = false → plain → Gives (exec .closeContext s) fun t => closes t ∧ left t)))
         ∧ (∀ l : Launch, s.launches = [l] → l.cmd.ctx = c → l.cmd.tag = leAt b 0 8 → l.node = none → s.runs = [] → target →
           (k.closing = false → l.phase = .staged ∨ (l.phase = .fixed ∧ s.now < l.runStart) → l.stopped = none → l.tstart0 = none → s.messagesOf l.id = false → Gives (exec .cancel s) fun t => done t ∧ t.launchOf l.id = none
             ∧ Notified s t ⟨0x81, c, l.cmd.queue, 2, 0, l.cmd.tag, 0, 0⟩ (some l.cmd.sess) [])
           ∧ (l.phase = .retired → (∀ q ∈ k.queues.flatMap id, tag ∉ q.deps) → Gives (exec .cancel s) fun t => t.launches = s.launches ∧ Completes s t (cmd 10) 5 0 0 []))
         ∧ (∀ r : Run, s.runs = [r] → r.cmd.ctx = c → r.cmd.tag = leAt b 0 8 → r.fate = none → s.launches = [] → target → k.closing = false → .running ∉ r.nodes → (∃ n ∈ r.nodes, n ≠ .done) →
           Gives (exec .cancel s) fun t => done t ∧ t.runs = [] ∧ Notified s t ⟨0x81, c, r.cmd.queue, 2, 0, r.cmd.tag, r.w0.getD 0, r.w1⟩ (some r.cmd.sess) []))
      -- QUERY and SUBSCRIBE of a context
      ∧ (∀ body, s.queryBody (cmd 13) (leAt b 0 2) = some body → Gives (exec .query s) fun t => Completes s t (cmd 13) 0 0 0 body ∧ quiet t ∧ ContextBecomes s t c (k.ends tag))
      ∧ (∀ e, s.session (s.arg.nat 0) = some e →
          (k.owner = s.arg.nat 0 ∨ e.admin = true → Gives (exec .subscribe s) fun t => Completes { s with sessions := t.sessions } t (cmd 15) 0 0 0 [] ∧ quiet { t with sessions := s.sessions } ∧ ContextBecomes s t c (k.ends tag)
            ∧ SessionBecomes s t { e with subs := (if leAt b 0 4 = 0 then [] else [(c, leAt b 0 4)]) ++ e.subs.filter fun u => u.1 != c })
          ∧ (k.owner ≠ s.arg.nat 0 → e.admin = false → Gives (exec .subscribe s) fun t => Notifies s t ⟨0x82, c, s.arg.nat 2, 0x1A, 0, tag, 0, 0⟩ (some (s.arg.nat 0)) (s.faultBytes {}) ∧ { t with outbox := s.outbox } = s))
      ∧ (let runs : Launch → Prop := fun l => l.cmd.ctx = c ∧ (l.phase = .running ∨ (l.phase = .fixed ∧ l.runStart ≤ s.now))
         (∀ ls : List Launch, ls.Sublist s.launches → (∀ l ∈ s.launches, l ∈ ls ↔ runs l) → s.launches.Nodup → s.queryBody (cmd 13) 4 = some (leBytes 1 k.level ++ (k.queues.flatMap fun q => leBytes 2 q.length)
            ++ (ls.flatMap fun l => leBytes 8 l.cmd.tag ++ leBytes 8 (l.tstart0.getD l.tstart)) ++ k.images.flatMap fun i => leBytes 8 i.id))
         ∧ ((∀ l ∈ s.launches, runs l → l.phase = .running) → ∀ gs : List Segment, gs.Sublist s.segs → (∀ g ∈ s.segs, g ∈ gs ↔ ∃ m ∈ g.members, ∃ l ∈ s.launches, runs l ∧ m.launch = l.id) → s.segs.Nodup →
            s.queryBody (cmd 13) 5 = some (gs.flatMap fun g => (s.segNodes g).flatMap fun n => s.nodeRecord g n)))
      ∧ (∀ l : Launch, s.launches = [l] → l.cmd.ctx = c → leAt b 0 8 = 2 ^ 64 - 1 ∨ l.cmd.tag = leAt b 0 8 → l.phase = .running ∨ (l.phase = .fixed ∧ l.runStart ≤ s.now) → l.lnr.psave ≠ 0 →
        (∀ x ∈ l.scripts, x.unit < 48) → l.lnr.rbsp ≠ 0 ∨ l.lnr.pper ≠ 0 →
        let at_ : Nat → Nat → Prop := fun step q => step ≠ 0 ∧ ∃ j, 1 ≤ j ∧ q = l.tstart + j * step
        let stops : State → Nat → Prop := fun t p => (at_ l.lnr.rbsp p ∨ at_ l.lnr.pper p) ∧ s.now + 48 ≤ p ∧ (∀ q, at_ l.lnr.rbsp q ∨ at_ l.lnr.pper q → s.now + 48 ≤ q → p ≤ q)
          ∧ KeepsDue s t ∧ t.preempts = s.preempts ++ [{ cmd := cmd 12, left := [l.id], w1 := 0, saved := false }] ∧ { t with agenda := s.agenda, launches := s.launches, preempts := s.preempts } = s
        (l.stop = none → Gives (exec .preempt s) fun t => ∃ p : Nat, stops t p ∧ t.owes p .launchStop [l.id] ∧ t.launches = [{ l with stop := some ⟨s.now + 48, some p, .preempt⟩ }])
        ∧ (∀ (f : Nat) (h : Option Nat) (cause stamp : Nat), l.stop = some ⟨f, h, .halt cause stamp⟩ → l.behind = none → l.preemptAgain = false → Gives (exec .preempt s) fun t => ∃ p : Nat, stops t p
          ∧ ((∃ a, h = some a ∧ a ≤ p) → t.launches = [{ l with preemptAgain := true }])
          ∧ ((∀ a, h = some a → p < a) → t.owes p .launchStop [l.id] ∧ t.launches = [{ l with preemptAgain := true, stop := some ⟨f, some p, .halt cause stamp⟩ }])))))
  ∧ s.queryBody (cmd 13) 1 = some (leBytes 1 (match s.mode with | .reset => 0 | .recovery => 1 | .serviceOnly => 2 | .ready => 3 | .thermalHalt => 4)
      ++ leBytes 1 s.sku ++ leBytes 1 s.excluded ++ leBytes 1 s.n ++ leBytes 8 s.nAt ++ leBytes 8 s.now ++ leBytes 4 s.remap.length)
  ∧ (∀ e p, s.session (s.arg.nat 0) = some e → s.ports[e.port]? = some p → s.queryBody (cmd 13) 6 = some (leBytes 8 p.packets ++ leBytes 8 p.discards ++ leBytes 8 p.retrans))
  ∧ (∀ (g : Segment) (fx fy : Nat), let r := leNat (s.nodeRecord g (0, fx, fy))
      let mine : Member → Nat → Prop := fun m i => s.fieldX m.x = fx ∧ fieldY m.y = fy ∧ m.x % 16 + 16 * (m.y % 16) = i
      g.lvl < 4 → g.gid < 1024 → (s.nodeRecord g (0, fx, fy)).length = 68 ∧ bitsAt r 543 1 = 1 ∧ bitsAt r 541 2 = g.lvl ∧ bitsAt r 531 10 = g.gid ∧ bitsAt r 529 2 = s.band g ∧ bitsAt r 512 17 = 0
        ∧ ∀ i < 256, (bitAt r (256 + i) = true ↔ ∃ m ∈ g.members, mine m i) ∧ (bitAt r i = true ↔ ∃ m ∈ g.members, m.exc = true ∧ mine m i))
  -- the last of a closing context
  ∧ (∀ (e : Ending) (q : Cmd), s.contexts.length = 16 → s.ending = [e] → s.arg.nat 0 = e.launch → s.messagesOf e.launch = false → e.node = none → e.cmd.ctx < 16 → (s.ctx e.cmd.ctx).closing = true →
      (s.ctx e.cmd.ctx).closeCmd = some q → q.ctx = e.cmd.ctx → s.launches = [] → s.runs = [] → s.jobs = [] → s.loads = [] → s.noDispatch = false → e.fate.status = 2 → Gives (exec .commitComplete s) fun t =>
        ContextBecomes s t q.ctx Context.closed ∧ Notified s t ⟨0x81, q.ctx, e.cmd.queue, 2, e.fate.cause, e.cmd.tag, e.fate.w0, e.fate.w1⟩ (some e.cmd.sess) []
          ∧ Notified s t ⟨0x81, q.ctx, q.queue, 0, 0, q.tag, 0, 0⟩ (some q.sess) [])
  ∧ (c = 0xFF →
    (∀ body, s.queryBody (cmd 13) (leAt b 0 2) = some body → Gives (exec .query s) fun t => Completes s t (cmd 13) 0 0 0 body ∧ quiet t ∧ t.contexts = s.contexts)
    ∧ s.queryBody (cmd 13) 7 = some (leBytes 4 s.group ++ leBytes 8 (BitVec.ofInt 64 s.ptpOffset).toNat)
    ∧ (leAt b 0 2 = 2 → ∀ m, s.map = some m → s.queryBody (cmd 13) 2 = some (m.bytes ++ m.sig))
    ∧ (leAt b 0 2 = 3 → s.queryBody (cmd 13) 3 = some (leBytes 4 s.remap.length ++ (s.remap.flatMap fun e => leBytes 1 e.fx ++ leBytes 1 e.fy ++ leBytes 1 e.prow ++ leBytes 1 e.col) ++ s.remapSig))
    ∧ (let signed := s.meas.flatMap id ++ s.serial ++ b.take 32
       let reply := signed ++ s.devSign signed ++ Config.certChain.flatMap fun c => leBytes 4 c.length ++ c
       (s.devSign signed).length = 96
       ∧ (s.arg.nat 0 ≠ 0 → Gives (exec .attest s) fun t => quiet { t with fv := s.fv } ∧ t.contexts = s.contexts ∧ t.fv = s.fv + 1 ∧ Completes s t (cmd 14) 0 0 0 reply)
       ∧ (s.arg.nat 0 = 0 → s.mode ≠ .reset → Gives (exec .attest s) fun t => t = { s with mgmt := s.mgmt ++ [.attest reply], fv := s.fv + 1 })
       ∧ (s.arg.nat 0 = 0 → s.mode = .reset → Gives (exec .attest s) fun t => t = { s with fv := s.fv + 1 }))
    ∧ (∀ e, s.session (s.arg.nat 0) = some e → Gives (exec .subscribe s) fun t => Completes { s with sessions := t.sessions } t (cmd 15) 0 0 0 [] ∧ quiet { t with sessions := s.sessions } ∧ t.contexts = s.contexts
        ∧ SessionBecomes s t { e with subs := (if leAt b 0 4 = 0 then [] else [(c, leAt b 0 4)]) ++ e.subs.filter fun u => u.1 != c }))

/-- R101, R102, R115 to R117, R122, R123: LOAD_IMAGE reads its bytes at its dispatch, of a flit that a write in progress has to it the old ones or the new ones (which is left open: log 8), and registers an image whose id and checks agree; WRITE_DRAM and READ_DRAM take their flits' physical addresses, and end DONE with every flit written or read, once each stack has had a cycle of its share for each of its flits (which cycle W0 names is left open: log 10); GRAPH_DEFINE, GRAPH_RUN and GRAPH_PATCH make, run and patch a graph; LAUNCH stages a launch of its image, its own or that of the node that the dispatch unit has picked; a run ends DONE with its last node, and when a node fails it drops what is not dispatched, lets its running nodes finish, and ends with the first failure's status, ENTRY naming that node. -/
def Obligations.DataCommands : Prop := ∀ (s : State),
  let cmd : Nat → Cmd := fun kind => { sess := s.arg.nat 0, ctx := s.arg.nat 1, queue := s.arg.nat 2, kind := kind, tag := s.arg.nat 3, deps := s.arg.n.drop 4, body := s.arg.bytes, resume := none }
  let c := s.arg.nat 1
  let b := s.arg.bytes
  let tag := s.arg.nat 3
  let k := s.ctx c
  let quiet : State → Prop := fun t => { t with outbox := s.outbox, agenda := s.agenda, contexts := s.contexts } = s
  (s.contexts.length = 16 → c < 16 → k.opening ≠ 0 →
    (imageReadCause (s.table c) (leAt b 0 8) (leAt b 8 8) = none → Gives (exec .loadImage s) fun t =>
      { t with loads := s.loads, jobs := s.jobs, commits := s.commits, reads := s.reads, dram := s.dram, fv := s.fv } = s
      ∧ t.reads.map (fun r => { r with got := none }) = s.reads.map (fun r => { r with got := none })
      ∧ t.loads = s.loads ++ [{ cmd := cmd 3, bytes := t.imageMem c (leAt b 0 8) (leAt b 8 8) }]
      ∧ ((∀ j ∈ s.jobs, j.write = false) → s.commits = [] → t.jobs = s.jobs ∧ t.commits = s.commits ∧ t.reads = s.reads ∧ t.dram = s.dram ∧ t.fv = s.fv))
    ∧ (let n := leAt b 1 1
       let np := leAt b 2 2
       let at_ : Nat → Nat → Nat → Nat := fun i o w => leAt b (8 + 32 * i + o) w
       b.length = 8 + 32 * n + 4 * np →
       (∀ i < n, at_ i 12 2 ≤ 1024 ∧ at_ i 10 2 + at_ i 12 2 ≤ np ∧ at_ i 16 8 < 2 ^ i ∧ (at_ i 14 2 = 0xFFFF ∨ at_ i 14 2 + 1 < np) ∧ at_ i 24 8 = 0) →
       Gives (exec .graphDefine s) fun t => Completes s t (cmd 7) 0 0 0 [] ∧ quiet t ∧ ∃ g : Graph, g.gid = leAt b 0 1 ∧ g.nodes.length = n ∧ g.params.length = np
         ∧ (∀ i < n, g.nodes[i]? = some ⟨at_ i 0 8, at_ i 8 2, at_ i 10 2, at_ i 12 2, at_ i 14 2, at_ i 16 8⟩) ∧ (∀ i < np, g.params[i]? = some (leAt b (8 + 32 * n + 4 * i) 4))
         ∧ ContextBecomes s t c (Context.ends { k with graphs := g :: k.graphs.filter fun o => o.gid != g.gid } tag))
    ∧ (∀ g, k.graphs.find? (fun o => o.gid == leAt b 0 1) = some g →
      (Gives (exec .graphRun s) fun t => Wakes s t ∧ t.nextId = s.nextId + 1 ∧ quiet { t with runs := s.runs, nextId := s.nextId }
        ∧ t.runs = s.runs ++ [{ id := s.nextId, cmd := cmd 8, graph := g, level := k.level, nodes := List.replicate g.nodes.length .waiting, fate := none, w0 := none, w1 := 0 }])
      ∧ (leAt b 2 2 + leAt b 4 2 ≤ g.params.length → Gives (exec .graphPatch s) fun t => Completes s t (cmd 9) 0 0 0 [] ∧ quiet t ∧ ∃ ps : List Nat, ps.length = g.params.length
        ∧ (∀ i < ps.length, ps[i]? = if leAt b 2 2 ≤ i ∧ i < leAt b 2 2 + leAt b 4 2 then some (leAt b (8 + 4 * (i - leAt b 2 2)) 4) else g.params[i]?)
        ∧ ContextBecomes s t c (Context.ends { k with graphs := { g with params := ps } :: k.graphs.filter fun o => o.gid != g.gid } tag)))
    ∧ (∀ m : Mem, s.picked = none → s.imageOf c (leAt b 0 8) = some m → s.launchRefusal c (askCmd b k.level) = none → Gives (exec .launch s) fun t => t.nextId = s.nextId + 1
      ∧ { t with launches := s.launches, nextId := s.nextId, fetch := s.fetch } = s ∧ ∃ l : Launch, t.launches = s.launches ++ [l] ∧ l.id = s.nextId ∧ l.cmd = cmd 6 ∧ l.node = none
      ∧ l.opening = k.opening ∧ l.image = leAt b 0 8 ∧ l.lnrIdx = leAt b 8 2 ∧ l.level = k.level ∧ l.startAt = leAt b 16 8 ∧ l.d = s.now ∧ l.phase = .staged ∧ l.stop = none ∧ l.tstart0 = none
      ∧ l.params = slice b 24 (leAt b 10 2) ∧ l.lnr = { imgLnr m (imgSecs m) (leAt b 8 2) with level := k.level }))
  -- the nodes of a run
  ∧ (∀ (r : Run) (i : Nat) (n : NodeRec) (m : Mem), s.picked = some (r.id, i) → s.runs.find? (fun o => o.id == r.id) = some r → r.graph.nodes[i]? = some n → s.imageOf r.cmd.ctx n.img = some m →
      s.launchRefusal r.cmd.ctx (askNode r n) = none → Gives (exec .launch s) fun t => t.nextId = s.nextId + 1 ∧ t.picked = none
      ∧ { t with launches := s.launches, nextId := s.nextId, fetch := s.fetch, picked := s.picked } = s ∧ ∃ l : Launch, t.launches = s.launches ++ [l] ∧ l.id = s.nextId ∧ l.cmd = r.cmd ∧ l.node = some (r.id, i)
      ∧ l.opening = (s.ctx r.cmd.ctx).opening ∧ l.image = n.img ∧ l.lnrIdx = n.lnr ∧ l.level = r.level ∧ l.d = s.now ∧ l.phase = .staged ∧ l.stop = none ∧ l.tstart0 = none
      ∧ l.startAt = (if n.saidx = 0xFFFF then 0 else r.graph.params.getD n.saidx 0 + 2 ^ 32 * r.graph.params.getD (n.saidx + 1) 0)
      ∧ l.params = ((r.graph.params.drop n.pfirst).take n.pcount).flatMap (leBytes 4) ∧ l.lnr = { imgLnr m (imgSecs m) n.lnr with level := r.level })
  ∧ (∀ (e : Ending) (r : Run) (i : Nat), s.contexts.length = 16 → r.cmd.ctx < 16 → s.ending.find? (fun o => o.launch == s.arg.nat 0) = some e → s.messagesOf e.launch = false → e.node = some (r.id, i) →
      s.runs = [r] → i < r.nodes.length → s.noDispatch = false → e.cmd.ctx = r.cmd.ctx → (s.ctx r.cmd.ctx).closing = false →
      let f := e.fate
      let w1 := max r.w1 f.w1
      let sends : State → Nat → Nat → Nat → Nat → Nat → List Byte → Prop := fun t kind status cause w0 w1 => Notified s t ⟨kind, r.cmd.ctx, r.cmd.queue, status, cause, r.cmd.tag, w0, w1⟩ (some r.cmd.sess)
      let goes : (State → Prop) → Prop := fun q => Gives (exec .commitComplete s) fun t => t.ending = s.ending.erase e ∧ Wakes s t ∧ q t
      let gone : NodeState → NodeState := fun n => match n with | .waiting => .dropped | .saved _ => .dropped | o => o
      let alone := ∀ j, j ≠ i → r.nodes[j]? ≠ some .running
      (f.status = 0 → r.fate = none →
        ((∃ j n, j ≠ i ∧ r.nodes[j]? = some n ∧ n ≠ .done) → goes fun t => t.outbox = s.outbox ∧ t.contexts = s.contexts ∧ t.launches = s.launches ∧ t.runs = [{ r with w1 := w1, nodes := r.nodes.set i .done }])
        ∧ ((∀ j n, j ≠ i → r.nodes[j]? = some n → n = .done) → goes fun t => t.runs = [] ∧ Completes s t r.cmd 0 (r.w0.getD 0) w1 [] ∧ ContextBecomes s t r.cmd.ctx (Context.ends (s.ctx r.cmd.ctx) r.cmd.tag)))
      ∧ (f.status ∈ [0x10, 0x11, 0x13, 0x16, 0x17, 0x18, 0x19, 0x1B] → r.fate = none →
        ((¬ alone) → goes fun t => t.outbox = s.outbox ∧ (∀ l, l ∈ t.launches ↔ l ∈ s.launches ∧ .saved l.id ∉ r.nodes)
          ∧ t.runs = [{ r with w1 := w1, nodes := (r.nodes.set i .dropped).map gone, fate := some { f with r := { f.r with entry := i } } }])
        ∧ (alone → goes fun t => t.runs = [] ∧ sends t 0x82 f.status f.cause f.w0 f.w1 (s.faultBytes { f.r with entry := i })))
      ∧ (∀ g, r.fate = some g → 7 < g.status → alone → f.status ≠ 0 ∨ (∃ j n, j ≠ i ∧ r.nodes[j]? = some n ∧ n ≠ .done) → goes fun t => t.runs = [] ∧ sends t 0x82 g.status g.cause g.w0 g.w1 (s.faultBytes g.r)))
  ∧ (∀ (wr : Bool), let n := if wr then (b.length - 8) / 64 else leAt b 8 4 / 64
      let pa : Nat → Option Nat := fun i => if c < 16 then (s.translate c (leAt b 0 8 + 64 * i)).map (·.2) else some (leAt b 0 8 + 64 * i)
      let may : Nat → Prop := fun i => ∃ p, pa i = some p ∧ p + 64 ≤ 48 * 2 ^ 36 ∧ (wr = true → s.imageFlit p = false)
        ∧ (c < 16 → ∀ e, s.translate c (leAt b 0 8 + 64 * i) = some e → (if wr then e.1.wr else e.1.rd) = true)
      (if c < 16 then s.isOpen c = true else (s.isAdmin (s.arg.nat 0) = true ∧ s.mode = .ready ∧ leAt b 0 8 + (if wr then b.length - 8 else leAt b 8 4) ≤ 48 * 2 ^ 36)) →
      (∀ i < n, may i) → Gives (exec (if wr then .writeDram else .readDram) s) fun t => { t with jobs := s.jobs } = s ∧ ∃ j : HostJob, t.jobs = s.jobs ++ [j]
        ∧ j.cmd = cmd (if wr then 4 else 5) ∧ j.write = wr ∧ j.pend.length = n ∧ j.got = [] ∧ j.d = s.now ∧ j.lo = none ∧ j.hi = none
        ∧ (∀ k, ((j.load.find? fun e => e.1 == k).map (·.2)).getD 0 = j.pend.countP fun e => e.2.1 / 2 ^ 36 == k)
        ∧ ∀ i < n, ∃ p, pa i = some p ∧ j.pend[i]? = some (i, p, if wr then slice b (8 + 64 * i) 64 else []))
  ∧ (∀ j : HostJob, s.contexts.length = 16 → s.arg.nat 0 = 0xFF → j.cmd.ctx = 0xFF → s.jobs = [j] → j.cmd.tag = s.arg.nat 1 → s.launches = [] → s.commits = [] → s.reads = [] → j.lo.getD s.now ≤ j.hi.getD s.now →
      j.got = [] → (∀ (i : Nat) e, j.pend[i]? = some e → e.1 = i ∧ e.2.1 % 64 = 0 ∧ (j.write = true → e.2.2.length = 64)) → (∀ e ∈ j.pend, ∀ f ∈ j.pend, e.2.1 = f.2.1 → e = f) →
      let lo := j.lo.getD s.now
      ((∀ e ∈ j.load, 0 < e.2 ∧ (s.engines.getD e.1 Engine.idle).share = [] ∧ lo + e.2 ≤ s.now + 1) → (j.load.map (·.1)).Nodup → (s.shares j).isSome = true)
      ∧ ((∃ e ∈ j.load, 0 < e.2 ∧ s.now + 1 < lo + e.2) → Gives (exec .hostDramAccessComplete s) fun t => t = s)
      ∧ ∀ gs, s.shares j = some gs → Gives (exec .hostDramAccessComplete s) fun t => t.jobs = [] ∧ t.engines = gs ∧ quiet { t with jobs := s.jobs, engines := s.engines, fv := s.fv, dram := s.dram } ∧ t.contexts = s.contexts
        ∧ (∃ w0, lo ≤ w0 ∧ w0 ≤ j.hi.getD s.now ∧ (∀ e ∈ j.load, 0 < e.2 → w0 + e.2 ≤ s.now + 1) ∧ Completes s t j.cmd 0 w0 s.now (if j.write then [] else j.pend.flatMap fun e => s.dram.bytes e.2.1 64))
        ∧ ∀ a, t.dram.get a = match (if j.write then j.pend.find? fun e => decide (e.2.1 ≤ a ∧ a < e.2.1 + 64) else none) with | some e => e.2.2.getD (a - e.2.1) 0 | none => s.dram.get a)
  ∧ (∀ j : LoadJob, s.contexts.length = 16 → s.arg.nat 0 < 16 → s.loads = [j] → j.cmd.ctx = s.arg.nat 0 → j.cmd.tag = s.arg.nat 1 → (s.ctx j.cmd.ctx).closing = false →
      let len := leAt j.cmd.body 8 8
      let want := leAt j.cmd.body 16 8
      let fields := idFields j.bytes (imgSecs j.bytes)
      let agree := imageId j.bytes len fields = want ∧ ∀ a ∈ fields, j.bytes.nat a 8 = want
      let k := s.ctx j.cmd.ctx
      (agree → State.loadChecks { s with loads := [] } j.bytes len = none → (∀ i ∈ k.images, i.id ≠ want) → k.images.length < 64 → Gives (exec .imageLoadComplete s) fun t => t.loads = []
        ∧ quiet { t with loads := s.loads } ∧ Completes s t j.cmd 0 0 0 []
        ∧ ContextBecomes s t j.cmd.ctx (Context.ends { k with images := k.images ++ [{ id := want, va := leAt j.cmd.body 0 8, len := len }] } j.cmd.tag))
      ∧ (¬ agree → k.queues.flatMap id = [] → Gives (exec .imageLoadComplete s) fun t => t.loads = [] ∧ (t.ctx j.cmd.ctx).images = k.images
        ∧ ∃ e ∈ t.outbox, e.event = s.now ∧ leAt e.bytes 0 1 = 0x82 ∧ leAt e.bytes 3 1 = 0x17))
/-- R107, R116, R120, R130, R137, R140, R142, R143, R145 to R151: the decision takes the first candidate key of the highest priority at or after its pointer, within it the nodes of runs before the queue's head and a run's pre-empted nodes before its others; it hands over a command, picks a node, or stages a pre-empted launch for its resume, whose segments may clash by then; a tile that last ran another context's launch, or none, clears what the load does not write, but for the code half and the plane in use; TSTART is the least cycle that the formula allows, or START_AT, and a launch that comes too late for its START_AT ends LATE_START; every tile takes its start state at TSTART and its registers at start(n), an iteration that has not ended or not drained then freezes the tile on 0x49; a drained tile waits for its next start; the launch retires at its final boundary, and its bits leave the tree on the next cycle. That a TSTART which has passed becomes 640 cycles from now, that a late launch ends at its fixing, that what is left of the launch before is taken back as its tiles load, and that vector results still under way at a plane swap land by the new plane are the model's choices (log 33); so are that router entry 0 is in force from the reference's TSTART also on a tile adrift (log 11), and that the dispatch cycle is W0 of a resumed launch whose segments clash (log 25). That the tables of a save go into the planes when the load is complete is the model's reading (log 19). -/
def Obligations.LaunchLife : Prop :=
  (∀ (s : State) (pr key : Nat) (p : Pick),
    let ptr := s.pointers.getD pr 0
    let decides : State → Prop := fun t => t.decidedAt = some s.now ∧ (∀ p, t.pointers.getD p 0 = if p = pr then (key + 1) % 256 else s.pointers.getD p 0) ∧ Wakes s t
    let runOf : Run → Prop := fun r => s.runs.find? (fun o => o.id == r.id) = some r
    s.mode = .ready → s.halted = false → s.noDispatch = false → s.decidedAt ≠ some s.now → s.pointers.length = 4 → ptr < 256 → s.contexts.length = 16 → pr < 4 → key < 256 → key % 16 / 4 = pr →
    s.candidate key = some p →
    (∀ k < 256, pr < k % 16 / 4 → s.candidate k = none) → (∀ k < 256, k % 16 / 4 = pr → (k + 256 - ptr) % 256 < (key + 256 - ptr) % 256 → s.candidate k = none) →
    -- the head of a queue
    (∀ (q : Cmd) (i : Instr), p = .head q → q.resume = none → q.ctx = key / 16 → q.queue = key % 16 →
      (q.kind, i) ∈ [(3, Instr.loadImage), (4, .writeDram), (5, .readDram), (6, .launch), (7, .graphDefine), (8, .graphRun), (9, .graphPatch), (11, .setDeterminism)] →
      Gives (exec .dispatch s) fun t => decides t
        ∧ ContextBecomes s t q.ctx { s.ctx q.ctx with queues := (s.ctx q.ctx).queues.modify q.queue (·.drop 1) }
        ∧ t.fetch = s.fetch ++ [eventItem (encode i).bits ⟨[q.sess, q.ctx, q.queue, q.tag] ++ q.deps, q.body⟩]
        ∧ { t with decidedAt := s.decidedAt, pointers := s.pointers, agenda := s.agenda, contexts := s.contexts, fetch := s.fetch } = s)
    -- a node of a run
    ∧ (∀ (r : Run) (n : Nat), p = .node r.id n → runOf r → r.nodes[n]? = some .waiting → Gives (exec .dispatch s) fun t => decides t
        ∧ t.picked = some (r.id, n) ∧ t.runs = s.runs.map (fun o => if o.id = r.id then { o with nodes := o.nodes.set n .running } else o)
        ∧ t.fetch = s.fetch ++ [eventItem (encode .launch).bits ⟨[r.cmd.sess, r.cmd.ctx, r.cmd.queue, r.cmd.tag], []⟩]
        ∧ { t with decidedAt := s.decidedAt, pointers := s.pointers, agenda := s.agenda, picked := s.picked, runs := s.runs, fetch := s.fetch } = s)
    -- a launch that was pre-empted, in its queue or its run
    ∧ (∀ (l : Launch), (∃ q, p = .head q ∧ q.resume = some l.id) ∨ (∃ r n, p = .node r.id n ∧ runOf r ∧ r.nodes[n]? = some (.saved l.id)) → s.launchOf l.id = some l →
        (s.segClash l.lnr l.opening = false → Gives (exec .dispatch s) fun t => decides t ∧ t.tiles = s.tiles ∧ (∀ k, k ≠ l.id → t.launchOf k = s.launchOf k)
          ∧ t.launchOf l.id = some { l with phase := .staged, resume := l.stopped.map (·.off), d := s.now, lf := none, scripts := l.scripts.map fun k => { k with ready := none } })
        ∧ (s.segClash l.lnr l.opening = true → l.node = none → l.cmd.ctx < 16 → s.messagesOf l.id = false → Gives (exec .dispatch s) fun t => t.launchOf l.id = none
          ∧ Notified s t ⟨0x82, l.cmd.ctx, l.cmd.queue, 0x10, 0x86, l.cmd.tag, s.now, (l.stopped.map (·.b)).getD 0⟩ (some l.cmd.sess) (s.faultBytes { entry := l.lnrIdx }))))
  -- what is ready
  ∧ (∀ (s : State) (key : Nat) (q : Cmd), (∀ r ∈ s.runs, 16 * r.cmd.ctx + r.cmd.queue ≠ key) → (s.candidate key = some (.head q) ↔
      ((s.ctx (key / 16)).queues.getD (key % 16) []).head? = some q ∧ match q.resume with
        | some id => s.resumeReady id = true
        | none => q.deps = [] ∧ (q.kind = 6 → s.launchReady q.ctx (leAt q.body 0 8) (leAt q.body 8 2) = true) ∧ (q.kind = 8 → (s.runs.filter fun r => r.cmd.ctx == q.ctx).length < 16)))
  ∧ (∀ (s : State) (r : Run), s.runs = [r] → r.fate = none →
      let back : Nat → Prop := fun i => (r.graph.nodes[i]?).isSome = true ∧ ∃ id, r.nodes[i]? = some (.saved id) ∧ s.resumeReady id = true
      let fresh : Nat → Prop := fun i => ∃ n, r.graph.nodes[i]? = some n ∧ r.nodes[i]? = some .waiting ∧ s.launchReady r.cmd.ctx n.img n.lnr = true
        ∧ ∀ j < 64, n.pred / 2 ^ j % 2 = 1 → r.nodes[j]? = some .done
      ∀ i, s.candidate (16 * r.cmd.ctx + r.cmd.queue) = some (.node r.id i) ↔ (back i ∧ ∀ j < i, ¬ back j) ∨ (fresh i ∧ (∀ j, ¬ back j) ∧ ∀ j < i, ¬ fresh j))
  ∧ ∀ (s : State) (l : Launch),
    let x := s.arg.nat 0
    let y := s.arg.nat 1
    let t := s.tile x y
    let c := s.now
    let total := l.lnr.cnt.foldl (· * ·) 1
    let area := l.lnr.w * l.lnr.h
    let start : Nat → Nat := fun n => l.tstart + n / area * l.lnr.period
    let runs := s.runningAt x y = some l
    let named := s.launchOf l.id = some l ∧ s.arg.nat 0 = l.id
    let fits := l.lnr.x0 + l.lnr.w ≤ 256 ∧ l.lnr.y0 + l.lnr.h ≤ 256
    let here : Nat → Nat → Prop := fun x y => l.lnr.x0 ≤ x ∧ x < l.lnr.x0 + l.lnr.w ∧ l.lnr.y0 ≤ y ∧ y < l.lnr.y0 + l.lnr.h
    let others : State → Prop := fun u => ∀ x y, x < 256 → ¬ here x y → u.tile x y = s.tile x y
    (∀ k : Script, named → l.script (s.arg.nat 1) = some k → l.phase = .staged → k.ready = none → l.resume.isSome = true → Gives (exec .scriptLoadAndPin s) fun u =>
      { u with launches := s.launches, fetch := s.fetch } = s ∧ u.launchOf l.id = some { l with scripts := l.scripts.map fun o => if o.unit = s.arg.nat 1 then { k with ready := some c } else o })
    ∧ (∀ k : Script, named → l.script (s.arg.nat 1) = some k → l.phase = .staged → k.ready = none → l.resume = none → s.arg.nat 1 < 48 →
        ∀ e, (imgScripts (s.launchImage l).1 (s.launchImage l).2 l.lnrIdx).find? (fun e => e.2.2.unit == s.arg.nat 1) = some e → s.stagingFail l.cmd.ctx l.lnr (s.launchImage l).1 e.1 e.2.1 e.2.2 = none →
        Gives (exec .scriptLoadAndPin s) fun u => { u with launches := s.launches, fetch := s.fetch } = s ∧ u.launchOf l.id
          = some { l with scripts := l.scripts.map fun o => if o.unit = s.arg.nat 1 then { e.2.2 with pins := s.pinsOf l.cmd.ctx e.2.2, ready := some c } else o })
    ∧ (named → l.phase = .staged → l.lf = none → l.resume = none → fits → s.regionFreeNow l = true → s.loadEarliest l (s.launchImage l) ≤ c →
        (∀ x y, here x y → (s.tile x y).resident l.lnr.img l.lnr.cset (x - l.lnr.x0) (y - l.lnr.y0) ≠ .absent) →
        l.params.length ≤ 4096 → Gives (exec .configLoadComplete s) fun u => { u with tiles := s.tiles, launches := s.launches, fetch := s.fetch } = s ∧ others u
          ∧ u.launchOf l.id = some { l with lf := some c }
          ∧ ∀ x y, here x y →
              let a := s.tile x y
              let r := u.tile x y
              let pool := (a.flushV c).pool
              let first := decide (a.resident l.lnr.img l.lnr.cset (x - l.lnr.x0) (y - l.lnr.y0) = .active) != a.second
              let half := (planeTile (if first then a.cfg0 else a.cfg1)).lay.cb / 2
              let lo := if first then 0 else half
              let loaded : Nat → Prop := fun k => ∃ b ∈ s.tileBlocks l (s.launchImage l) x y, 2 ≤ b.item ∧ b.addr ≤ k ∧ k < b.addr + b.bytes.length
              let untagged : Mem → Mem → Prop := fun m n => ∀ k, n.get k = if offTag ≤ k ∧ k < offTag + 16 then 0 else m.get k
              (∀ e ∈ r.acts, e ∈ a.acts ∧ ((∃ f, e.k = .event f) ∨ ∃ f n, e.k = .land f n)) ∧ r.vp = [] ∧ (∀ k < 4, r.copies.getD k none = none) ∧ r.chains = [] ∧ r.msq = none
              ∧ (∀ k < 4096, r.pool.get (l.lnr.param + k) = l.params.getD k 0)
              ∧ (a.lastCtx = some l.opening → r.opm = a.opm ∧ r.cfg0 = a.cfg0 ∧ r.cfg1 = a.cfg1 ∧ ∀ k, ¬ loaded k → r.pool.get k = pool.get k)
              ∧ (a.lastCtx ≠ some l.opening → a.pool.wf = true → r.opm = [] ∧ (first = true → r.cfg0 = a.cfg0 ∧ untagged a.cfg1 r.cfg1) ∧ (first = false → r.cfg1 = a.cfg1 ∧ untagged a.cfg0 r.cfg0)
                  ∧ ∀ k, ¬ loaded k → r.pool.get k = if lo ≤ k ∧ k < lo + half then pool.get k else 0))
    -- the load of a launch that resumes: the tables that have been restored go into the planes that it will use
    ∧ (∀ off st, named → l.phase = .staged → l.lf = none → l.resume = some off → l.stopped = some st → st.cause = 0 → fits → s.regionFreeNow l = true → s.loadEarliest l (s.launchImage l) ≤ c →
        (∀ x y, here x y → (s.tile x y).resident l.lnr.img l.lnr.cset (x - l.lnr.x0) (y - l.lnr.y0) ≠ .absent ∧ (s.tile x y).lastCtx = some l.opening ∧ (s.tile x y).restd = 560 ∧ (s.tile x y).tbl.length = 16384) →
        Gives (exec .configLoadComplete s) fun u => { u with tiles := s.tiles, launches := s.launches, fetch := s.fetch } = s ∧ others u
          ∧ u.launchOf l.id = some { l with lf := some c }
          ∧ ∀ x y, here x y →
              let a := s.tile x y
              let r := u.tile x y
              let first := decide (a.resident l.lnr.img l.lnr.cset (x - l.lnr.x0) (y - l.lnr.y0) = .active) != a.second
              let restored : Mem → Mem → Prop := fun m n => ∀ k, n.get k = if k < 16384 then a.tbl.getD k 0 else m.get k
              r.restd = 0 ∧ r.tbl = [] ∧ r.opm = a.opm ∧ r.ckpts = a.ckpts ∧ (first = true → restored a.cfg0 r.cfg0 ∧ r.cfg1 = a.cfg1) ∧ (first = false → restored a.cfg1 r.cfg1 ∧ r.cfg0 = a.cfg0))
    ∧ (let ok : Nat → Prop := fun n => (∃ rf lf, s.regionFree l = some rf ∧ l.lf = some lf ∧ max l.d (max rf lf) + 640 ≤ n)
         ∧ ∀ k ∈ l.scripts, ∃ p, k.ready = some p ∧ ((∀ e ∈ k.reads, e.n = 0) → p ≤ n)
           ∧ ∀ e ∈ k.reads, ∀ j < e.n, (∀ f ∈ k.reads, ∀ i < f.n, e.t0 + j * e.iv ≤ f.t0 + i * f.iv) → p + k.lead ≤ n + (e.t0 + j * e.iv)
       ∀ least, ok least → (∀ n, ok n → least ≤ n) →
        let at_ := if l.startAt = 0 then (if least < c then c + 640 else least) else l.startAt
        named → l.phase = .staged → l.resume = none → s.halted = false →
        (l.startAt ≠ 0 → l.startAt < least ∨ l.startAt < c → l.node = none → s.contexts.length = 16 → l.cmd.ctx < 16 → s.messagesOf l.id = false → Gives (exec .tstartFix s) fun u => u.launchOf l.id = none
          ∧ Notified s u ⟨0x82, l.cmd.ctx, l.cmd.queue, 0x1B, 0, l.cmd.tag, 0, 0⟩ (some l.cmd.sess) (s.faultBytes {}))
        ∧ (l.startAt = 0 ∨ (least ≤ l.startAt ∧ c ≤ l.startAt) → Gives (exec .tstartFix s) fun u => KeepsDue s u ∧ u.owes at_ .launchStart [l.id] ∧ u.launchOf l.id = some { l with tstart := at_, runStart := at_, phase := .fixed }
          ∧ { u with launches := s.launches, agenda := s.agenda } = s))
    ∧ (s.swapDue x y = true → Gives (exec .planeSwap s) fun u => TileBecomes s u x y { t.flushV c with second := !t.second })
    ∧ (named → l.phase = .fixed → c = l.tstart → l.resume = none → l.resumedFrom = 0 → l.stopped = none → l.tstart0 = none → l.preemptAgain = false → fits →
        Gives (exec .launchStart s) fun u => { u with tiles := s.tiles, launches := s.launches, agenda := s.agenda, segs := s.segs, runs := s.runs } = s ∧ others u ∧ KeepsDue s u
          ∧ (u.runs = match l.node with | none => s.runs | some (k, _) => s.runs.map fun r => if r.id = k then { r with w0 := some (r.w0.getD c) } else r)
          ∧ u.launchOf l.id = some { l with phase := .running, tstart0 := some c, ckpt := 0 }
          ∧ ∀ x y, here x y → let p := (x - l.lnr.x0) + l.lnr.w * (y - l.lnr.y0)
              let a := s.tile x y
              let b := u.tile x y
              b.launch = some l.id ∧ b.allot = a.lay.vreg ∧ b.sel = [] ∧ b.wrt = [] ∧ (∀ k v, b.claimedAt k v = false) ∧ (∀ k < 4, b.copies.getD k none = none) ∧ b.msq = none ∧ b.mst = 0
              ∧ b.landing = none ∧ b.acts = [] ∧ b.pendc = [] ∧ b.log = [] ∧ b.base = c ∧ b.rx = x - l.lnr.x0 ∧ b.ry = y - l.lnr.y0 ∧ b.svc = a.svc.filter (fun v => v.kind == 2) ∧ b.opm = a.opm ∧ b.cfg0 = a.cfg0 ∧ b.cfg1 = a.cfg1 ∧ b.second = a.second ∧ b.router.entry = 0 ∧ b.router.from_ = c ∧ b.router.region = some (l.lnr.x0, l.lnr.y0, l.lnr.w, l.lnr.h)
              ∧ (∀ k, b.pool.get k = if (a.lay.pb ≤ k ∧ k < a.lay.pb + 2 * a.lay.pl) ∨ (a.lay.ab ≤ k ∧ k < a.lay.ab + 4608 * a.lay.acc) then 0 else (a.flushV c).pool.get k)
              ∧ (p < total → b.seq.mode = .between ∧ b.iter = some p ∧ (∀ k, b.arr.getD k false = false) ∧ u.owes (max c (b.cycleOf (start p))) .iterationStart [x, y])
              ∧ (total ≤ p → b.seq.mode = .done ∧ b.iter = none ∧ b.arr = [true, true, true]))
    ∧ (∀ n, runs → t.iter = some n → t.gcy c = start n → t.seq.mode = .between → t.draining = false → Gives (exec .iterationStart s) fun u => let b := u.tile x y
        TileBecomes s { u with agenda := s.agenda } x y b ∧ KeepsDue s u ∧ b.seq.mode = .run ∧ b.seq.pc = l.lnr.entry ∧ b.seq.due = some c
        ∧ (n + area < total → u.owes (t.cycleOf (start (n + area))) .iterationStart [x, y])
        ∧ (∀ v, c ≤ v → b.spr v 6 = BitVec.ofNat 64 l.lnr.seed ∧ b.spr v 7 = BitVec.ofNat 64 (n * 65536 % 2 ^ 32) ∧ b.spr v 13 = 0)
        ∧ b.pool = t.pool ∧ b.opm = t.opm ∧ b.cfg0 = t.cfg0 ∧ b.cfg1 = t.cfg1 ∧ b.acts = t.acts ∧ b.log = t.log
        ∧ (area ≤ n → b.p = t.p ∧ b.m = t.m ∧ b.q = t.q)
        ∧ (n < area → ∀ v, c ≤ v →
            (∀ r, b.s32 v r = match [3, 2, 1, 0].find? fun d => l.lnr.preload / 2 ^ (4 * d) % 16 == r && r != 0 with | some d => BitVec.ofNat 32 ((l.lnr.indices n).getD d 0) | none => 0)
            ∧ (∀ r, b.pr v r = decide (r = 0)) ∧ (∀ r, b.mreg v r = 0) ∧ (∀ r, b.q32 v r = 0) ∧ b.fp = [] ∧ b.spr v 0 = BitVec.ofNat 64 l.tstart ∧ b.spr v 4 = BitVec.ofNat 64 l.lnr.dom
            ∧ b.spr v 2 = BitVec.ofNat 64 (x + 2 ^ 8 * y + 2 ^ 16 * (x - l.lnr.x0) + 2 ^ 24 * (y - l.lnr.y0)) ∧ b.spr v 3 = BitVec.ofNat 64 ((s.phys x y).1 + 2 ^ 8 * (s.phys x y).2)
            ∧ b.spr v 5 = BitVec.ofNat 64 t.partWord
            ∧ b.spr v 10 = BitVec.ofNat 64 (if l.lnr.rbsp = 0 then 2 ^ 64 - 1 else l.tstart + l.lnr.rbsp) ∧ ∀ r, r = 8 ∨ r = 9 ∨ r = 11 ∨ r = 12 ∨ (14 ≤ r ∧ r < 22) ∨ (26 ≤ r ∧ r < 48) → b.spr v r = 0))
    ∧ (∀ n, runs → t.iter = some n → n + area < total → t.gcy c = start (n + area) → t.seq.mode = .run ∨ (t.seq.mode = .between ∧ t.draining = true) → Gives (exec .iterationStart s) fun u => let b := u.tile x y
        TileBecomes s u x y b ∧ b.seq.mode = .frozen ∧ b.seq.due = none ∧ b.pool = t.pool ∧ b.opm = t.opm
        ∧ (let pc := if t.seq.mode = .run then t.seq.pc else 0xFFFFFFFF
           b.log = t.logged c pc 0xBF 3 0x49 ∧ (t.frz = none → t.tlvl c = 0 → b.frz = some ⟨c, 0x49, pc, n + area, 0xE0⟩)))
    ∧ (runs → t.draining = true → t.seq.mode = .between → t.mxFree ≤ c → (∀ (k : Nat) (j : CopyJob), t.copies[k]? = some (some j) → j.completion ≤ c) → (∀ n ∈ t.localIn, n ≤ c) → (∀ e ∈ t.chains, e.1 ≤ c) →
        fits → here x y → t.pendc = [] → Gives (exec .drainPoint s) fun u => let b := u.tile x y
          TileBecomes s { u with fetch := s.fetch } x y b ∧ b.draining = false ∧ b.drainedAt = (if t.finalEnd then some c else none) ∧ b.iter = (if t.finalEnd then none else t.iter.map (· + area))
          ∧ b.seq = { t.seq with mode := if t.finalEnd then .done else .between }
          ∧ b.startG = (if t.finalEnd then none else t.iter.map fun n => start (n + area))
          ∧ { b with draining := t.draining, drainedAt := t.drainedAt, iter := t.iter, iterLeft := t.iterLeft, seq := t.seq, startG := t.startG } = t
          ∧ ((∀ i j, here i j → (u.tile i j).drainedAt.isSome = true) → u.fetch = s.fetch ++ [eventItem (encode .launchRetire).bits ⟨[l.id], []⟩])
          ∧ ((∃ i j, here i j ∧ (u.tile i j).drainedAt = none) → u.fetch = s.fetch))
    ∧ (named → l.phase = .running → l.stop = none → l.behind = none → s.preempts = [] → fits → 0 < area → (∀ x y, here x y → ∃ d, (s.tile x y).drainedAt = some d ∧ d ≤ c) →
        (∃ x y, here x y ∧ (s.tile x y).drainedAt = some c) → Gives (exec .launchRetire s) fun u => KeepsDue s u ∧ u.owes (c + 16) .commitDecision [l.id, c] ∧ u.owes (c + 1) .launchRetire [l.id] ∧ others u
          ∧ u.launchOf l.id = some { l with phase := .retired, retire := some c, stop := none } ∧ (∀ x y, here x y → u.tile x y = (s.tile x y).left c (c + 17))
          ∧ { u with tiles := s.tiles, launches := s.launches, agenda := s.agenda, fetch := s.fetch, outbox := s.outbox } = s)
    ∧ (named → l.phase = .retired → l.retire = some (c - 1) → 0 < c → Gives (exec .launchRetire s) fun u => Wakes s u ∧ { u with segs := s.segs, agenda := s.agenda } = s
        ∧ (∀ g ∈ u.segs, ∀ m ∈ g.members, m.launch ≠ l.id)
        ∧ ∀ g ∈ s.segs, (∃ m ∈ g.members, m.launch ≠ l.id) → ∃ h ∈ u.segs, h.lvl = g.lvl ∧ h.gid = g.gid ∧ h.opening = g.opening
            ∧ h.members.map (fun m => (m.x, m.y, m.launch, m.exc)) = (g.members.filter fun m => m.launch != l.id).map fun m => (m.x, m.y, m.launch, m.exc))
/-- R38, R39, R41, R42, R44: at the end of its span an entry gives way to the one that ACT names; a flit leaves on every output whose entry selects its input, and arrives one cycle later, or two across a crossing; a SEND's flit takes its port; a frozen tile's carry POISON; none enters a tile outside its launch's region (the model's reading, log 21); what follows entry 511 is the model's choice (log 32); a flit on the Local output lands on the next cycle, fills the landing register and has a window of four cycles; a second one displaces a flit that is unclaimed, which raises 0x47 at the new landing, and one still unclaimed at A + 4 raises it there. That for a tile that its launch has left the region is that of the program that its router ran last is the model's reading too (log 21). -/
def Obligations.FabricEvents : Prop := ∀ (s : State),
  let x := s.arg.nat 0
  let y := s.arg.nat 1
  let t := s.tile x y
  let c := s.now
  let r := t.router
  let field : Nat → Nat → Nat → Nat := fun e lo n => t.switchWord e / 2 ^ lo % 2 ^ n
  (r.on = true → c = r.upto + 1 → (s.runningAt x y).isSome = true → Gives (exec .switchEntryAdvance s) fun u =>
    let b := u.tile x y
    let enters : Nat → Option (Nat × Nat) → Prop := fun e l => b.router = { r with entry := e, from_ := c, upto := c + field e 33 16, loop := l } ∧ u.owes (c + field e 33 16 + 1) .switchEntryAdvance [x, y]
    let tgt := field r.entry 22 9
    let cnt := field r.entry 10 12
    TileBecomes s { u with agenda := s.agenda } x y b ∧ KeepsDue s u
    ∧ (field r.entry 31 2 = 0 → enters (r.entry + 1) r.loop) ∧ (field r.entry 31 2 = 1 → enters tgt r.loop)
    ∧ (field r.entry 31 2 = 2 → match r.loop with
        | none => if cnt = 0 then enters (r.entry + 1) none else enters tgt (some (r.entry, cnt - 1))
        | some (h, k) => if h = r.entry then (if k = 0 then enters (r.entry + 1) none else enters tgt (some (h, k - 1)))
            else enters (r.entry + 1) r.loop ∧ (t.seq.mode = .run → t.pendc.length < 4 → ∃ e ∈ b.pendc, e.cause = 0x84 ∧ e.raise = c ∧ e.xva = r.entry))
    ∧ (field r.entry 31 2 = 3 → b.router = { r with on := false } ∧ u.agenda = s.agenda)
    ∧ { b with router := r, pendc := t.pendc, log := t.log, logCount := t.logCount, mult := t.mult } = t)
  ∧ (∀ i : Nat, i ≤ 4 → s.arg.nat 2 = i → Gives (exec .flitArrival s) fun u =>
      let port : Option Nat := if i = 4 then s.arg.n[5]? else none
      let poison := s.arg.nat 4 = 1 ∨ (i = 4 ∧ t.seq.mode = .frozen)
      let flit : List Nat := [s.arg.nat 3 % 2 ^ 512, if poison then 1 else 0]
      let source : Nat → Nat := fun o => if r.on = true ∧ r.from_ ≤ c ∧ c ≤ r.upto then field r.entry (61 - 3 * o) 3 else 0
      let within : Nat → Prop := fun o => o = 4 ∨ ∀ n x0 y0 w h, s.neighbour x y o = some n → r.region = some (x0, y0, w, h) → x0 ≤ n.1 ∧ n.1 < x0 + w ∧ y0 ≤ n.2 ∧ n.2 < y0 + h
      let leaves : Nat → Prop := fun o => o < 5 ∧ within o ∧ if i = 4 then (port = some o ∨ source o = 5) else (source o = i + 1 ∧ r.sent ≠ some (o, c))
      let b := u.tile x y
      TileBecomes s { u with agenda := s.agenda } x y b ∧ KeepsDue s u
      ∧ (∀ o n, leaves o → o < 4 → s.neighbour x y o = some n →
          u.owes (c + if x / 16 = n.1 / 16 ∧ y / 16 = n.2 / 16 then 1 else 2) .flitArrival ([n.1, n.2, (o + 2) % 4] ++ flit))
      ∧ (∀ o e, leaves o → o < 4 → s.neighbour x y o = none → s.edgeOf x y o = some e → u.owes (c + s.edgeCost e.1) .flitArrival ([x, y, 5 + o] ++ flit))
      ∧ (leaves 4 → ∃ a ∈ b.acts, a.at_ = c + 1 ∧ a.ph = phLand ∧ a.k = .land ⟨BitVec.ofNat 512 (s.arg.nat 3), poison⟩ i)
      ∧ (¬ leaves 4 → b.acts = t.acts)
      ∧ (if i = 4 then b.localIn = t.localIn.filter (· != c) ∧ b.router = { r with sent := port.map fun p => (p, c) } else b.localIn = t.localIn ∧ b.router = r)
      ∧ ((∃ o, leaves o) → b.log = t.log)
      ∧ ((∀ o, ¬ leaves o) → b.log = t.logged c 0xFFFFFFFF 0x83 6 0)
      ∧ b.seq = t.seq ∧ b.pool = t.pool ∧ b.landing = t.landing ∧ b.pendc = t.pendc)
  ∧ (∀ l, t.landing = some l → l.at_ + 4 ≤ c → Gives (exec .landingWindowExpiry s) fun u =>
      let b := u.tile x y
      TileBecomes s u x y b ∧ b.landing = none ∧ b.pool = t.pool ∧ b.seq = t.seq
      ∧ (t.seq.mode = .run → t.pendc.length < 4 → ∃ e ∈ b.pendc, e.cause = 0x47 ∧ e.raise = c ∧ e.xva = t.rel l.at_))
  ∧ (∀ (ev : FetchItem) (w : Tile) (a : Act) (f : Flit) (src : Nat), a.k = .land f src →
      let b := w.perform x y ev a
      b.landing = some ⟨f, a.at_, src⟩ ∧ SameBytes w b ∧ (∃ e : Act, b.acts = w.acts ++ [e] ∧ e.at_ = a.at_ + 4 ∧ e.ph = phExpire ∧ e.k = .event ev)
      ∧ { b with landing := w.landing, acts := w.acts, pendc := w.pendc, log := w.log, logCount := w.logCount, mult := w.mult } = w
      ∧ (w.landing = none → b.pendc = w.pendc ∧ b.log = w.log)
      ∧ ∀ l, w.landing = some l → w.seq.mode = .run → w.pendc.length < 4 →
          ∃ e : PendCause, e.cause = 0x47 ∧ e.raise = a.at_ ∧ e.xva = w.rel l.at_ ∧ ∀ o, o ∈ b.pendc ↔ o = e ∨ o ∈ w.pendc)

/-- R49 to R53, R31: at an alignment point the tile's sample a + Lw goes to each neighbour present, and its own comparison follows at a + 12; a receiver's delta is its counter less the sample, as a number of 64 bits, on the cycle the sample arrives, also where that comes before the receiver's own point; a tile that disagrees with every neighbour present is marked and reported, a marked tile sets its counter back by the adopted delta, the one most neighbours share, and logs 0xA1 of KIND 4; it then has an exchange at the next point of its corrected counter, as a tile adrift or one that disagrees has at its own, and so have its neighbours at theirs; a tile that ALIGN holds since 16 cycles before the point is corrected at once, its register takes the status word, and its next word is due when the corrected counter reads a + 16, and WAIT cycles more; a set of 2 to 16 tiles adrift together is marked as one, and a larger one is an error of its first tile's field. At every 65,536th cycle the tiles that neither differ from the reference nor have a neighbour that does agree with all their neighbours, and send their samples to those that make exchanges of their own; a change of n that is due takes effect after the exchange, whatever the tiles' counters read. That these tiles make one common exchange without samples among themselves, that a sample not yet in counts as the difference of the counters, which point a sample belongs to that comes while no exchange is in progress, and what makes a set are the model's readings (log 11); so are that a change of n takes effect on the cycle a + 12 with which the exchange is complete (log 31), and that MODULE_EVENT reports it with code 2 (log 24). -/
def Obligations.AlignmentExchange : Prop := ∀ (s : State),
  let x := s.arg.nat 0
  let y := s.arg.nat 1
  let t := s.tile x y
  let c := s.now
  let one := s.arg.n ≠ []
  (∀ g, one → t.gcy c = g → g ≠ 0 → g % 65536 = 0 → s.inGrid x y = true → Gives (exec .alignmentPoint s) fun u => KeepsDue s u ∧ u.owes (c + 12) .alignmentCompare [x, y]
    ∧ (∃ ds : List (Option Int), ds.length = 4 ∧ TileBecomes s { u with agenda := s.agenda } x y { t with align := some { a := g, at_ := c, deltas := ds, common := false }, earlyDeltas := [] }
      -- a sample that came before the point, or in an exchange begun at the same point, has given its delta
      ∧ ∀ d < 4, (∀ e ∈ t.earlyDeltas, e.side = d → e.a = g → (∀ o ∈ t.earlyDeltas, o.side = d → o = e) → ds[d]? = some (some e.delta))
        ∧ ((∀ e ∈ t.earlyDeltas, e.side = d → e.a ≠ g) → ds[d]? = some (match t.align with | some e => if e.a = g then e.deltas.getD d none else none | none => none)))
    ∧ ∀ d < 4, ∀ n, s.neighbour x y d = some n → let lw := if x / 16 = n.1 / 16 ∧ y / 16 = n.2 / 16 then 6 else 8
        u.owes (c + lw) .alignmentSample [n.1, n.2, (d + 2) % 4, (g + lw) % 2 ^ 64])
  ∧ (¬ one → c ≠ 0 → c % 65536 = 0 → s.memWf = true → Gives (exec .alignmentPoint s) fun u => KeepsDue s u ∧ u.owes (c + 12) .alignmentCompare [] ∧ u.owes (c + 65536) .alignmentPoint []
      ∧ (∀ n from_, s.nNext = some (n, from_) → from_ ≤ c → u.nDue = some n ∧ u.nNext = none)
      ∧ ((∀ n from_, s.nNext = some (n, from_) → c < from_) → u.nDue = s.nDue ∧ u.nNext = s.nNext)
      ∧ { u with nNext := s.nNext, nDue := s.nDue, agenda := s.agenda, tiles := s.tiles } = s
      ∧ ∀ i j, s.inGrid i j = true →
          let w := s.tile i j
          let part := (∀ e ∈ s.tiles, e.2.gofs ≠ 0 → 1 < apart i (e.1 % 256) + apart j (e.1 / 256)) ∧ ∀ e, w.align = some e → e.at_ ≠ c
          (part → u.tile i j = { w with align := some { a := c, at_ := c, deltas := (List.range 4).map fun d => (s.neighbour i j d).map fun _ => 0, common := true }, earlyDeltas := [] }) ∧ (¬ part → u.tile i j = w)
          -- its sample goes to a neighbour that makes an exchange of its own, beside a tile adrift
          ∧ (part → ∀ d < 4, ∀ n, s.neighbour i j d = some n → (∃ e ∈ s.tiles, e.2.gofs ≠ 0 ∧ apart n.1 (e.1 % 256) + apart n.2 (e.1 / 256) ≤ 1) →
              let lw := if i / 16 = n.1 / 16 ∧ j / 16 = n.2 / 16 then 6 else 8
              u.owes (c + lw) .alignmentSample [n.1, n.2, (d + 2) % 4, (c + lw) % 2 ^ 64]))
  ∧ (∀ e d v, t.align = some e → s.arg.nat 2 = d → d < e.deltas.length → s.arg.nat 3 = v → Gives (exec .alignmentSample s) fun u => ∃ l : List (Option Int),
      TileBecomes s u x y { t with align := some { e with deltas := l } } ∧ ∀ k : Nat, l[k]? = if k = d then some (some (((t.gcy c : Int) - v).bmod (2 ^ 64))) else e.deltas[k]?)
  -- a sample that comes while no exchange is in progress: at the tile's own point or in the half of the period before it, one of that point; else late
  ∧ (∀ d v g, t.align = none → s.arg.nat 2 = d → s.arg.nat 3 = v → t.gcy c = g →
      (g % 65536 = 0 ∨ 32768 ≤ g % 65536 → Gives (exec .alignmentSample s) fun u => ∃ l : List EarlyDelta, TileBecomes s u x y { t with earlyDeltas := l }
        ∧ ∀ e, e ∈ l ↔ e = ⟨d, (g + 65535) / 65536 * 65536 % 2 ^ 64, ((g : Int) - v).bmod (2 ^ 64)⟩ ∨ (e ∈ t.earlyDeltas ∧ e.side ≠ d))
      ∧ (0 < g % 65536 → g % 65536 < 32768 → Gives (exec .alignmentSample s) fun u => TileBecomes s u x y t))
  ∧ (∀ (e : AlignX) (delta : Nat → Int),
      let ds := (List.range 4).filter fun d => (s.neighbour x y d).isSome
      one → t.align = some e → e.at_ + 12 = c → (∀ d ∈ ds, e.deltas.getD d none = some (delta d)) →
      let agree := ds.filter fun d => delta d == 0
      let bits : List Nat → Nat := fun l => ((List.range 4).map fun d => if d ∈ l then 2 ^ (3 - d) else 0).sum
      let votes : Int → Nat := fun v => (ds.filter fun d => delta d == v).length
      let most : Int → Prop := fun v => ∃ d ∈ ds, delta d = v ∧ ∀ k ∈ ds, votes (delta k) < votes v ∨ (votes (delta k) = votes v ∧ d ≤ k)
      let set := s.driftSet x y
      let together := 2 ≤ set.length ∧ set.length ≤ 16
      let alone := ds ≠ [] ∧ agree = []
      let marked := t.reload = true ∨ t.reloadSet = true
      -- an ALIGN of at least 16 cycles before the point waits for this exchange: its register and the WAIT of its word
      let waits : Option (Nat × Nat) := match t.seq.hold with | .align d k w => if k + 16 ≤ e.at_ then some (d, w) else none | _ => none
      let corrected := marked ∨ (alone ∧ waits.isSome = true)
      let pc := if waits.isSome then (t.seq.waitPc.map (·.1)).getD 0xFFFFFFFF else 0xFFFFFFFF
      let status := (if agree.length = ds.length then 0 else 2 ^ 16) + 16 * bits ds + bits agree
      let head := 16 < set.length ∧ ∀ p ∈ set, 256 * y + x ≤ 256 * p.2 + p.1
      Gives (exec .alignmentCompare s) fun u =>
        let b := u.tile x y
        KeepsDue s u ∧ TileBecomes s { u with agenda := s.agenda, mgmt := s.mgmt, roving := s.roving, halted := s.halted, halts := s.halts } x y b ∧ b.align = none
        ∧ (∃ v : Int, (t.reloadSet = true → v = t.gofs) ∧ (t.reloadSet = false → ds ≠ [] → most v)
            ∧ (corrected → b.gofs = (t.gofs - v).bmod (2 ^ 64) ∧ b.log = ({ t with gofs := (t.gofs - v).bmod (2 ^ 64) } : Tile).logged c pc 0xA1 4 v.natAbs
                ∧ b.astat = 2 ^ 17 + (max (-128) (min 127 v) % 256).toNat * 256 + status ∧ b.reload = false ∧ b.reloadSet = false)
            ∧ (¬ marked → ¬ together → alone → u.mgmt = s.mgmt ++ [.drift x y v]))
        ∧ (¬ corrected → b.gofs = t.gofs ∧ b.log = t.log ∧ b.astat = status ∧ (b.reload = true ↔ alone) ∧ (b.reloadSet = true ↔ together))
        ∧ (¬ marked → together → u.mgmt = s.mgmt ++ [.drift x y t.gofs]) ∧ (marked ∨ (¬ together ∧ ¬ alone) → u.mgmt = s.mgmt)
        ∧ (¬ corrected → head → Alerts s u 0xA1 2 (s.fieldX x) (y / 16))
        ∧ (corrected ∨ ¬ head → u.roving = s.roving ∧ u.halted = s.halted ∧ u.halts = s.halts)
        ∧ (waits = none → b.seq = t.seq ∧ b.s = t.s)
        ∧ (∀ d w, waits = some (d, w) → ScalarWritten t b d c (BitVec.ofNat 32 b.astat) ∧ b.seq = { t.seq with hold := .waitc (e.a + 16) (e.a + 16 + w) }
            ∧ u.owes (max c (b.cycleOf (e.a + 16) + w)) .alignResume [x, y])
        ∧ (agree.length ≠ ds.length ∨ corrected ∨ b.gofs ≠ 0 → u.owesPoint x y ∧ ∀ d ∈ ds, ∀ n, s.neighbour x y d = some n → u.owesPoint n.1 n.2)
        ∧ { b with align := t.align, reload := t.reload, reloadSet := t.reloadSet, gofs := t.gofs, log := t.log, logCount := t.logCount, logLost := t.logLost, astat := t.astat, seq := t.seq, s := t.s } = t)
  ∧ (¬ one → Gives (exec .alignmentCompare s) fun u => { u with tiles := s.tiles, fetch := s.fetch, n := s.n, nAt := s.nAt, nDue := s.nDue, outbox := s.outbox } = s
      ∧ (∀ n, s.nDue = some n → u.n = n ∧ u.nAt = c ∧ u.nDue = none ∧ EventOut s u 2) ∧ (s.nDue = none → u.n = s.n ∧ u.nAt = s.nAt ∧ u.nDue = none ∧ u.outbox = s.outbox)
      ∧ ∀ i j e, (s.tile i j).align = some e → e.deltas.length = 4 →
          let agreed := e.common = true ∧ e.at_ + 12 = c ∧ ∀ v ∈ e.deltas, v = none ∨ v = some 0
          let bits := ((List.range 4).map fun d => if (e.deltas.getD d none).isSome then 2 ^ (3 - d) else 0).sum
          (agreed → u.tile i j = { s.tile i j with align := none, astat := 17 * bits }) ∧ (¬ agreed → u.tile i j = s.tile i j))

/-- R52, R62 to R66, R183, R244, R245, R315, R317, R321, R349: what ends a wait lets the next word issue; with the last arrival of a segment's barrier, at T, every member is owed its release at D = T + lat + skew, and with strobes of one count on different cycles its report of a skew at that cycle of the latest strobe (that a strobe which comes later moves the report is log 32's reading); a release at D sets the latch of a tile that does not wait, BARW times out at c + MAXW with 0x4B, a skew raises 0x4A at every member; a pending cause is taken where a word would issue; the chained command of a copy, MSQ, MZERO or a drain, does on the cycle after the copy what the instruction does on its issue cycle, or raises its causes imprecisely. That it raises every one of them is the model's reading (log 17), and CAUSE 0 in the log entry of a BARW beyond its bound is its choice (log 15). -/
def Obligations.WaitEvents : Prop := ∀ (s : State),
  let x := s.arg.nat 0
  let y := s.arg.nat 1
  let t := s.tile x y
  let c := s.now
  let changes : Instr → (Tile → Prop) → Prop := fun i q => Gives (exec i s) fun u => TileBecomes s u x y (u.tile x y) ∧ q (u.tile x y)
  (∀ g r, t.seq.hold = .waitc g r → ∀ i ∈ [Instr.waitcRelease, .alignResume],
    (r ≤ t.gcy c → changes i fun b => b = { t with seq := { t.seq with hold := .none, due := some c } }) ∧ (t.gcy c < r → changes i fun b => b = t))
  ∧ (∀ lvl, s.arg.nat 2 = lvl → 1 ≤ lvl → lvl ≤ 3 →
      let arr : Tile → Prop := fun b => (t.finalEnd = true ∨ t.seq.mode = .frozen → b.arr = t.arr) ∧ (t.finalEnd = false → t.seq.mode ≠ .frozen → ∀ k < t.arr.length, b.arr[k]? = if k + 1 = lvl then some false else t.arr[k]?)
      (∀ bc maxw bound next, t.seq.hold = .barw lvl bc maxw bound next → changes .barrierRelease fun b => arr b ∧ b.latch = t.latch ∧ b.seq = { t.seq with hold := .none, due := some (max (c + 1) next) }
        ∧ (c - bc ≤ bound → b.log = t.log)
        ∧ (bound < c - bc → ∀ pc, t.seq.waitPc.map (·.1) = some pc → b.log = t.logged c pc 0 2 (c - bc - bound))
        ∧ { b with seq := t.seq, arr := t.arr, log := t.log, logCount := t.logCount, logLost := t.logLost } = t)
      ∧ ((∀ bc maxw bound next, t.seq.hold ≠ .barw lvl bc maxw bound next) → changes .barrierRelease fun b => arr b
          ∧ (∀ k < t.latch.length, b.latch[k]? = if k + 1 = lvl then some true else t.latch[k]?) ∧ { b with arr := t.arr, latch := t.latch } = t)
      ∧ (t.seq.mode = .run → t.pendc.length < 4 → changes .stepSkew fun b => { b with pendc := t.pendc } = t ∧ ∃ e : PendCause, e.cause = 0x4A ∧ e.raise = c ∧ e.sub = lvl ∧ ∀ o, o ∈ b.pendc ↔ o = e ∨ o ∈ t.pendc))
  -- the tree
  ∧ (∀ (px py lvl : Nat) (g : Segment), s.segs.find? (fun o => o.lvl == lvl && o.has px py) = some g →
      let fx : Member → Nat := fun m => s.fieldX m.x
      let fy : Member → Nat := fun m => fieldY m.y
      let field := ∀ m ∈ g.members, ∀ n ∈ g.members, fx m = fx n ∧ fy m = fy n
      let group := s.sku = 0 ∧ ∀ m ∈ g.members, ∀ n ∈ g.members, fx m / 3 = fx n / 3 ∧ fy m / 3 = fy n / 3
      let off : Member → Nat := fun m => max (apart (fx m) (3 * (fx m / 3) + 1)) (apart (fy m) (3 * (fy m / 3) + 1))
      let inner : Member → Prop := fun m => 1 ≤ fx m / 3 ∧ fx m / 3 ≤ 2 ∧ 1 ≤ fy m / 3 ∧ fy m / 3 ≤ 2
      let reaches : Nat → Member → Nat → Prop := fun t m d => (field → d = t + 6) ∧ (¬ field → group → d = t + 14 + off m)
        ∧ (¬ field → ¬ group → (s.sku = 1 → d = t + 26) ∧ (s.sku ≠ 1 → (inner m → d = t + 24 + off m) ∧ (¬ inner m → d = t + 25 + off m)))
      let me : Member → Prop := fun m => m.x = px ∧ m.y = py
      let at_ : Member → Option Nat := fun m => if m.x = px ∧ m.y = py then some (m.arrived.getD c) else m.arrived
      let releases : State → Nat → Prop := fun u t => KeepsDue s u ∧ ∀ m ∈ g.members, ∀ d, reaches t m d → u.owes d .barrierRelease [m.x, m.y, lvl]
      let last : Nat → Prop := fun t => (∀ m ∈ g.members, m.exc = false → ∃ a, at_ m = some a ∧ a ≤ t) ∧ ∃ m ∈ g.members, m.exc = false ∧ at_ m = some t
      (s.handsOver px py (.arrive lvl) →
        ((∃ m ∈ g.members, m.exc = false ∧ at_ m = none) → s.absorb.agenda = s.agenda)
        ∧ ∀ t, last t → releases s.absorb t ∧ ∃ h ∈ s.absorb.segs, h = { g with members := g.members.map fun m => if m.ended then { m with arrived := at_ m } else { m with arrived := none } })
      ∧ (∀ cause, s.handsOver px py .ended ∨ s.handsOver px py (.froze cause) → 1 ≤ lvl → lvl ≤ 3 → ∀ t, last t → releases s.absorb t)
      ∧ (∀ e, s.handsOver px py (.strobe lvl) → e ∈ g.members → me e → (∀ k ∈ g.members, me k → k = e) → e.exc = false →
          let m := e.strobes.length
          ((∀ k ∈ g.members, k.exc = false → ¬ me k → ∀ a, k.strobes[m]? = some a → a = c) → s.absorb.agenda = s.agenda)
          ∧ ((∃ k ∈ g.members, k.exc = false ∧ ¬ me k ∧ ∃ a, k.strobes[m]? = some a ∧ a ≠ c) → ∀ k ∈ g.members, ∀ d, reaches c k d → s.absorb.owes d .stepSkew [k.x, k.y, lvl, m + 1])))
  ∧ (∀ px py lvl, s.handsOver px py (.arrive lvl) → (∀ g ∈ s.segs, g.lvl = lvl → g.has px py = false) → s.absorb.owes (c + 6) .barrierRelease [px, py, lvl])
  ∧ (∀ lvl bc maxw bound next, t.seq.hold = .barw lvl bc maxw bound next → bc + maxw = c → t.seq.mode = .run → t.pendc.length < 4 → changes .barwTimeout fun b =>
      b.seq = { t.seq with hold := .none, due := some (c + 1) } ∧ { b with seq := t.seq, pendc := t.pendc } = t ∧ ∃ e : PendCause, e.cause = 0x4B ∧ e.raise = c ∧ e.sub = lvl ∧ ∀ o, o ∈ b.pendc ↔ o = e ∨ o ∈ t.pendc)
  ∧ (∀ (e : PendCause) l, t.seq.mode = .run → t.seq.due = some c → t.pendc = e :: l → e.raise < c → t.seq.afterLit = false → t.tlvl c = 0 → (t.spr c 11).toNat + 16 * e.cause < t.codeLen → changes .trapTake fun b =>
      (∀ n v, c ≤ v → b.spr v n =
        if n = 13 then 1 else if n = 14 then BitVec.ofNat 64 ((((t.gcy e.raise : Int) - t.tstart c) % 2 ^ 24).toNat * 256 + e.cause) else if n = 15 then BitVec.ofNat 64 t.seq.pc else if n = 16 then BitVec.ofNat 64 e.xva
        else if n = 17 then BitVec.ofNat 64 (t.seq.xfer.getD 0 % 2 ^ 16 * 2 ^ 16 + (if t.seq.xfer.isSome then 2 ^ 15 else 0) + (if t.mult then 2 ^ 13 else 0) + (if e.dfr then 2 ^ 12 else 0) + e.sub % 16 * 2 ^ 8 + e.src % 8 * 2 ^ 5)
        else t.spr v n)
      ∧ b.seq.pc = (t.spr c 11).toNat + 16 * e.cause ∧ b.seq.due = some (c + 4) ∧ b.seq.xfer = none ∧ b.mult = false ∧ b.pendc.length = l.length
      ∧ b.s = t.s ∧ b.p = t.p ∧ b.m = t.m ∧ b.q = t.q ∧ b.vp = t.vp ∧ b.fp = t.fp ∧ b.pool = t.pool ∧ b.opm = t.opm ∧ b.acts = t.acts)
  ∧ (∀ (ch bits : Nat) (i : Instr) (o : MsqOp) (ix : MsqIxOp) (blk : BitVec 7) (d : DrainOp) (m : DrainMOp), s.arg.nat 2 = ch → t.chains = [(c, ch, bits)] → decodeItem ⟨.mx, bits⟩ = .instr i →
      let alone : Tile := { t with chains := [] }
      let chosen : MsqIxOp → Nat := fun x => (4 * x.base.toNat + (t.spr c (40 + x.k.toNat)).toNat) % 16
      let reads : Nat → Nat → Nat → Instr → Prop := fun fe sa sb j => i = j ∧ t.claimedAt sa c = true ∧ t.claimedAt sb c = true ∧ (t.fmtEntry fe).v = true
      let drains : Nat → Nat → Instr → Prop := fun b bn j => i = j ∧ (t.fmtEntry (t.tagOf b)).v = true ∧ (t.fmtEntry (t.tagOf b)).ofmt = (t.bufRec bn).fmt
      let acts := (∃ j ∈ [Instr.msq o, .msqTa o, .msqTb o, .msqTab o], reads o.fe.toNat o.sa.toNat o.sb.toNat j)
        ∨ reads (chosen ix) ix.sa.toNat ix.sb.toNat (.msqIndexed ix) ∨ i = .mzero blk
        ∨ drains d.blk.toNat d.bn.toNat (.mdrain d) ∨ drains m.blk.toNat m.bn.toNat (.mdrainm m)
      let raises : Nat → Nat → Tile → Prop := fun cause sub b => (∃ e ∈ b.pendc, e.cause = cause ∧ e.raise = c ∧ e.sub = sub ∧ e.src = 6)
        ∧ b.mxFree = max t.mxFree (c + 1) ∧ { b with mxFree := t.mxFree, pendc := t.pendc } = alone
      (t.mxFree ≤ c → t.chk c = false ∨ (∀ r ∈ t.reads c i, (t.early c r).1 = 0) →
          let starts : Nat → Nat → Nat → Nat → Nat → Bool → Bool → Bool → Prop := fun fe sa sb n blk ta tb acc => changes .chainedCommandIssue fun b => MsqStarted alone b c 6 fe sa sb n blk ta tb acc
          (∀ j ∈ [(Instr.msq o, false, false), (.msqTa o, true, false), (.msqTb o, false, true), (.msqTab o, true, true)], reads o.fe.toNat o.sa.toNat o.sb.toNat j.1 →
            starts o.fe.toNat o.sa.toNat o.sb.toNat (o.beats.toNat + 1) o.blk.toNat j.2.1 j.2.2 o.acc)
          ∧ (reads (chosen ix) ix.sa.toNat ix.sb.toNat (.msqIndexed ix) → starts (chosen ix) ix.sa.toNat ix.sb.toNat (ix.beats.toNat + 1) ix.blk.toNat (ix.form.getLsbD 0) (ix.form.getLsbD 1) ix.acc)
          ∧ (i = .mzero blk → changes .chainedCommandIssue fun b => BlockCleared alone b c blk.toNat)
          ∧ (drains d.blk.toNat d.bn.toNat (.mdrain d) → changes .chainedCommandIssue fun b => RowsDrained alone b c d.blk.toNat d.bn.toNat (t.s32 c d.x.toNat) none false)
          ∧ (drains m.blk.toNat m.bn.toNat (.mdrainm m) → changes .chainedCommandIssue fun b =>
              RowsDrained alone b c m.blk.toNat m.bn.toNat (t.s32 c m.x.toNat) (some (t.m.read m.mr.toNat c, t.m.read m.mc.toNat c)) m.zm))
      ∧ (t.seq.mode = .run → t.pendc = [] → (acts → c < t.mxFree → changes .chainedCommandIssue (raises 0x41 1))
          ∧ ((∃ j ∈ [Instr.msq o, .msqTa o, .msqTb o, .msqTab o], i = j) → (t.claimedAt o.sa.toNat c = false → changes .chainedCommandIssue (raises 0x23 o.sa.toNat))
              ∧ (t.claimedAt o.sa.toNat c = true → t.claimedAt o.sb.toNat c = false → changes .chainedCommandIssue (raises 0x23 o.sb.toNat))
              ∧ ((t.fmtEntry o.fe.toNat).v = false → changes .chainedCommandIssue (raises 0x60 o.fe.toNat)))
          ∧ ∀ j ∈ [(Instr.mdrain d, d.blk, d.bn), (.mdrainm m, m.blk, m.bn)], i = j.1 → (t.fmtEntry (t.tagOf j.2.1.toNat)).v = false ∨ (t.fmtEntry (t.tagOf j.2.1.toNat)).ofmt ≠ (t.bufRec j.2.2.toNat).fmt →
              changes .chainedCommandIssue (raises 0x60 (t.tagOf j.2.1.toNat))))
/-- R54 to R58, R77, R112, R137 to R139, R156 to R158, R249, R385 to R387: one payload moves in a tile's own slot, with the sideband of its kind and place: upstream a pre-emption save's, else that of an SVSAVE or SVMSG; it is at Markhor no earlier than t + 24 and in order, and is there translated, checked and written, or fails; an SVMSG's last gives the host one SERVICE_MESSAGE, whose EVENT is the cycle on which Markhor has it (log 22's choice), and a launch that has ended goes on to its final notification with its last message. Downstream an SVLOAD's payload is read through the context's table, else a restore's comes out of the save area into the checkpoint, and then into the control-word table that waits for the plane to be used; else a configuration payload or a broadcast one writes its block, the first of a plane or code half clearing the shadow plane's tag and the last setting it; Markhor's answer at E writes the status word and ends the hold, with an SVLOAD's restored registers. How long the path beyond the field controller is (log 10), that a save of launch data stops with its first failure (log 18), that a load which touches a pool word with an upset ends its error (log 15), that a restored table waits in the tile (log 19), that slots are counted by the wafer's reference (log 32), that an SVLOAD's payload goes before a restore's, that bytes beyond 3 TiB on a page that lacks a permission give 0x21 and not 0x22, and which tiles take a broadcast block and when a load is read (log 33) are the model's readings. -/
def Obligations.DistaffEvents : Prop := ∀ (s : State),
  let x := s.arg.nat 0
  let y := s.arg.nat 1
  let t := s.tile x y
  let c := s.now
  let slot := c % 288 = x % 16 + 16 * (y % 16)
  let pay : Payload → Nat → Nat → Nat → List Byte → Prop := fun p kind k n bs =>
    p.side = BitVec.ofNat 8 (64 * kind + (if k = 0 then 32 else 0) + (if k + 1 = n then 16 else 0)) ∧ p.data = (List.range 32).map fun i => bs.getD i 0
  let stored : State → Nat → List Byte → Prop := fun u pa bs => ∀ a, u.dram.get a = if pa ≤ a ∧ a < pa + 32 then bs.getD (a - pa) 0 else s.dram.get a
  let areaOf : Launch → Nat → Nat := fun l k => l.lnr.psave * 65536 + 20480 * (x - l.lnr.x0 + l.lnr.w * (y - l.lnr.y0)) + 32 * k
  let sends : (Tile → Tile) → (UpMsg → Prop) → Prop := fun f q => Gives (exec .distaffUpstreamPayload s) fun u => ∃ w : UpMsg,
    KeepsDue s u ∧ TileBecomes s { u with agenda := s.agenda, up := s.up, fv := s.fv } x y { f t with upAt := some (c, w.p) } ∧ u.up = s.up ++ [w] ∧ u.fv = s.fv + 1
    ∧ w.x = x ∧ w.y = y ∧ w.bad = 0 ∧ c + 24 ≤ w.at_ ∧ (∀ o ∈ s.up, o.x = x → o.y = y → o.at_ ≤ w.at_)
    ∧ u.owes w.at_ .distaffUpstreamPayload [x, y, 1] ∧ u.owes (c + 288) .distaffUpstreamPayload [x, y] ∧ q w
  let waits : Launch → Nat → Prop := fun l p => p < c ∧ t.saved < 560 ∧ ∀ o ∈ s.up, o.pre = true → o.own = l.id → o.bad = 0
  -- a payload leaves
  (s.arg.nat 2 ≠ 1 → slot → (∀ p, t.upAt ≠ some (c, p)) →
    (∀ l p, s.savingAt x y = some (l, p) → waits l p →
      (∀ ck : TileCkpt, t.saved < 48 → t.ckpts.find? (fun e => e.launch == l.id && e.off == p - l.tstart) = some ck →
        sends (fun r => { r with saved := t.saved + 1 }) fun w => w.pre = true ∧ w.own = l.id ∧ w.k = t.saved ∧ w.msg = none ∧ pay w.p 2 t.saved 560 (slice ck.bytes (32 * t.saved) 32))
      ∧ (48 ≤ t.saved → sends (fun r => { r with saved := t.saved + 1 }) fun w =>
          w.pre = true ∧ w.own = l.id ∧ w.k = t.saved ∧ w.msg = none ∧ pay w.p 2 t.saved 560 (t.cfg.bytes (32 * (t.saved - 48)) 32)))
    ∧ (∀ v : Service, (∀ l p, s.savingAt x y = some (l, p) → ¬ waits l p) → t.svc = some v → v.kind ≠ 1 → v.failed = none → v.moved < v.total → v.c < c →
        let last := v.kind = 2 ∧ v.moved + 1 = v.total
        sends (fun r => { r with svc := if last then none else some { v with moved := v.moved + 1 } }) fun w =>
          w.pre = false ∧ w.own = v.c ∧ w.k = v.moved ∧ w.msg = (if last then some v else none) ∧ pay w.p (if v.kind = 0 then 2 else 3) v.moved v.total (slice v.bytes (32 * v.moved) 32)))
  -- a payload is at Markhor
  ∧ (∀ w : UpMsg, s.arg.nat 2 = 1 → s.up.find? (fun u => u.x == x && u.y == y && u.bad == 0 && decide (u.at_ ≤ c)) = some w →
      let up := s.up.erase w
      let fails : Nat → Nat → Nat → Prop := fun ctx va res =>
        (res = 1 ∧ (s.translate ctx va = none ∨ ∃ e pa, s.translate ctx va = some (e, pa) ∧ 48 * 2 ^ 36 < pa + 32))
        ∨ (res = 2 ∧ ∃ e pa, s.translate ctx va = some (e, pa) ∧ pa + 32 ≤ 48 * 2 ^ 36 ∧ (e.sv = false ∨ e.wr = false))
      let may : Nat → Nat → Nat → Prop := fun ctx va pa => ∃ e, s.translate ctx va = some (e, pa) ∧ pa + 32 ≤ 48 * 2 ^ 36 ∧ e.sv = true ∧ e.wr = true ∧ s.reads = [] ∧ s.jobs = [] ∧ w.p.data.length = 32
      (∀ v : Service, w.pre = false → w.msg = some v → Gives (exec .distaffUpstreamPayload s) fun u => { u with outbox := s.outbox, fetch := s.fetch } = { s with up := up }
        ∧ ((∀ e ∈ s.ending, e.launch ≠ v.launch) → u.fetch = s.fetch)
        ∧ ((∃ e ∈ s.ending, e.launch = v.launch) → State.messagesOf { s with up := up } v.launch = false → u.fetch = s.fetch ++ [eventItem (encode .commitComplete).bits ⟨[v.launch, 0], []⟩])
        ∧ Notifies s u ⟨0x83, v.who.1, v.who.2.1, 0, 0, v.who.2.2, v.c, 0⟩ (some (s.ctx v.who.1).owner)
            (leBytes 2 x ++ leBytes 2 y ++ leBytes 4 v.pc ++ leBytes 4 v.bytes.length ++ leBytes 4 0 ++ v.bytes))
      ∧ (∀ v : Service, w.pre = false → w.msg = none → t.svc = some v → v.kind = 0 → v.c = w.own → v.failed = none →
          let va := v.va + 32 * w.k
          (∀ res, fails v.who.1 va res → Gives (exec .distaffUpstreamPayload s) fun u => TileBecomes s { u with up := s.up } x y { t with svc := some { v with failed := some (res, va) } } ∧ u.up = up)
          ∧ ∀ pa, may v.who.1 va pa → Gives (exec .distaffUpstreamPayload s) fun u =>
              TileBecomes s { u with up := s.up, dram := s.dram } x y { t with svc := some { v with done := v.done + 1 } } ∧ u.up = up ∧ stored u pa w.p.data)
      ∧ (w.pre = false → w.msg = none → (∀ v, t.svc = some v → v.kind ≠ 0 ∨ v.c ≠ w.own ∨ v.failed ≠ none) → exec .distaffUpstreamPayload s = .next { s with up := up })
      ∧ (∀ l p, w.pre = true → s.savingAt x y = some (l, p) → l.id = w.own → (∀ o ∈ s.up, o.pre = true → o.own = w.own → o.bad = 0) →
          (∀ res, fails l.cmd.ctx (areaOf l w.k) res → exec .distaffUpstreamPayload s = .next { s with up := { w with bad := res } :: up })
          ∧ ∀ pa, may l.cmd.ctx (areaOf l w.k) pa → Gives (exec .distaffUpstreamPayload s) fun u => { u with dram := s.dram } = { s with up := up } ∧ stored u pa w.p.data))
  -- a payload comes in
  ∧ (slot → (∀ p, t.downAt ≠ some (c, p)) →
      let comes : (State → Tile → Prop) → Prop := fun q => Gives (exec .distaffDownstreamPayload s) fun u => KeepsDue s u ∧ TileBecomes s { u with agenda := s.agenda, fetch := s.fetch } x y (u.tile x y)
        ∧ (u.fetch = s.fetch ∨ u.fetch = s.fetch ++ [eventItem (encode .planeSwap).bits ⟨[x, y], []⟩]) ∧ q u (u.tile x y)
      (∀ v : Service, t.svc = some v → v.kind = 1 → v.failed = none → v.moved < v.total → v.c < c →
        let va := v.va + 32 * v.moved
        let fails : Nat → Prop := fun res => comes fun _ b => b = { t with svc := some { v with failed := some (res, va) } }
        (s.translate v.who.1 va = none → fails 1)
        ∧ ∀ e pa, s.translate v.who.1 va = some (e, pa) → (48 * 2 ^ 36 < pa + 32 → fails 1) ∧ (pa + 32 ≤ 48 * 2 ^ 36 → e.sv = false ∨ e.rd = false → fails 2)
          ∧ (pa + 32 ≤ 48 * 2 ^ 36 → e.sv = true → e.rd = true → pa % 32 = 0 → s.jobs = [] → s.commits = [] → s.dram.wf = true → comes fun u b =>
              let bs := (List.range 32).map fun k => s.dram.get (pa + k)
              (∃ p, pay p 2 v.moved v.total bs ∧ b = { t with svc := some { v with moved := v.moved + 1, done := v.done + 1, bytes := v.bytes ++ bs }, downAt := some (c, p) })
              ∧ (v.moved + 1 < v.total → u.owes (c + 288) .distaffDownstreamPayload [x, y])))
      -- a pre-empted launch's save area, on its way back
      ∧ (∀ (l : Launch) off (st : Stopped) (e : Pte) pa, (∀ v, t.svc = some v → v.kind ≠ 1) → s.loadingAt x y = some l → l.resume = some off → l.stopped = some st → st.cause = 0 →
          s.translate l.cmd.ctx (areaOf l t.restd) = some (e, pa) → pa + 32 ≤ 48 * 2 ^ 36 → e.sv = true → e.rd = true → pa % 32 = 0 → s.jobs = [] → s.commits = [] → s.dram.wf = true →
          let k := t.restd
          let bs := (List.range 32).map fun i => s.dram.get (pa + i)
          let mine : TileCkpt → Bool := fun o => o.launch == l.id && o.off == off
          let rest : Tile → Prop := fun b => b.restd = k + 1 ∧ ∃ p, b.downAt = some (c, p) ∧ pay p 2 k 560 bs
          (k < 48 → (∀ o ∈ t.ckpts, mine o = true → o.bytes.length = 1536) → comes fun _ b => rest b
            ∧ { b with restd := k, downAt := t.downAt, ckpts := t.ckpts } = t
            ∧ b.ckpts.filter (fun o => !mine o) = t.ckpts.filter (fun o => !mine o)
            ∧ ∃ o, b.ckpts.find? mine = some o ∧ o.bytes.length = 1536 ∧ ∀ a < 1536, o.bytes[a]? =
                if 32 * k ≤ a ∧ a < 32 * k + 32 then bs[a - 32 * k]? else some ((((t.ckpts.find? mine).map (·.bytes)).getD []).getD a 0))
          ∧ (48 ≤ k → k < 560 → t.tbl.length = 32 * (k - 48) → comes fun _ b => rest b ∧ b.tbl = t.tbl ++ bs ∧ { b with restd := k, downAt := t.downAt, tbl := t.tbl } = t))
      ∧ (∀ (l : Launch) (b : Block), (∀ v, t.svc = some v → v.kind ≠ 1) → s.loadingAt x y = some l → l.resume = none →
          let img := s.launchImage l
          let half := l.halfOf img (x - l.lnr.x0) (y - l.lnr.y0)
          let all := (l.inField (x / 16) (y / 16)).map fun p => s.tileBlocks l img p.1 p.2
          let own := ownBlocks all (s.tileBlocks l img x y)
          own[t.loaded]? = some b → s.mayLoad l t half b = true → comes fun _ r => r.loaded = t.loaded + 1 ∧ r.loadedB = t.loadedB
            ∧ (∃ p, r.downAt = some (c, p) ∧ pay p 1 t.loaded own.length b.bytes) ∧ t.blockWritten r l x y half all (s.tileBlocks l img x y) b))
  -- a broadcast block comes in
  ∧ (∀ (l : Launch) (b : Block) pre post, 272 ≤ c % 288 → s.launches = pre ++ l :: post → s.launches.Nodup →
      let loads : Launch → Prop := fun o => o ∈ s.launches ∧ o.phase = .staged ∧ o.lf = none ∧ o.inField x y ≠ []
      let takes : Launch → Prop := fun o => loads o ∧ o.lnr.img = l.lnr.img ∧ s.nextShared o x y = some b
      let field : Launch → Nat → Nat → Prop := fun o i j => o.holds i j ∧ i / 16 = x ∧ j / 16 = y
      takes l → (∀ o ∈ pre, loads o → s.nextShared o x y = none) → (∀ o, loads o → o.inRange) → (∀ o o', loads o → loads o' → ∀ i j, o.holds i j → o'.holds i j → o = o') →
      Gives (exec .distaffBroadcastPayload s) fun u => { u with tiles := s.tiles, fetch := s.fetch } = s
        ∧ (∃ sw, u.fetch = s.fetch ++ sw ∧ ∀ e ∈ sw, ∃ o i j, takes o ∧ field o i j ∧ e = eventItem (encode .planeSwap).bits ⟨[i, j], []⟩)
        ∧ (∀ i j, i < 256 → (∀ o, takes o → ¬ field o i j) → u.tile i j = s.tile i j)
        ∧ ∀ o i j, takes o → field o i j →
          let img := s.launchImage o
          let all := (o.inField x y).map fun p => s.tileBlocks o img p.1 p.2
          let mine := s.tileBlocks o img i j
          let k := s.hadBlocks o x y
          let a := s.tile i j
          let r := u.tile i j
          r.loadedB = k + 1 ∧ (b ∉ mine → { r with loadedB := a.loadedB } = a)
          ∧ (b ∈ mine → r.loaded = a.loaded ∧ (∃ p, r.downAt = some (c, p) ∧ pay p 1 k (sharedBlocks all).length b.bytes)
              ∧ a.blockWritten r o i j (o.halfOf img (i - o.lnr.x0) (j - o.lnr.y0)) all mine b))
  -- Markhor's answer
  ∧ (∀ (v : Service), t.svc = some v → v.kind ≠ 2 →
      let due := max (c + 1 + v.wait) t.seq.minDue
      let own := if t.seq.minDue ≤ c + 1 then none else t.seq.waitPc
      let ends : (Tile → Prop) → Prop := fun q => Gives (exec .serviceTransferEnd s) fun u => let b := u.tile x y
        TileBecomes s u x y b ∧ b.svc = none ∧ b.pool = t.pool ∧ b.opm = t.opm ∧ b.m = t.m ∧ b.vp = t.vp
        ∧ b.seq = (if t.seq.hold = .service then { t.seq with hold := .none, due := some due, minDue := due, waitPc := own } else { t.seq with minDue := due, waitPc := own }) ∧ q b
      let word : Nat → Tile → Prop := fun res b => ScalarWritten t b v.d (c + 1) (BitVec.ofNat 32 (256 * v.done + res))
      (∀ r va, v.failed = some (r, va) → r ≠ 0 → s.arg.nat 2 = r → ends fun b =>
        word r b ∧ b.p = t.p ∧ b.q = t.q ∧ b.sp = t.sp
        ∧ (t.seq.mode = .run → t.pendc.length < 4 → ∃ e : PendCause, e.cause = (if r = 1 then 0x21 else 0x22) ∧ e.raise = c ∧ e.xva = va ∧ ∀ o, o ∈ b.pendc ↔ o = e ∨ o ∈ t.pendc))
      ∧ (v.failed = none → v.done = v.total → s.arg.nat 2 = 0 →
        (v.kind = 0 → ends fun b => word 0 b ∧ { b with s := t.s, seq := t.seq, svc := t.svc } = t)
        ∧ (v.kind = 1 → ends fun b => b.pendc = t.pendc ∧ ∀ w, c + 1 ≤ w →
            (∀ r, 1 ≤ r → r < 32 → b.s32 w r = BitVec.ofNat 32 (if r = v.d then 256 * v.done else leAt v.bytes (4 * r) 4))
            ∧ (∀ k, 1 ≤ k → k < 8 → b.pr w k = bitAt (leAt v.bytes 0x80 1) k) ∧ (∀ k < 4, b.q32 w k = leAt v.bytes (0x90 + 4 * k) 4)
            ∧ (∀ k < 16, b.spr w (32 + k) = BitVec.ofNat 64 (leAt v.bytes (0xA0 + 4 * k) 4) &&& (if k < 4 then 0x800FFFFF else if k < 8 then 0xFFFF else 0xFFFFFFFF))
            ∧ (∀ n ∈ [(6, 0x110), (7, 0x114), (26, 0x120)], b.spr w n.1 = BitVec.ofNat 64 (leAt v.bytes n.2 4))
            ∧ (t.fp = [] → b.fpstAt w = BitVec.ofNat 64 (leAt v.bytes 0x118 4 % 32))
            ∧ ∀ n ∈ [0, 1, 9, 11, 12, 13, 14, 15, 16, 17, 18, 19, 20, 21], b.spr w n = t.spr w n)))
/-- R48, R66 to R70, R88, R91, R119, R120, R153 to R159, R253 to R260, R386, R398, R399: START makes every counter read 6 and dates the alignment points anew; a tile's TRIG or ALERT carries its counter as STAMP; as a cycle ends each field injects one message, ALERT and THERMAL before TRIG and then by slot, which reaches every field 4 + 3 × distance later (R69); a TRIG, an ALERT and a THERMAL act from their STAMP; a hardware error sends an ALERT, or spoils the window position it meets; a launch stops at the boundary chosen, and its bits leave the tree on the next cycle when it is killed or saved; it is checkpointed at its boundaries and at a chosen stop, where a service transfer is abandoned too; it is saved, fails to be saved, or is replayed once its self-test has passed, which begins when the engines have discarded what the stop closed, and goes on at Rs from the checkpoint; a frozen tile or a tainted interval kills its context, and on the cycle of p itself a launch that is being saved too. After a failed self-test the cause and the unit that reported it choose the row of the table of failures (R257). That causes pending at a stop are dropped (log 15), which state a resume starts afresh (log 19), the order of stops that meet, a kill on the cycle of p or after it, that a pre-empted launch's bits leave the records at p + 1, that a self-test ends after stop + 16, which of several frozen masters is the first, and with which status a PREEMPT ends whose saves have failed or whose stop a halt displaced (log 20), that a later TRIG replaces the capture's end (log 10), and that an abandoned SVSAVE or SVLOAD keeps its tile's issue held and a region lies in a failed engine's field by one of its tiles (log 33) are the model's readings. -/
def Obligations.HaltsAndResumes : Prop := ∀ (s : State),
  let c := s.now
  let stopAt : State → Launch → Nat → StopKind → Prop := fun u l from_ k => { u with launches := s.launches, agenda := s.agenda } = s ∧ KeepsDue s u
    ∧ (l.lnr.rbsp = 0 → u.agenda = s.agenda ∧ u.launches = [{ l with stop := some ⟨from_, none, k⟩ }])
    ∧ (l.lnr.rbsp ≠ 0 → ∃ b, l.nextBoundary from_ b ∧ u.owes b .launchStop [l.id] ∧ u.launches = [{ l with stop := some ⟨from_, some b, k⟩ }])
  let keeps : Nat → BitVec 64 := fun n => match n with
    | 4 => 0x3FFFFFFF | 8 => 0x1F | 9 => 1 | 11 => 0xFFFFFFF0 | 12 => 0xFFFFFFFFFFFF | 13 => 3 | 16 | 20 => 0xFFFFFFFFFFFFFFFF | 17 | 21 => 0xFFFFFFE0
    | 32 | 33 | 34 | 35 => 0x800FFFFF | 36 | 37 | 38 | 39 => 0xFFFF | _ => 0xFFFFFFFF
  (s.arg.nat 3 = 4 → Gives (exec .rovingMessage s) fun u => u.now = 6 ∧ (∀ x y, (u.tile x y).gcy 6 = 6 ∧ (u.tile x y).earlyDeltas = [] ∧ { u.tile x y with gofs := (s.tile x y).gofs, earlyDeltas := (s.tile x y).earlyDeltas } = s.tile x y)
      ∧ (∀ d ∈ s.agenda, d.item.isRow 54 = false → c ≤ d.at_ → { d with at_ := d.at_ - c + 6 } ∈ u.agenda)
      ∧ u.owes 65536 .alignmentPoint [] ∧ (∀ d ∈ u.agenda, d.item.isRow 54 = true → d.at_ = 65536) ∧ u.nNext = (s.nNext.map fun e => (e.1, 65536))
      ∧ { u with now := s.now, agenda := s.agenda, tiles := s.tiles, decidedAt := s.decidedAt, nAt := s.nAt, overAt := s.overAt, nNext := s.nNext } = s)
  ∧ (s.fetch = [] → s.roving ≠ [] → (∀ p, s.nextPick = some p → c + 1 < p.moment.1) → Gives (step s) fun u => u.now = c + 1
      ∧ ∀ p ∈ s.roving, let mine : RovPend → Prop := fun q => q ∈ s.roving ∧ q.fx = p.fx ∧ q.fy = p.fy
        ((∀ q, mine q → q ≠ p → p.goesBefore q) →
          (∀ fx < 12, ∀ fy < 12, u.owes (c + 4 + 3 * max (apart fx p.fx) (apart fy p.fy)) .rovingMessage [fx, fy, p.msg.stamp, p.msg.kind, p.msg.cause, p.msg.ox, p.msg.oy])
          ∧ u.roving.count p + 1 = s.roving.count p)
        ∧ ((∃ q, mine q ∧ q.goesBefore p) → p ∈ u.roving))
  ∧ (∀ x y, s.handsOver x y .trig → s.absorb.roving = s.roving ++ [⟨s.fieldX x, fieldY y, x % 16 + 16 * (y % 16), ⟨(s.tile x y).gcy c, 1, 0, x, y⟩⟩])
  ∧ (∀ x y cause, s.handsOver x y (.alert cause) → s.absorb.halted = true
      ∧ s.absorb.roving = s.roving ++ [⟨s.fieldX x, fieldY y, x % 16 + 16 * (y % 16), ⟨(s.tile x y).gcy c, 2, cause, x, y⟩⟩])
  ∧ (s.arg.nat 3 = 1 → s.memWf = true → Gives (exec .rovingMessage s) fun u => { u with tiles := s.tiles } = s ∧ ∀ x y, x < 256 →
      let t := s.tile x y
      let post := s.arg.nat 2 + t.dbg.toNat / 2 ^ 16
      let here := s.fieldX x = s.arg.nat 0 ∧ y / 16 = s.arg.nat 1
      (¬ here → u.tile x y = t)
      ∧ (here → s.inGrid x y = true → u.tile x y = { t with captureTo := some post, stopReq := if t.dbg.getLsbD 3 then t.stopReq ++ [post] else t.stopReq }))
  ∧ (∀ (l : Launch), s.arg.nat 3 = 2 ∨ s.arg.nat 3 = 3 → s.halted = true → s.launches = [l] → l.phase = .running → l.stop = none → l.runStart ≤ s.arg.nat 2 + 48 →
      Gives (exec .rovingMessage s) fun u => stopAt { u with engines := s.engines, halts := s.halts } l (s.arg.nat 2 + 48) (.halt (s.arg.nat 4) (s.arg.nat 2))
        ∧ (∀ k : Nat, u.engines[k]? = (s.engines[k]?).map fun g => if engineField k = (s.arg.nat 0, s.arg.nat 1) ∧ s.arg.nat 2 ∉ g.stamps then { g with stamps := g.stamps ++ [s.arg.nat 2] } else g)
        ∧ u.halts = s.halts.map fun h => if h.cause = s.arg.nat 4 ∧ h.stamp ≤ s.arg.nat 2 then { h with heard := true } else h)
  ∧ (s.mode = .ready → s.arg.nat 0 ∈ [0xA0, 0xA1, 0xA2, 0xA3, 0xA5, 0xA6, 0xA7, 0xA8, 0xA9, 0xAA, 0xAC, 0xAD] →
      let cause := s.arg.nat 0
      let inWindow := s.arg.nat 1 = 1 ∧ 5 < s.arg.n.length ∧ (cause = 0xA8 ∨ cause = 0xA9 ∨ cause = 0xAA)
      let met : WinCell → Prop := fun w => w.slot = s.arg.nat 4 ∧ w.pos = s.arg.nat 5
      let window : State → Prop := fun u => ∀ k : Nat, u.engines[k]? = (s.engines[k]?).map fun g =>
        if k = s.arg.nat 2 then { g with win := if cause = 0xAA then g.win.map fun w => if met w then { w with bad := true } else w else g.win.filter fun w => !decide (met w) } else g
      (¬ inWindow → Gives (exec .hardwareError s) fun u => Alerts s u cause (s.arg.nat 1) (s.arg.nat 2) (s.arg.nat 3) ∧ { u with halted := s.halted, halts := s.halts, roving := s.roving } = s)
      ∧ (inWindow → cause ≠ 0xA9 → Gives (exec .hardwareError s) fun u => window u ∧ { u with engines := s.engines } = s)
      ∧ (inWindow → cause = 0xA9 → Gives (exec .hardwareError s) fun u => window u ∧ Alerts s u cause 1 (s.arg.nat 2) 0
          ∧ { u with engines := s.engines, halted := s.halted, halts := s.halts, roving := s.roving } = s))
  ∧ (∀ (l : Launch), s.launchOf l.id = some l → s.arg.nat 0 = l.id →
      let put : State → Launch → Prop := fun u l' => u.launchOf l.id = some l' ∧ KeepsDue s u ∧ OnlyRegion s u l
      let saves : State → Prop := fun u => ∀ x y, l.holds x y → ∃ k ∈ (u.tile x y).ckpts, k.launch = l.id ∧ k.off = c - l.tstart ∧ (s.tile x y).savedIn c k.bytes
      let multiple : Nat → Nat → Prop := fun k b => k ≠ 0 ∧ l.tstart < b ∧ (b - l.tstart) % k = 0
      let leftTree : State → Prop := fun u => KeepsDue s u ∧ { u with segs := s.segs, agenda := s.agenda } = s ∧ (∀ g ∈ u.segs, ∀ m ∈ g.members, m.launch ≠ l.id)
        ∧ ∀ g ∈ s.segs, (∃ m ∈ g.members, m.launch ≠ l.id) → ∃ h ∈ u.segs, h.lvl = g.lvl ∧ h.gid = g.gid ∧ h.opening = g.opening
            ∧ h.members.map (fun m => (m.x, m.y, m.launch, m.exc)) = (g.members.filter fun m => m.launch != l.id).map fun m => (m.x, m.y, m.launch, m.exc)
      let abandoned : Tile → Tile := fun t => match t.svc with
        | some v => if v.launch = l.id then { t with svc := none, seq := if v.kind ≠ 2 ∧ t.seq.mode = .run then { t.seq with due := none, hold := .service } else t.seq } else t
        | none => t
      (∀ f cause stamp, l.inRange → l.phase = .running → l.stop = some ⟨f, some c, .halt cause stamp⟩ → s.halted = true → s.halts ≠ [] → (∀ h ∈ s.halts, h.cause ≠ 0xA4 ∧ h.cause ≠ 0xAB) → Gives (exec .launchStop s) fun u =>
        put u { l with behind := none, phase := .halted, stopped := some ⟨c, cause, c - l.tstart⟩, halts := l.halts + 1, discardFrom := some c } ∧ u.owes (c + 16) .commitDecision [l.id, c]
        ∧ (∀ x y, l.holds x y → u.tile x y = (s.tile x y).halted l c) ∧ (∀ g ∈ u.segs, ∀ m ∈ g.members, m.launch = l.id → m.arrived = none ∧ m.ended = false ∧ m.strobes = [])
        ∧ { u with tiles := s.tiles, launches := s.launches, agenda := s.agenda, segs := s.segs } = s)
      -- a thermal emergency, which replays nothing: the launch ends here, and its engines keep what they have yet to decide on
      ∧ (∀ f (h : HaltRec), l.phase = .running → s.launches = [l] → l.stop = some ⟨f, some c, .halt 0xA4 h.stamp⟩ → s.halted = true → s.halts = [h] → h.heard = true → h.cause = 0xA4 → l.node = none → s.messagesOf l.id = false → s.noDispatch = false →
        Gives (exec .launchStop s) fun u => u.launches = [] ∧ u.mode = .thermalHalt ∧ KeepsDue s u ∧ u.owes (c + 16) .commitDecision [l.id, c]
          ∧ Notified s u ⟨0x82, l.cmd.ctx, l.cmd.queue, 0x10, 0xA4, l.cmd.tag, h.stamp, c⟩ (some l.cmd.sess) (s.faultBytes { entry := l.lnrIdx })
          ∧ (∀ j : Nat, (u.engines[j]?).map (·.bank) = (s.engines[j]?).map (·.bank))
          ∧ ((∃ g ∈ s.engines, ∃ w ∈ g.bank, w.launch = l.id) → u.gone = s.gone ++ [{ l with behind := none, phase := .halted, stopped := some ⟨c, 0xA4, c - l.tstart⟩, halts := l.halts + 1, discardFrom := some c }]))
      ∧ (∀ f, l.inRange → l.phase = .running → l.stop = some ⟨f, some c, .preempt⟩ → (∃ x y, l.holds x y ∧ (s.tile x y).drainedAt = none ∧ (s.tile x y).draining = false) → Gives (exec .launchStop s) fun u =>
        put u { l with behind := none, phase := .saving, stopped := some ⟨c, 0, c - l.tstart⟩ } ∧ u.owes (c + 16) .commitDecision [l.id, c] ∧ u.owes (c + 17) .checkpointConfirm [l.id] ∧ u.owes (c + 1) .launchStop [l.id] ∧ saves u
        ∧ (∀ x y, l.holds x y → u.owes (nextSlot x y c) .distaffUpstreamPayload [x, y] ∧ { u.tile x y with ckpts := (s.tile x y).ckpts } = { (s.tile x y).halted l c with saved := 0 })
        ∧ { u with tiles := s.tiles, launches := s.launches, agenda := s.agenda } = s)
      ∧ (∀ f k, k = .kill ∨ (∃ r a, k = StopKind.ctxKill r a) → l.inRange → l.phase = .running → l.stop = some ⟨f, some c, k⟩ → s.preempts = [] → s.halted = false → Gives (exec .launchStop s) fun u =>
        put u { l with behind := none, phase := .killed, discardFrom := some (if k = .kill then c + 1 else c) } ∧ u.owes (c + 16) .commitDecision [l.id, c] ∧ u.owes (c + 1) .launchStop [l.id]
        ∧ (∀ x y, l.holds x y → u.tile x y = ((s.tile x y).halted l c).left c (c + 17)) ∧ { u with tiles := s.tiles, launches := s.launches, agenda := s.agenda, fetch := s.fetch, outbox := s.outbox } = s)
      ∧ (∀ f b k, l.phase = .killed ∨ l.phase = .saving → l.stop = some ⟨f, some b, k⟩ → c = b + 1 → Gives (exec .launchStop s) fun u => leftTree u ∧ Wakes s u)
      ∧ (l.inRange → l.phase = .running → multiple l.lnr.rbsp c ∨ multiple l.lnr.pper c →
          let keep := (multiple l.lnr.rbsp c ∧ l.level ≠ 1) ∨ ∃ f, l.stop = some ⟨f, some c, .preempt⟩
          Gives (exec .checkpoint s) fun u => put u l ∧ { u with tiles := s.tiles, agenda := s.agenda } = s
            ∧ (multiple l.lnr.rbsp c → u.owes (c + 16) .commitDecision [l.id, c] ∧ (l.level ≠ 1 → u.owes (c + 17) .checkpointConfirm [l.id]))
            ∧ (∀ b, c < b → multiple l.lnr.rbsp b ∨ multiple l.lnr.pper b → (∀ e, c < e → multiple l.lnr.rbsp e ∨ multiple l.lnr.pper e → b ≤ e) → u.owes b .checkpoint [l.id])
            ∧ (keep → saves u)
            ∧ ∀ x y, l.holds x y → let t := s.tile x y
                let r := u.tile x y
                { r with ckpts := t.ckpts } = abandoned t ∧ (¬ keep → r.ckpts = t.ckpts)
                ∧ r.ckpts.filter (fun e => e.launch != l.id) = t.ckpts.filter (fun e => e.launch != l.id) ∧ (keep → (r.ckpts.filter fun e => e.launch == l.id).length ≤ 2))
      ∧ (∀ b, b + 17 = c → multiple l.lnr.rbsp b ∨ l.stop.bind (·.b) = some b → (∀ x y, l.holds x y → ∃ k ∈ (s.tile x y).ckpts, k.launch = l.id ∧ k.off + l.tstart = b) → Gives (exec .checkpointConfirm s) fun u =>
        { u with launches := s.launches } = s ∧ u.launchOf l.id = some (if l.phase = .halted ∧ l.stopped.map (·.b) = some b then l else { l with ckpt := b - l.tstart, halts := if l.resumedFrom < b - l.tstart then 0 else l.halts }))
      ∧ (∀ (o : Nat) (ck : Nat → Nat → TileCkpt), l.inRange → l.phase = .fixed → l.resume = some o → o ≠ 0 → c = l.tstart + o → l.preemptAgain = false →
        (∀ x y, l.holds x y → (s.tile x y).ckpts.find? (fun e => e.launch == l.id && e.off == o) = some (ck x y)) → Gives (exec .resumeStart s) fun u => KeepsDue s u ∧ OnlyRegion s u l
          ∧ { u with tiles := s.tiles, launches := s.launches, agenda := s.agenda, segs := s.segs } = s
          ∧ (∃ l', u.launchOf l.id = some l' ∧ { l' with log := l.log, logCount := l.logCount, logLost := l.logLost } = { l with phase := .running, resume := none, resumedFrom := o, ckpt := o, stopped := none }
              ∧ ∀ st, l.stopped = some st → st.cause ≠ 0 → l.log.length < 32 → l'.log = l.log ++ [⟨0xFFFFFFFF, st.cause, 5, 0xFF, 0xFF, min (c - st.b) 0xFFFFFFFF, st.off % 2 ^ 32⟩])
          ∧ ∀ x y, l.holds x y → let b := (ck x y).bytes
              let t := s.tile x y
              let r := u.tile x y
              r.pool = (t.flushV c).pool ∧ r.opm = t.opm ∧ r.cfg0 = t.cfg0 ∧ r.cfg1 = t.cfg1 ∧ r.sel = t.sel ∧ r.log = t.log ∧ r.gofs = t.gofs ∧ r.launch = some l.id ∧ r.mst = BitVec.ofNat _ (leAt b 0xE4 4) &&& 0b10111
              ∧ r.vp = [] ∧ r.fp = [] ∧ r.acts = [] ∧ r.pendc = [] ∧ r.landing = none ∧ r.wrt = [] ∧ (∀ k v, r.claimedAt k v = false) ∧ (∀ k < 4, r.copies.getD k none = none) ∧ r.msq = none ∧ r.latch = [false, false, false]
              ∧ r.cycLatch = none ∧ r.svc = t.svc.filter (fun v => v.kind == 2) ∧ r.base = l.tstart ∧ r.rx = x - l.lnr.x0 ∧ r.ry = y - l.lnr.y0
              ∧ r.router.region = some (l.lnr.x0, l.lnr.y0, l.lnr.w, l.lnr.h) ∧ r.router.entry = leAt b 0xF0 16 % 512 ∧ r.router.upto = c + leAt b 0xF0 16 / 2 ^ 16 % 2 ^ 16
              ∧ (∀ v, (∀ i < 32, 1 ≤ i → r.s32 v i = BitVec.ofNat 32 (leAt b (4 * i) 4)) ∧ (∀ k < 8, 1 ≤ k → r.pr v k = bitAt (leAt b 0x80 1) k) ∧ (∀ k < 4, r.q32 v k = leAt b (0x90 + 4 * k) 4)
                  ∧ (∀ k < 8, r.mreg v k = leAt b (0x100 + 128 * k) 128) ∧ (∀ k < 16, r.spr v (32 + k) = BitVec.ofNat 64 (leAt b (0xA0 + 4 * k) 4) &&& keeps (32 + k))
                  ∧ r.spr v 0 = BitVec.ofNat 64 l.tstart ∧ (let p := s.phys x y; r.spr v 3 = BitVec.ofNat 64 (p.1 + p.2 * 2 ^ 8))
                  ∧ (∀ n ∈ [2, 4, 6, 7, 8, 9, 11, 12, 13, 14, 15, 16, 17, 18, 19, 20, 21, 22, 23, 24, 25, 26], r.spr v n = BitVec.ofNat 64 (leAt b (0x500 + 8 * n) 8) &&& keeps n)
                  ∧ r.spr v 10 = BitVec.ofNat 64 (leAt b 0x550 8 + l.tstart))
              ∧ (leAt b 0xE0 4 ≠ 0xFFFFFFFF → r.seq.mode = .run ∧ r.seq.pc = leAt b 0xE0 4 ∧ r.seq.due = some c ∧ r.iter = some (leAt b 0xE8 8) ∧ r.arr = [false, false, false])
              ∧ (leAt b 0xE0 4 = 0xFFFFFFFF → leAt b 0xE8 8 ≠ 2 ^ 64 - 1 → r.seq.mode = .between ∧ r.iter = some (leAt b 0xE8 8) ∧ r.arr = [false, false, false])
              ∧ (leAt b 0xE0 4 = 0xFFFFFFFF → leAt b 0xE8 8 = 2 ^ 64 - 1 → r.seq.mode = .done ∧ r.iter = none ∧ r.arr = [true, true, true]))
      ∧ (∀ f p j, l.inRange → l.phase = .saving → l.stop = some ⟨f, some p, .preempt⟩ → l.node = none → (∀ x y, l.holds x y → (s.tile x y).saved = 560) → (∀ q ∈ s.up, q.pre = true → q.own ≠ l.id) → s.preempts = [j] → j.left = [l.id] →
        s.contexts.length = 16 → l.cmd.ctx < 16 → Gives (exec .preemptSaveComplete s) fun u => put u { l with phase := .saved, lf := none } ∧ u.preempts = [] ∧ Wakes s u
          ∧ Notified s u ⟨0x81, j.cmd.ctx, j.cmd.queue, 0, 0, j.cmd.tag, 0, c⟩ (some j.cmd.sess) []
          ∧ (let k := if j.cmd.ctx = l.cmd.ctx then (s.ctx l.cmd.ctx).ends j.cmd.tag else s.ctx l.cmd.ctx
             (u.ctx l.cmd.ctx).queues = k.queues.modify l.cmd.queue ({ l.cmd with resume := some l.id } :: ·))
          ∧ ∀ x y, l.holds x y → u.tile x y = { (s.tile x y).left p (c + 1) with saved := 0, ckpts := (s.tile x y).ckpts.filter fun e => e.launch != l.id })
      ∧ (∀ f p k e va q, l.inRange → l.phase = .saving → l.stop = some ⟨f, some p, k⟩ → p + 16 < c → l.node = none → s.contexts.length = 16 → l.cmd.ctx < 16 → e < 2 →
        s.up.find? (fun w => w.pre && w.own == l.id && w.bad == 1 + e && l.lnr.psave * 65536 + 20480 * (w.x - l.lnr.x0 + l.lnr.w * (w.y - l.lnr.y0)) + 32 * w.k == va) = some q → s.arg.nat 1 = e → s.arg.nat 2 = va → s.messagesOf l.id = false →
        Gives (exec .preemptSaveFailure s) fun u => u.launchOf l.id = none
          ∧ Notified s u ⟨0x82, l.cmd.ctx, l.cmd.queue, 0x10, 0x21 + e, l.cmd.tag, c, p⟩ (some l.cmd.sess) (s.faultBytes { x := q.x, y := q.y, entry := l.lnrIdx, xva := va })))
  ∧ (∀ (l : Launch) (h : HaltRec) st, s.halts = [h] → h.heard = true → h.cause ≠ 0xA4 → h.cause ≠ 0xAB → s.halted = true → s.mode = .ready → s.launches = [l] → l.phase = .halted → l.stopped = some st → st.b + 16 < c →
      (s.arg.nat 0 = 1 → s.noDispatch = false → l.level ≠ 1 → l.lnr.rbsp ≠ 0 → (∀ k ∈ l.scripts, k.unit < 48) → l.halts < 8 → Gives (exec .selfTestComplete s) fun u =>
        u.halts = [] ∧ u.halted = false ∧ Wakes s u ∧ u.launches = [{ l with phase := .staged, resume := some l.ckpt, d := c, lf := none, scripts := l.scripts.map fun k => { k with ready := none } }]
        ∧ OnlyRegion s u l ∧ (l.inRange → ∀ x y, l.holds x y → u.tile x y = { s.tile x y with fill := none, loaded := 0, loadedB := 0, ckpts := (s.tile x y).ckpts.filter fun e => !(e.launch == l.id && e.off == st.off && e.off != l.ckpt) })
        ∧ (∀ g ∈ u.engines, (∀ t ∈ g.taints, t.1 ≠ l.id) ∧ ∀ w ∈ g.win, w.launch ≠ l.id)
        ∧ { u with halts := s.halts, halted := s.halted, launches := s.launches, agenda := s.agenda, fetch := s.fetch, reads := s.reads, engines := s.engines, tiles := s.tiles } = s)
      ∧ (∀ f b stamp, s.messagesOf l.id = false → s.arg.nat 0 = 1 → s.noDispatch = false → l.node = none → st.cause ≠ 0 → l.stop = some ⟨f, b, .halt st.cause stamp⟩ → l.level = 1 ∨ l.lnr.rbsp = 0 ∨ (∃ k ∈ l.scripts, 48 ≤ k.unit) →
          Gives (exec .selfTestComplete s) fun u => u.halts = [] ∧ u.halted = false ∧ u.launches = []
            ∧ Notified s u ⟨0x82, l.cmd.ctx, l.cmd.queue, 0x10, st.cause, l.cmd.tag, stamp, st.b⟩ (some l.cmd.sess) (s.faultBytes { entry := l.lnrIdx }))
      ∧ (s.arg.nat 0 ≠ 1 → st.cause ≠ 0 → l.node = none → s.messagesOf l.id = false →
        let ends : Nat → FaultRec → Prop := fun cause r => Gives (exec .selfTestComplete s) fun u => u.halts = [] ∧ u.noDispatch = true ∧ u.launches = [] ∧ u.mode = .serviceOnly ∧ u.remap = s.remap
          ∧ Notified s u ⟨0x82, l.cmd.ctx, l.cmd.queue, 0x10, cause, l.cmd.tag, h.stamp, st.b⟩ (some l.cmd.sess) (s.faultBytes r)
        let tiles := h.cause ∈ [0xA0, 0xA2, 0xA3, 0xA5, 0xAC]
        (h.unitKind = 0 → l.holds h.a h.b → (tiles → canAppend s.mapBytes s.remap (remapAt h.px h.b) = false → ends 0xB0 { x := h.a, y := h.b, entry := l.lnrIdx }) ∧ (¬ tiles → ends 0xB2 { entry := l.lnrIdx }))
        ∧ ∀ x y, h.unitKind = 1 → l.inRange → l.holds x y → engineField h.a = (s.fieldX x, y / 16) → Gives (exec .selfTestComplete s) fun u => u.halts = [] ∧ u.noDispatch = true ∧ u.launches = [] ∧ u.mode = .serviceOnly ∧ u.remap = s.remap
          ∧ ∃ r : FaultRec, r.entry = l.lnrIdx ∧ Notified s u ⟨0x82, l.cmd.ctx, l.cmd.queue, 0x10, 0xB2, l.cmd.tag, h.stamp, st.b⟩ (some l.cmd.sess) (s.faultBytes r)))
  ∧ (∀ (l : Launch), s.launches = [l] → l.cmd.ctx = s.arg.nat 1 → l.phase = .running → l.stop = none →
      (∀ f, s.arg.nat 0 = 0 → let t := s.tile (s.arg.nat 2) (s.arg.nat 3)
        t.frz = some f → t.seq.mode = .frozen → t.launch = some l.id → Gives (exec .contextKill s) fun u =>
          stopAt u l (c + 48) (.ctxKill { x := s.arg.nat 2, y := s.arg.nat 3, entry := l.lnrIdx, xpc := f.xpc, xva := f.xva, xst := f.xst } f.at_))
      ∧ (s.arg.nat 0 = 1 → s.arg.nat 2 < 48 → (∃ g, s.engines[s.physEngine (s.arg.nat 2)]? = some g ∧ ∃ k ∈ g.taints, k.1 = l.id) → Gives (exec .contextKill s) fun u =>
          stopAt u l (c + 48) (.ctxKill { engine := s.arg.nat 2, entry := s.arg.nat 3 } c)))
  -- of a launch that is being saved: on the cycle of p itself, and after it
  ∧ (∀ (l : Launch) f p, s.launches = [l] → l.cmd.ctx = s.arg.nat 1 → l.phase = .saving → l.stop = some ⟨f, some p, .preempt⟩ → l.inRange → s.preempts = [] →
      s.arg.nat 0 = 1 → s.arg.nat 2 < 48 → (∃ g, s.engines[s.physEngine (s.arg.nat 2)]? = some g ∧ ∃ k ∈ g.taints, k.1 = l.id) →
      (p < c → exec .contextKill s = .next s)
      ∧ (p = c → Gives (exec .contextKill s) fun u => KeepsDue s u
          ∧ u.launches = [{ l with stop := some ⟨f, some c, .ctxKill { engine := s.arg.nat 2, entry := s.arg.nat 3 } c⟩, stopped := none, phase := .killed, discardFrom := some c }]
          ∧ (∀ x y, l.holds x y → u.tile x y = (s.tile x y).left c (c + 17)) ∧ { u with tiles := s.tiles, launches := s.launches, agenda := s.agenda, outbox := s.outbox } = s))
/-- R79 to R88, R90 to R93, R112, R127 to R131, R263, R399: a fetch reads each flit of its entry into its window position in time, from the fixing of a resume on when F has passed by then; a flit goes out at T0 + k × IV, poisoned zeros with an ALERT in place of one that is missing or in error; a flit that reaches an engine is there for the entry that expects it, or is recorded as 0x83, after a stop for as long as the edge delays it (R18); a landing joins the open interval or taints it; at b + 16 an engine commits the interval that b closes or discards it, also where the launch has ended since b; the commit's end writes DRAM, the latest landing last, and ends the launch, whose final notification waits for its service messages (R112); on a cycle on which a pending halt may stop the launch an injection or a landing is decided at the end of the cycle; a bridge sends its landed flits as one message and injects the message of its MSG. The cycle at which a commit ends and the bytes of a message that have not come are free values (log 10), that a message taken under EXACT or REPRO is no longer held is the model's reading (log 21), and so are the late refetch, the cycle at which each flit fills its position and the order of landings of one cycle (log 33). -/
def Obligations.StagingEvents : Prop := ∀ (s : State) (l : Launch),
  let c := s.now
  let unit := s.arg.nat 1
  let entry := s.arg.nat 2
  let k := s.arg.nat 3
  let flitOut : State → Nat → Nat → Nat → Nat → Prop := fun u engine link data poison =>
    let p := s.edgeTile engine link
    u.owes (c + s.edgeCost engine) .flitArrival [p.1, p.2.1, p.2.2, data, poison]
  let quiet : State → Prop := fun u => { u with agenda := s.agenda, bridges := s.bridges, fv := s.fv } = s
  (∀ e : Ending, s.arg.nat 0 = e.launch → s.ending.find? (fun o => o.launch == e.launch) = some e →
    (s.messagesOf e.launch = true → (∀ j ∈ s.commits, j.launch = e.launch → s.arg.nat 1 < j.bound) → Gives (exec .commitComplete s) fun u => u = s)
    ∧ (s.messagesOf e.launch = false → e.node = none → e.fate.status = 0 → e.fate.cause = 0 → Gives (exec .commitComplete s) fun u => u.ending = s.ending.erase e
        ∧ Notified s u ⟨0x81, e.cmd.ctx, e.cmd.queue, 0, 0, e.cmd.tag, e.fate.w0, e.fate.w1⟩ (some e.cmd.sess) []))
  ∧ (∀ m b, s.arg.nat 0 = m → s.arg.nat 1 = b → Gives (exec .bridgeMessageArrival s) fun u => { u with bridges := s.bridges } = s
    ∧ ∀ i : Nat, u.bridges[i]? = (s.bridges[i]?).map fun g => if i = m then { g with msgs := (b, s.arg.bytes) :: g.msgs } else g)
  ∧ (∀ side e link, side < 4 → s.arg.nat 2 = 5 + side → s.edgeOf (s.arg.nat 0) (s.arg.nat 1) side = some (e, link) →
      (s.expects e link = true → Gives (exec .flitArrival s) fun u => { u with engines := s.engines } = s
        ∧ ∀ i : Nat, u.engines[i]? = (s.engines[i]?).map fun g => if i = s.physEngine e then
            { g with edge := (link, c, ⟨BitVec.ofNat 512 (s.arg.nat 3), s.arg.nat 4 = 1⟩) :: g.edge.filter fun q => decide (c ≤ q.2.1) } else g)
      ∧ (s.expects e link = false → l.namesLink e link c = true → s.launches = [l] → Gives (exec .flitArrival s) fun u => u = s)
      ∧ (s.expects e link = false → l.namesLink e link c = false → s.launches = [l] → l.holds (s.arg.nat 0) (s.arg.nat 1) →
          (l.phase = .running ∨ ((l.phase = .halted ∨ l.phase = .staged) ∧ ∃ st, l.stopped = some st ∧ c ≤ st.b + s.edgeCost e)
            ∨ ((l.phase = .killed ∨ l.phase = .saving) ∧ ∃ st b, l.stop = some st ∧ st.b = some b ∧ c ≤ b + s.edgeCost e) ∨ (l.phase = .retired ∧ ∃ b, l.retire = some b ∧ c ≤ b + s.edgeCost e)) → Gives (exec .flitArrival s) fun u => { u with launches := s.launches } = s
          ∧ ∃ l', u.launches = [l'] ∧ l'.logCount = l.logCount + 1 ∧ { l' with log := l.log, logCount := l.logCount } = l
            ∧ l'.log = if l.log.length < 32 then l.log ++ [⟨0xFFFFFFFF, 0x83, 6, 0xFF, 0xFF, min e 0xFFFFFFFF, (c - l.tstart) % 2 ^ 32⟩] else l.log))
  -- the interval that b closed is decided on at b + 16, also of a launch that has ended since
  ∧ (s.launchOf l.id = some l ∨ (s.launchOf l.id = none ∧ s.gone.find? (fun g => g.id == l.id) = some l) → s.arg.nat 0 = l.id →
    ∀ b, s.arg.nat 1 = b → c = b + 16 → l.retire = some b ∨ l.stop.bind (·.b) = some b ∨ (l.lnr.rbsp ≠ 0 ∧ l.tstart < b ∧ (b - l.tstart) % l.lnr.rbsp = 0) → (∀ j ∈ s.commits, j.launch = l.id → j.bound ≠ b) →
      let closed : Engine → List Landed := fun g => g.bank.filter fun f => f.launch == l.id && decide (f.at_ ≤ b)
      let may : Engine → Prop := fun g => (∀ t ∈ g.stamps, l.runStart ≤ t + 48 → b < t + 48) ∧ (∀ t ∈ g.taints, t.1 = l.id → b < t.2) ∧ (l.discardFrom.all fun d => decide (b < d)) = true
      let due := (s.enginesOf l).flatMap fun e => let g := s.engines.getD e Engine.idle; if may g then closed g else []
      -- a launch that has ended is forgotten with its last flit
      let last := (∃ g ∈ s.gone, g.id = l.id) ∧ ∀ e ∈ s.engines.zipIdx, ∀ f ∈ e.1.bank, f.launch = l.id → e.2 ∈ s.enginesOf l ∧ f.at_ ≤ b
      Gives (exec .commitDecision s) fun u => { u with agenda := s.agenda, engines := s.engines, commits := s.commits, gone := s.gone, fetch := s.fetch, fv := s.fv } = s ∧ KeepsDue s u
        ∧ u.gone = (if last then s.gone.filter fun g => g.id != l.id else s.gone)
        ∧ (∀ j : Nat, u.engines[j]? = (s.engines[j]?).map fun o =>
            { o with bank := if j ∈ s.enginesOf l then o.bank.filter fun f => !(f.launch == l.id && decide (f.at_ ≤ b)) else o.bank
                     taints := if last then o.taints.filter fun t => t.1 != l.id else o.taints })
        ∧ (due ≠ [] → u.fetch = s.fetch ∧ (∃ d, c ≤ d ∧ d ≤ b + 4112 ∧ u.owes d .commitComplete [l.id, b])
            ∧ ∃ p, u.commits = s.commits ++ [⟨l.id, b, p⟩] ∧ (p.map (·.1)).Nodup ∧ ∀ pa d, (pa, d) ∈ p ↔ ∃ f, (due.filter fun f => f.pa == pa).getLast? = some f ∧ f.data = d)
        ∧ (due = [] → u.commits = s.commits ∧ u.fetch = s.fetch ++ [eventItem (encode .commitComplete).bits ⟨[l.id, b], []⟩]))
  -- the commit of a launch that has ended, also where its final notification waits
  ∧ (s.launchOf l.id = none → s.arg.nat 0 = l.id → (∀ e ∈ s.ending, e.launch = l.id → s.messagesOf l.id = true) → ∀ (b : Nat) (j : CommitJob), s.arg.nat 1 = b → b + 16 ≤ c → (∀ g ∈ s.engines, ∀ f ∈ g.bank, f.launch = l.id → b < f.at_) →
      s.commits = [j] → j.launch = l.id → j.bound ≤ b → s.reads = [] → s.jobs = [] → (∀ e ∈ j.pend, e.1 % 64 = 0) → (j.pend.map (·.1)).Nodup →
      Gives (exec .commitComplete s) fun u => u.commits = [] ∧ { u with commits := s.commits, dram := s.dram } = s
        ∧ ∀ a, u.dram.get a = match j.pend.find? fun e => decide (e.1 ≤ a ∧ a < e.1 + 64) with | some e => BitVec.ofNat 8 (e.2.toNat / 2 ^ (8 * (a - e.1))) | none => s.dram.get a)
  ∧ (s.launchOf l.id = some l → s.arg.nat 0 = l.id →
    let late := ∃ f b k st, l.stop = some ⟨f, b, .halt k st⟩ ∧ f ≤ c
    let acts := late → s.arg.nat 4 ≠ 0
    let deferred : Instr → Nat → Prop := fun i u => late → s.arg.nat 4 = 0 → Gives (exec i s) fun v => { v with agenda := s.agenda } = s ∧ KeepsDue s v
      ∧ ∃ d ∈ v.agenda, d.at_ = c ∧ d.ph = phLate ∧ d.item = eventItem (encode i).bits ⟨[l.id, u, entry, k, 1], []⟩
    (∀ (g : Script) (f : Fetch) (e : ReadEnt), l.script unit = some g → (l.fetches g).filter (fun f => f.entry == entry) = [f] → f.ks ≠ [] → g.reads[entry]? = some e →
      (f.at_ = c ∧ (l.phase = .fixed ∨ l.phase = .running)) ∨ (f.at_ < c ∧ l.phase = .fixed) → (∀ r ∈ s.reads, r.launch = l.id → r.unit = unit → r.entry ≠ entry) →
      Gives (exec .fetchStart s) fun u => { u with agenda := s.agenda, reads := s.reads } = s ∧ KeepsDue s u
        ∧ ∃ new : List PendRead, u.reads = s.reads ++ new ∧ new.length = f.ks.length ∧ (∀ r, new.head? = some r → u.owes r.due .fetchDataArrival [l.id, unit, entry, r.k])
          ∧ ∀ (i : Nat) j, f.ks[i]? = some j → new[i]? = some ⟨l.id, unit, entry, j, e.slot, e.ofs + j, max c (f.at_ + 1200 + (i + 16) / 16), g.pinned (e.va + 64 * j), none⟩)
    ∧ (∀ (r : PendRead) (rest : List PendRead), s.reads = r :: rest → r.launch = l.id → r.unit = unit → r.entry = entry → r.k = k → r.due = c → (∀ q ∈ rest, q.launch = l.id → q.unit = unit → q.entry = entry → q.k ≠ k) →
      r.got = none → s.jobs = [] → s.commits = [] → Gives (exec .fetchDataArrival s) fun u => { u with agenda := s.agenda, reads := s.reads, engines := s.engines } = s ∧ KeepsDue s u ∧ u.reads = rest
        ∧ (∀ q, rest.find? (fun q => q.launch == l.id && q.unit == unit && q.entry == entry) = some q → u.owes (max c q.due) .fetchDataArrival [l.id, unit, entry, q.k])
        ∧ ∀ i : Nat, u.engines[i]? = (s.engines[i]?).map fun g => if i = s.physEngine unit then
            { g with win := ⟨r.slot, r.pos, l.id, BitVec.ofNat 512 (s.dram.nat r.pa 64), false⟩ :: g.win.filter fun w => !(w.slot == r.slot && w.pos == r.pos && w.launch == l.id) } else g)
    ∧ (∀ (g : Script) (e : ReadEnt), l.script unit = some g → g.reads[entry]? = some e → l.phase = .running → l.stop.bind (·.b) ≠ some c → c = l.tstart + (e.t0 + k * e.iv) → k < e.n → l.resumedFrom ≤ e.t0 + k * e.iv →
      let eng := s.physEngine unit
      let cell := (s.engines.getD eng Engine.idle).win.find? fun w => w.launch == l.id && w.slot == e.slot && w.pos == e.ofs + k
      deferred .stagingInject unit ∧ (acts → Gives (exec .stagingInject s) fun u => KeepsDue s u ∧ (k + 1 < e.n → u.owes (c + e.iv) .stagingInject [l.id, unit, entry, k + 1])
        ∧ (∀ w, cell = some w → w.bad = false → flitOut u unit e.link w.data.toNat 0 ∧ { u with agenda := s.agenda } = s)
        ∧ (∀ w, cell = some w → w.bad = true → flitOut u unit e.link 0 1 ∧ Alerts s u 0xAA 1 eng 0 ∧ { u with agenda := s.agenda, halted := s.halted, halts := s.halts, roving := s.roving } = s)
        ∧ (cell = none → flitOut u unit e.link 0 1 ∧ Alerts s u 0xA8 1 eng 0 ∧ { u with agenda := s.agenda, halted := s.halted, halts := s.halts, roving := s.roving } = s)))
    ∧ (∀ (g : Script) (i : Nat) (e : WriteEnt), l.script unit = some g → unit < 48 → entry = g.reads.length + i → g.writes[i]? = some e → l.phase = .running → c = l.tstart + (e.l0 + k * e.iv) → k < e.n →
      l.resumedFrom = 0 ∨ l.resumedFrom < e.l0 + k * e.iv → deferred .stagingWriteLanding unit ∧ (acts → Gives (exec .stagingWriteLanding s) fun u => KeepsDue s u ∧ (k + 1 < e.n → u.owes (c + e.iv) .stagingWriteLanding [l.id, unit, entry, k + 1])
        ∧ ((∃ f : Flit, s.onLink unit e.link = some f ∧ f.poison = false ∧ { u with agenda := s.agenda, engines := s.engines } = s
              ∧ ∀ j : Nat, u.engines[j]? = (s.engines[j]?).map fun o => if j = s.physEngine unit then { o with bank := o.bank ++ [⟨l.id, c, g.pinned (e.va + 64 * k), f.data⟩] } else o)
          ∨ ((∀ f, s.onLink unit e.link = some f → f.poison = true) ∧ { u with agenda := s.agenda, engines := s.engines, launches := s.launches, fetch := s.fetch } = s
              ∧ u.fetch = s.fetch ++ [eventItem (encode .contextKill).bits ⟨[1, l.cmd.ctx, unit, entry], []⟩]
              ∧ (∃ l', u.launchOf l.id = some l' ∧ l'.log = if l.log.length < 32 then l.log ++ [⟨0xFFFFFFFF, 0x85, 6, 0xFF, 0xFF, min unit 0xFFFFFFFF, (c - l.tstart) % 2 ^ 32⟩] else l.log)
              ∧ ∀ j : Nat, u.engines[j]? = (s.engines[j]?).map fun o => if j = s.physEngine unit then { o with taints := o.taints ++ [(l.id, c)] } else o))))
    ∧ (∀ (g : Script) (e : BridgeEnt), l.script unit = some g → 48 ≤ unit → g.ents[entry]? = some e → e.send = true → l.phase = .running → c = l.tstart + (e.t0 + k * e.iv) → k < e.n →
      l.resumedFrom = 0 ∨ l.resumedFrom < e.t0 + k * e.iv → deferred .stagingWriteLanding unit ∧ (acts → Gives (exec .stagingWriteLanding s) fun u => KeepsDue s u ∧ { u with agenda := s.agenda, bridges := s.bridges, fetch := s.fetch, fv := s.fv } = s
        ∧ (k + 1 < e.n → u.owes (c + e.iv) .stagingWriteLanding [l.id, unit, entry, k + 1] ∧ u.fetch = s.fetch)
        ∧ (k + 1 = e.n → u.fetch = s.fetch ++ [eventItem (encode .bridgeSend).bits ⟨[l.id, unit - 48, entry], []⟩])
        ∧ ∃ d, (∀ f, s.onLink (3 * (unit - 48)) e.link = some f → d = f.data ∧ u.fv = s.fv)
          ∧ ∀ j : Nat, u.bridges[j]? = (s.bridges[j]?).map fun o => if j = unit - 48 then { o with landed := o.landed ++ [(l.id, entry, k, d)] } else o))
    ∧ (∀ (b : Nat) (pend : List (Nat × BitVec 512)), s.arg.nat 1 = b → b + 16 ≤ c → (∀ g ∈ s.engines, ∀ f ∈ g.bank, f.launch = l.id → b < f.at_) →
      (s.commits = [] ∧ pend = []) ∨ (∃ j : CommitJob, s.commits = [j] ∧ j.launch = l.id ∧ j.bound ≤ b ∧ j.pend = pend) → s.reads = [] → s.jobs = [] → (∀ e ∈ pend, e.1 % 64 = 0) → (pend.map (·.1)).Nodup → (∀ e ∈ s.ending, e.launch ≠ l.id) →
      let quietly := s.messagesOf l.id = false
      let wrote : State → Prop := fun u => u.commits = [] ∧ ∀ a, u.dram.get a = match pend.find? fun e => decide (e.1 ≤ a ∧ a < e.1 + 64) with | some e => BitVec.ofNat 8 (e.2.toNat / 2 ^ (8 * (a - e.1))) | none => s.dram.get a
      (l.phase ≠ .retired → l.phase ≠ .killed → Gives (exec .commitComplete s) fun u => wrote u ∧ { u with commits := s.commits, dram := s.dram } = s)
      ∧ (l.phase = .retired → l.retire = some b → s.messagesOf l.id = true → Gives (exec .commitComplete s) fun u => wrote u ∧ u.launchOf l.id = none
          ∧ u.ending = s.ending ++ [{ launch := l.id, cmd := l.cmd, node := l.node, fate := ⟨0, 0, l.tstart0.getD 0, b, {}⟩ }])
      ∧ (l.phase = .retired → l.retire = some b → l.node = none → quietly → Gives (exec .commitComplete s) fun u => wrote u ∧ u.launchOf l.id = none
          ∧ Notified s u ⟨0x81, l.cmd.ctx, l.cmd.queue, 0, 0, l.cmd.tag, l.tstart0.getD 0, b⟩ (some l.cmd.sess) [])
      ∧ (∀ f, l.phase = .killed → l.stop = some ⟨f, some b, .kill⟩ → l.node = none → quietly → Gives (exec .commitComplete s) fun u => wrote u ∧ u.launchOf l.id = none
          ∧ Notified s u ⟨0x81, l.cmd.ctx, l.cmd.queue, 2, 0, l.cmd.tag, l.tstart0.getD 0, b⟩ (some l.cmd.sess) [])
      ∧ (∀ f r a, l.phase = .killed → l.stop = some ⟨f, some b, .ctxKill r a⟩ → l.node = none → quietly → Gives (exec .commitComplete s) fun u => wrote u ∧ u.launchOf l.id = none
          ∧ Notified s u ⟨0x82, l.cmd.ctx, l.cmd.queue, 0x11, 0xBE, l.cmd.tag, a, b⟩ (some l.cmd.sess) (s.faultBytes r)))
    ∧ (∀ (port : Nat) (g : Script) (e : BridgeEnt), s.arg.nat 1 = port → l.script (48 + port) = some g → g.ents[entry]? = some e →
      (∀ (h : Bridge) (d : Nat → BitVec 512), e.send = true → s.bridges[port]? = some h → h.landed.filter (fun q => q.1 == l.id && q.2.1 == entry) = (List.range e.n).map (fun j => (l.id, entry, j, d j)) →
        Gives (exec .bridgeSend s) fun u => { u with tx := s.tx, bridges := s.bridges } = s
          ∧ (∃ p : TxPkt, u.tx = s.tx ++ [p] ∧ p.port = port ∧ p.kind = .bridge e.peer e.peerPort e.msg ∧ p.bytes = (List.range e.n).flatMap fun j => leBytes 64 (d j).toNat)
          ∧ ∀ j : Nat, u.bridges[j]? = (s.bridges[j]?).map fun o => if j = port then { o with landed := o.landed.filter fun q => !(q.1 == l.id && q.2.1 == entry) } else o)
      ∧ (e.send = false → l.phase = .running → l.stop.bind (·.b) ≠ some c → c = l.tstart + (e.t0 + k * e.iv) → k < e.n → deferred .bridgeReceiveInject port)
      ∧ (e.send = false → l.phase = .running → l.stop.bind (·.b) ≠ some c → c = l.tstart + (e.t0 + k * e.iv) → k < e.n → acts →
        let h := s.bridges.getD port Bridge.idle
        let msg := h.msgs.find? fun m => m.1 == e.msg
        (∀ q, 0 < k → h.inject.find? (fun q => q.1 == l.id && q.2.1 == entry) = some q → Gives (exec .bridgeReceiveInject s) fun u => KeepsDue s u ∧ quiet u ∧ u.bridges = s.bridges
            ∧ flitOut u (3 * port) e.link (leNat (slice q.2.2.1 (64 * k) 64) % 2 ^ 512) (if q.2.2.2 then 1 else 0) ∧ (k + 1 < e.n → u.owes (c + e.iv) .bridgeReceiveInject [l.id, port, entry, k + 1]))
        ∧ (k = 0 → port < s.bridges.length →
          (∀ m, msg = some m → Gives (exec .bridgeReceiveInject s) fun u => KeepsDue s u ∧ quiet u ∧ (1 < e.n → u.owes (c + e.iv) .bridgeReceiveInject [l.id, port, entry, 1])
              ∧ (∃ bs, bs.length = 64 * e.n ∧ (∀ i < 64 * e.n, i < m.2.length → bs.getD i 0 = m.2.getD i 0) ∧ flitOut u (3 * port) e.link (leNat (slice bs 0 64) % 2 ^ 512) 0
                  ∧ (u.bridges.getD port Bridge.idle).inject.find? (fun q => q.1 == l.id && q.2.1 == entry) = some (l.id, entry, bs, false))
              ∧ (u.bridges.getD port Bridge.idle).msgs = if l.level = 2 then h.msgs else h.msgs.erase m)
          ∧ (msg = none → Gives (exec .bridgeReceiveInject s) fun u => KeepsDue s u ∧ flitOut u (3 * port) e.link 0 (if l.level = 2 then 0 else 1)
              ∧ (1 < e.n → u.owes (c + e.iv) .bridgeReceiveInject [l.id, port, entry, 1])
              ∧ (u.bridges.getD port Bridge.idle).inject.find? (fun q => q.1 == l.id && q.2.1 == entry) = some (l.id, entry, List.replicate (64 * e.n) 0, l.level != 2)
              ∧ (if l.level = 2 then quiet u else Alerts s u 0xAB 1 (s.physEngine (3 * port)) 0 ∧ quiet { u with halted := s.halted, halts := s.halts, roving := s.roving }))))))
/-! The machine as a whole. -/

/-- R273 to R281: for every well-formed instruction the decoder reads from the encoder's words the instruction itself, every operand included, and it accepts no instruction that is not well-formed. -/
def Obligations.DecodeInvertsEncode : Prop :=
  (∀ i : Instr, WellFormed i → decodeItem (encode i) = .instr i) ∧ ∀ (f : FetchItem) (i : Instr), decodeItem f = .instr i → WellFormed i

/-- R160, R161, R245, R276, R280: the spec's own worked words decode to the instructions that they stand for. -/
def Obligations.DecodeWords : Prop :=
  decodeItem ⟨.sa, 0xC0848010⟩ = .instr (.ldw ⟨8, 9, 16⟩) ∧ decodeItem ⟨.sb, 0x02531C00⟩ = .instr (.add ⟨5, 6, 7, 0, 0, false⟩)
  ∧ decodeItem ⟨.sa, 0x40A50001⟩ = .instr (.addi ⟨10, 10, 1⟩) ∧ decodeItem ⟨.sb, 0x40B58001⟩ = .instr (.addi ⟨11, 11, 1⟩)
  ∧ decodeItem ⟨.ct, 0x13C004518000⟩ = .instr (.tree ⟨1, ⟨false, 3, 5⟩, ⟨true, 4, 6⟩, ⟨false, 0, 0⟩, ⟨false, 0, 0⟩⟩)
  ∧ decodeItem ⟨.ct, 0x500004004002⟩ = .instr (.loopCounted ⟨0, 0, 4, 2⟩ 4) ∧ decodeItem ⟨.ct, 0x60000000003C⟩ = .instr (.waitc ⟨false, 0, 60⟩)
  ∧ decodeItem ⟨.ct, 0xC00000000000⟩ = .instr .endS ∧ decodeItem ⟨.word, 0x9E3779B11FF0⟩ = .instr (.lit ⟨0, 0⟩ 0x9E3779B1) ∧ decodeItem ⟨.word, 0⟩ = .instr (.nop ⟨0, 0⟩)
  ∧ decodeItem ⟨.cp, 0x0240CA010205⟩ = .instr (.vld { v := 8, bn := 3, x := 5, imm := 16, cls := 2, msk := 1, nb := 1 })
  ∧ decodeItem ⟨.cp, 0x086148A00603⟩ = .instr (.vstx { v := 12, bn := 5, x := 4, vi := 20, cls := 6, msk := 0, nb := 3 })
  ∧ decodeItem ⟨.cp, 0x10490AA03100⟩ = .instr (.aadd { s := 9, bn := 4, x := 5, v := 10, imm := 3, cls := 1 })
  ∧ decodeItem ⟨.cp, 0x2A008C000321⟩ = .instr (.sendm { bn := 2, x := 6, imm := 0, cls := 3, port := 1, nb := 1 })
  ∧ decodeItem ⟨.cp, 0x2801D0000301⟩ = .instr (.recvm { bn := 7, x := 8, imm := 0, cls := 3, nb := 1 })
  ∧ decodeItem ⟨.cp, 0x35000C000480⟩ = .instr (.cpyg { ch := 2, q := 0, s0 := 0, d0 := 6, g0 := 0, cls := 4, st := 0x80 })
  ∧ decodeItem ⟨.cp, 0x400008002000⟩ = .instr (.fence { mask := 4, f := 2 }) ∧ decodeItem ⟨.cp, 0x483400000000⟩ = .instr (.pmode { sub := 1, rule := 2, ety := true })
  ∧ decodeItem ⟨.cp, 0x501800000F00⟩ = .instr (.svsave { s := 3, cls := 15 })

/-- A step executes the item that stands first in the fetch queue: it is decoded, its operands are latched, exec gives the state, and what the tiles hand over is drained (logs 3, 4); an item that the loader rejects (R282) stops the step by its cause, a choice of the model (log 27); with nothing fetched, what falls due comes about. -/
def Obligations.StepRunsDecoded : Prop := ∀ (s : State),
  (∀ f rest i, s.fetch = f :: rest → decodeItem f = .instr i →
    step s = match exec i (s.latch f rest) with
      | .next t => .next t.absorb
      | .fault r => .fault r
      | .refused r => .refused r)
  ∧ (∀ f rest k, s.fetch = f :: rest → decodeItem f = .bad k → step s = .fault (.rejected k))
  ∧ (s.fetch = [] → step s = .next s.tick)
  ∧ ∀ f rest, let t := s.latch f rest
      t.fetch = rest ∧ t.arg = f.arg ∧ t.cur = { s.cur with slot := slotCode f.cls } ∧ { t with fetch := s.fetch, arg := s.arg, cur := s.cur } = s

/-- R25, R27, R31, R264 and log 1: after reset the module is in state RESET, its measurement registers are zero, n is 64 and no change of it is pending; there is no session, open context, queued command, launch or image; no tile runs, every tile's debug words are zero; every memory is in canonical form; and power-on is the first event. -/
def Obligations.ResetState : Prop :=
  let s := State.reset
  s.mode = .reset ∧ s.meas.length = 8 ∧ (∀ m ∈ s.meas, m = List.replicate 48 0) ∧ s.n = 64 ∧ s.nNext = none ∧ s.sessions = [] ∧ s.launches = [] ∧ s.runs = [] ∧ s.jobs = [] ∧ s.loads = []
  ∧ (∀ c, (s.ctx c).opening = 0 ∧ (s.ctx c).images = [] ∧ (s.ctx c).graphs = [] ∧ ∀ q ∈ (s.ctx c).queues, q = [])
  ∧ (∀ x y, (s.tile x y).seq.mode = .idle ∧ (s.tile x y).launch = none ∧ (s.tile x y).dbg = 0 ∧ (s.tile x y).filt = 0 ∧ (s.tile x y).memWf = true)
  ∧ s.memWf = true ∧ s.fetch = [] ∧ s.agenda.map (·.item) = [encode .powerOnReset]

/-- Every step keeps every memory of the machine in its canonical form: addresses strictly rising, no byte listed that reads as an unlisted one (log 2); and tiles listed once, in rising order. -/
def Obligations.StepKeepsMemories : Prop := ∀ (s t : State), s.memWf = true → step s = .next t → t.memWf = true
end

