-- ==== Sys2Proof/Laws/Encoding.lean ====
section
/-! SUPPORT. The fields of a slot read back from its encoder's bits: for each layout, the opcode above the bits, the fields themselves, and the zero of its unassigned bits. -/

namespace Sys2Proof

/-- A listed opcode with zero unassigned bits and no load cause is its instruction. -/
theorem check_ok {w : Nat} {z : List (Nat × Nat)} {i : Instr} (hz : zeros w z = true) (h : WellFormed i) : check w z i = .instr i := by
  have h' : i.loadCause = none := h
  simp [check, hz, h']
/-- A bit is set when the number above it is odd. -/
theorem bit_eq_true {w n : Nat} (h : w / 2 ^ n % 2 = 1) : bit w n = true := by simp [bit, h]
theorem bit_eq {w n : Nat} {b : Bool} (h : w / 2 ^ n % 2 = b.toNat) : (w / 2 ^ n % 2 == 1) = b := by rw [h]; cases b <;> rfl
theorem bit_eq_false {w n : Nat} (h : w / 2 ^ n % 2 = 0) : bit w n = false := by simp [bit, h]

theorem RR.op_toBits (k : Nat) (o : RR) : (k * 2 ^ 25 + o.toBits) / 2 ^ 25 = k := by
  have := o.d.isLt; have := o.a.isLt; have := o.b.isLt; have := o.c.isLt; have := o.x.isLt; have := o.kb.toNat_lt
  simp only [RR.toBits]; omega

theorem RR.of_toBits (k : Nat) (o : RR) : RR.ofBits (k * 2 ^ 25 + o.toBits) = o := by
  have := o.d.isLt; have := o.a.isLt; have := o.b.isLt; have := o.c.isLt; have := o.x.isLt; have := o.kb.toNat_lt
  rcases o with ⟨d, a, b, c, x, kb⟩
  simp only [RR.ofBits, RR.toBits, fld, bit, RR.mk.injEq] at *
  refine ⟨BitVec.eq_of_toNat_eq ?_, BitVec.eq_of_toNat_eq ?_, BitVec.eq_of_toNat_eq ?_, BitVec.eq_of_toNat_eq ?_, BitVec.eq_of_toNat_eq ?_, ?_⟩
  all_goals first | (simp only [BitVec.toNat_ofNat]; omega) | exact bit_eq (by omega)

theorem RR.zeros_toBits (k : Nat) (o : RR) : zeros (k * 2 ^ 25 + o.toBits) [(1, 1)] = true := by
  have := o.d.isLt; have := o.a.isLt; have := o.b.isLt; have := o.c.isLt; have := o.x.isLt; have := o.kb.toNat_lt
  simp only [zeros, RR.toBits, List.all_cons, List.all_nil, Bool.and_true, beq_iff_eq]; omega

theorem RI.op_toBits (k : Nat) (o : RI) : (k * 2 ^ 25 + o.toBits) / 2 ^ 25 = k := by
  have := o.d.isLt; have := o.a.isLt; have := o.imm.isLt
  simp only [RI.toBits]; omega

theorem RI.of_toBits (k : Nat) (o : RI) : RI.ofBits (k * 2 ^ 25 + o.toBits) = o := by
  have := o.d.isLt; have := o.a.isLt; have := o.imm.isLt
  rcases o with ⟨d, a, imm⟩
  simp only [RI.ofBits, RI.toBits, fld, RI.mk.injEq] at *
  refine ⟨BitVec.eq_of_toNat_eq ?_, BitVec.eq_of_toNat_eq ?_, BitVec.eq_of_toNat_eq ?_⟩
  all_goals (simp only [BitVec.toNat_ofNat]; omega)

theorem LI.op_toBits (k : Nat) (o : LI) : (k * 2 ^ 25 + o.toBits) / 2 ^ 25 = k := by
  have := o.d.isLt; have := o.imm.isLt
  simp only [LI.toBits]; omega

theorem LI.of_toBits (k : Nat) (o : LI) : LI.ofBits (k * 2 ^ 25 + o.toBits) = o := by
  have := o.d.isLt; have := o.imm.isLt
  rcases o with ⟨d, imm⟩
  simp only [LI.ofBits, LI.toBits, fld, LI.mk.injEq] at *
  refine ⟨BitVec.eq_of_toNat_eq ?_, BitVec.eq_of_toNat_eq ?_⟩
  all_goals (simp only [BitVec.toNat_ofNat]; omega)

theorem PC.op_toBits (k : Nat) (o : PC) : (k * 2 ^ 25 + o.toBits) / 2 ^ 25 = k := by
  have := o.pd.isLt; have := o.a.isLt; have := o.b.isLt; have := o.kb.toNat_lt
  simp only [PC.toBits]; omega

theorem PC.of_toBits (k : Nat) (o : PC) : PC.ofBits (k * 2 ^ 25 + o.toBits) = o := by
  have := o.pd.isLt; have := o.a.isLt; have := o.b.isLt; have := o.kb.toNat_lt
  rcases o with ⟨pd, a, b, kb⟩
  simp only [PC.ofBits, PC.toBits, fld, bit, PC.mk.injEq] at *
  refine ⟨BitVec.eq_of_toNat_eq ?_, BitVec.eq_of_toNat_eq ?_, BitVec.eq_of_toNat_eq ?_, ?_⟩
  all_goals first | (simp only [BitVec.toNat_ofNat]; omega) | exact bit_eq (by omega)

theorem PC.zeros_toBits (k : Nat) (o : PC) : zeros (k * 2 ^ 25 + o.toBits) [(9, 1), (24, 23)] = true := by
  have := o.pd.isLt; have := o.a.isLt; have := o.b.isLt; have := o.kb.toNat_lt
  simp only [zeros, PC.toBits, List.all_cons, List.all_nil, Bool.and_true, Bool.and_eq_true, beq_iff_eq]; omega

theorem PL.op_toBits (k : Nat) (o : PL) : (k * 2 ^ 25 + o.toBits) / 2 ^ 25 = k := by
  have := o.pd.isLt; have := o.pa.isLt; have := o.pb.isLt
  simp only [PL.toBits]; omega

theorem PL.of_toBits (k : Nat) (o : PL) : PL.ofBits (k * 2 ^ 25 + o.toBits) = o := by
  have := o.pd.isLt; have := o.pa.isLt; have := o.pb.isLt
  rcases o with ⟨pd, pa, pb⟩
  simp only [PL.ofBits, PL.toBits, fld, PL.mk.injEq] at *
  refine ⟨BitVec.eq_of_toNat_eq ?_, BitVec.eq_of_toNat_eq ?_, BitVec.eq_of_toNat_eq ?_⟩
  all_goals (simp only [BitVec.toNat_ofNat]; omega)

theorem PL.zeros_toBits (k : Nat) (o : PL) : zeros (k * 2 ^ 25 + o.toBits) [(9, 0), (14, 13), (19, 18), (24, 23)] = true := by
  have := o.pd.isLt; have := o.pa.isLt; have := o.pb.isLt
  simp only [zeros, PL.toBits, List.all_cons, List.all_nil, Bool.and_true, Bool.and_eq_true, beq_iff_eq]; omega

theorem TreeOp.op_toBits (k : Nat) (o : TreeOp) : (k * 2 ^ 44 + o.toBits) / 2 ^ 44 = k := by
  have := o.last.isLt; have := o.t0.neg.toNat_lt; have := o.t0.pred.isLt; have := o.t0.target.isLt; have := o.t1.neg.toNat_lt; have := o.t1.pred.isLt; have := o.t1.target.isLt; have := o.t2.neg.toNat_lt; have := o.t2.pred.isLt; have := o.t2.target.isLt; have := o.t3.neg.toNat_lt; have := o.t3.pred.isLt; have := o.t3.target.isLt
  simp only [TreeOp.toBits, TreeTest.toBits]; omega

theorem TreeTest.ext' {a b : TreeTest} (h : a.neg = b.neg) (h' : a.pred = b.pred) (h'' : a.target = b.target) : a = b := by
  cases a; cases b; simp_all
theorem TreeOp.of_toBits (k : Nat) (o : TreeOp) : TreeOp.ofBits (k * 2 ^ 44 + o.toBits) = o := by
  have := o.last.isLt; have := o.t0.neg.toNat_lt; have := o.t0.pred.isLt; have := o.t0.target.isLt; have := o.t1.neg.toNat_lt; have := o.t1.pred.isLt; have := o.t1.target.isLt; have := o.t2.neg.toNat_lt; have := o.t2.pred.isLt; have := o.t2.target.isLt; have := o.t3.neg.toNat_lt; have := o.t3.pred.isLt; have := o.t3.target.isLt
  rcases o with ⟨last, ⟨n0, p0, q0⟩, ⟨n1, p1, q1⟩, ⟨n2, p2, q2⟩, ⟨n3, p3, q3⟩⟩
  simp only [TreeOp.ofBits, TreeTest.ofBits, TreeOp.toBits, TreeTest.toBits, fld, bit, TreeOp.mk.injEq, TreeTest.mk.injEq] at *
  refine ⟨BitVec.eq_of_toNat_eq ?_, ⟨?_, BitVec.eq_of_toNat_eq ?_, BitVec.eq_of_toNat_eq ?_⟩, ⟨?_, BitVec.eq_of_toNat_eq ?_, BitVec.eq_of_toNat_eq ?_⟩,
    ⟨?_, BitVec.eq_of_toNat_eq ?_, BitVec.eq_of_toNat_eq ?_⟩, ⟨?_, BitVec.eq_of_toNat_eq ?_, BitVec.eq_of_toNat_eq ?_⟩⟩
  all_goals first | (simp only [BitVec.toNat_ofNat]; omega) | exact bit_eq (by omega)

theorem TreeOp.zeros_toBits (k : Nat) (o : TreeOp) : zeros (k * 2 ^ 44 + o.toBits) [(1, 0)] = true := by
  have := o.last.isLt; have := o.t0.neg.toNat_lt; have := o.t0.pred.isLt; have := o.t0.target.isLt; have := o.t1.neg.toNat_lt; have := o.t1.pred.isLt; have := o.t1.target.isLt; have := o.t2.neg.toNat_lt; have := o.t2.pred.isLt; have := o.t2.target.isLt; have := o.t3.neg.toNat_lt; have := o.t3.pred.isLt; have := o.t3.target.isLt
  simp only [zeros, TreeOp.toBits, TreeTest.toBits, List.all_cons, List.all_nil, Bool.and_true, beq_iff_eq]; omega

theorem WaitOp.op_toBits (k : Nat) (o : WaitOp) : (k * 2 ^ 44 + o.toBits) / 2 ^ 44 = k := by
  have := o.log.toNat_lt; have := o.b.isLt; have := o.imm.isLt
  simp only [WaitOp.toBits]; omega

theorem WaitOp.of_toBits (k : Nat) (o : WaitOp) : WaitOp.ofBits (k * 2 ^ 44 + o.toBits) = o := by
  have := o.log.toNat_lt; have := o.b.isLt; have := o.imm.isLt
  rcases o with ⟨log, b, imm⟩
  simp only [WaitOp.ofBits, WaitOp.toBits, fld, bit, WaitOp.mk.injEq] at *
  refine ⟨?_, BitVec.eq_of_toNat_eq ?_, BitVec.eq_of_toNat_eq ?_⟩
  all_goals first | (simp only [BitVec.toNat_ofNat]; omega) | exact bit_eq (by omega)

theorem BarwOp.op_toBits (k : Nat) (o : BarwOp) : (k * 2 ^ 44 + o.toBits) / 2 ^ 44 = k := by
  have := o.lvl.isLt; have := o.maxw.isLt; have := o.bound.isLt
  simp only [BarwOp.toBits]; omega

theorem BarwOp.of_toBits (k : Nat) (o : BarwOp) : BarwOp.ofBits (k * 2 ^ 44 + o.toBits) = o := by
  have := o.lvl.isLt; have := o.maxw.isLt; have := o.bound.isLt
  rcases o with ⟨lvl, maxw, bound⟩
  simp only [BarwOp.ofBits, BarwOp.toBits, fld, BarwOp.mk.injEq] at *
  refine ⟨BitVec.eq_of_toNat_eq ?_, BitVec.eq_of_toNat_eq ?_, BitVec.eq_of_toNat_eq ?_⟩
  all_goals (simp only [BitVec.toNat_ofNat]; omega)

theorem BarwOp.zeros_toBits (k : Nat) (o : BarwOp) : zeros (k * 2 ^ 44 + o.toBits) [(41, 40)] = true := by
  have := o.lvl.isLt; have := o.maxw.isLt; have := o.bound.isLt
  simp only [zeros, BarwOp.toBits, List.all_cons, List.all_nil, Bool.and_true, beq_iff_eq]; omega

theorem VxOp.op_toBits (k : Nat) (o : VxOp) : (k * 2 ^ 40 + o.toBits) / 2 ^ 40 = k := by
  have := o.vd.isLt; have := o.va.isLt; have := o.vb.isLt; have := o.vc.isLt; have := o.mask.isLt; have := o.beats.isLt; have := o.ty.isLt; have := o.md.isLt
  simp only [VxOp.toBits]; omega

theorem VxOp.of_toBits (k : Nat) (o : VxOp) : VxOp.ofBits (k * 2 ^ 40 + o.toBits) = o := by
  have := o.vd.isLt; have := o.va.isLt; have := o.vb.isLt; have := o.vc.isLt; have := o.mask.isLt; have := o.beats.isLt; have := o.ty.isLt; have := o.md.isLt
  rcases o with ⟨vd, va, vb, vc, mask, beats, ty, md⟩
  simp only [VxOp.ofBits, VxOp.toBits, fld, VxOp.mk.injEq] at *
  refine ⟨BitVec.eq_of_toNat_eq ?_, BitVec.eq_of_toNat_eq ?_, BitVec.eq_of_toNat_eq ?_, BitVec.eq_of_toNat_eq ?_, BitVec.eq_of_toNat_eq ?_, BitVec.eq_of_toNat_eq ?_, BitVec.eq_of_toNat_eq ?_, BitVec.eq_of_toNat_eq ?_⟩
  all_goals (simp only [BitVec.toNat_ofNat]; omega)

theorem MsqOp.op_toBits (k : Nat) (o : MsqOp) : (k * 2 ^ 27 + o.toBits) / 2 ^ 27 = k := by
  have := o.sa.isLt; have := o.sb.isLt; have := o.fe.isLt; have := o.beats.isLt; have := o.blk.isLt; have := o.acc.toNat_lt
  simp only [MsqOp.toBits]; omega

theorem MsqOp.of_toBits (k : Nat) (o : MsqOp) : MsqOp.ofBits (k * 2 ^ 27 + o.toBits) = o := by
  have := o.sa.isLt; have := o.sb.isLt; have := o.fe.isLt; have := o.beats.isLt; have := o.blk.isLt; have := o.acc.toNat_lt
  rcases o with ⟨sa, sb, fe, beats, blk, acc⟩
  simp only [MsqOp.ofBits, MsqOp.toBits, fld, bit, MsqOp.mk.injEq] at *
  refine ⟨BitVec.eq_of_toNat_eq ?_, BitVec.eq_of_toNat_eq ?_, BitVec.eq_of_toNat_eq ?_, BitVec.eq_of_toNat_eq ?_, BitVec.eq_of_toNat_eq ?_, ?_⟩
  all_goals first | (simp only [BitVec.toNat_ofNat]; omega) | exact bit_eq (by omega)

theorem DrainOp.op_toBits (k : Nat) (o : DrainOp) : (k * 2 ^ 27 + o.toBits) / 2 ^ 27 = k := by
  have := o.bn.isLt; have := o.x.isLt; have := o.blk.isLt
  simp only [DrainOp.toBits]; omega

theorem DrainOp.of_toBits (k : Nat) (o : DrainOp) : DrainOp.ofBits (k * 2 ^ 27 + o.toBits) = o := by
  have := o.bn.isLt; have := o.x.isLt; have := o.blk.isLt
  rcases o with ⟨bn, x, blk⟩
  simp only [DrainOp.ofBits, DrainOp.toBits, fld, DrainOp.mk.injEq] at *
  refine ⟨BitVec.eq_of_toNat_eq ?_, BitVec.eq_of_toNat_eq ?_, BitVec.eq_of_toNat_eq ?_⟩
  all_goals (simp only [BitVec.toNat_ofNat]; omega)

theorem DrainOp.zeros_toBits (k : Nat) (o : DrainOp) : zeros (k * 2 ^ 27 + o.toBits) [(0, 0), (16, 8)] = true := by
  have := o.bn.isLt; have := o.x.isLt; have := o.blk.isLt
  simp only [zeros, DrainOp.toBits, List.all_cons, List.all_nil, Bool.and_true, Bool.and_eq_true, beq_iff_eq]; omega

theorem DrainMOp.op_toBits (k : Nat) (o : DrainMOp) : (k * 2 ^ 27 + o.toBits) / 2 ^ 27 = k := by
  have := o.bn.isLt; have := o.x.isLt; have := o.mr.isLt; have := o.mc.isLt; have := o.zm.toNat_lt; have := o.blk.isLt
  simp only [DrainMOp.toBits]; omega

theorem DrainMOp.of_toBits (k : Nat) (o : DrainMOp) : DrainMOp.ofBits (k * 2 ^ 27 + o.toBits) = o := by
  have := o.bn.isLt; have := o.x.isLt; have := o.mr.isLt; have := o.mc.isLt; have := o.zm.toNat_lt; have := o.blk.isLt
  rcases o with ⟨bn, x, mr, mc, zm, blk⟩
  simp only [DrainMOp.ofBits, DrainMOp.toBits, fld, bit, DrainMOp.mk.injEq] at *
  refine ⟨BitVec.eq_of_toNat_eq ?_, BitVec.eq_of_toNat_eq ?_, BitVec.eq_of_toNat_eq ?_, BitVec.eq_of_toNat_eq ?_, ?_, BitVec.eq_of_toNat_eq ?_⟩
  all_goals first | (simp only [BitVec.toNat_ofNat]; omega) | exact bit_eq (by omega)

theorem DrainMOp.zeros_toBits (k : Nat) (o : DrainMOp) : zeros (k * 2 ^ 27 + o.toBits) [(0, 0), (9, 8)] = true := by
  have := o.bn.isLt; have := o.x.isLt; have := o.mr.isLt; have := o.mc.isLt; have := o.zm.toNat_lt; have := o.blk.isLt
  simp only [zeros, DrainMOp.toBits, List.all_cons, List.all_nil, Bool.and_true, Bool.and_eq_true, beq_iff_eq]; omega

theorem SclOp.op_toBits (k : Nat) (o : SclOp) : (k * 2 ^ 27 + o.toBits) / 2 ^ 27 = k := by
  have := o.bank.toNat_lt; have := o.v.isLt; have := o.idx.isLt
  simp only [SclOp.toBits]; omega

theorem SclOp.of_toBits (k : Nat) (o : SclOp) : SclOp.ofBits (k * 2 ^ 27 + o.toBits) = o := by
  have := o.bank.toNat_lt; have := o.v.isLt; have := o.idx.isLt
  rcases o with ⟨bank, v, idx⟩
  simp only [SclOp.ofBits, SclOp.toBits, fld, bit, SclOp.mk.injEq] at *
  refine ⟨?_, BitVec.eq_of_toNat_eq ?_, BitVec.eq_of_toNat_eq ?_⟩
  all_goals first | (simp only [BitVec.toNat_ofNat]; omega) | exact bit_eq (by omega)

theorem SclOp.zeros_toBits (k : Nat) (o : SclOp) : zeros (k * 2 ^ 27 + o.toBits) [(11, 0)] = true := by
  have := o.bank.toNat_lt; have := o.v.isLt; have := o.idx.isLt
  simp only [zeros, SclOp.toBits, List.all_cons, List.all_nil, Bool.and_true, beq_iff_eq]; omega

theorem StatOp.op_toBits (k : Nat) (o : StatOp) : (k * 2 ^ 27 + o.toBits) / 2 ^ 27 = k := by
  have := o.d.isLt; have := o.clr.toNat_lt
  simp only [StatOp.toBits]; omega

theorem StatOp.of_toBits (k : Nat) (o : StatOp) : StatOp.ofBits (k * 2 ^ 27 + o.toBits) = o := by
  have := o.d.isLt; have := o.clr.toNat_lt
  rcases o with ⟨d, clr⟩
  simp only [StatOp.ofBits, StatOp.toBits, fld, bit, StatOp.mk.injEq] at *
  refine ⟨BitVec.eq_of_toNat_eq ?_, ?_⟩
  all_goals first | (simp only [BitVec.toNat_ofNat]; omega) | exact bit_eq (by omega)

theorem StatOp.zeros_toBits (k : Nat) (o : StatOp) : zeros (k * 2 ^ 27 + o.toBits) [(20, 0)] = true := by
  have := o.d.isLt; have := o.clr.toNat_lt
  simp only [zeros, StatOp.toBits, List.all_cons, List.all_nil, Bool.and_true, beq_iff_eq]; omega

theorem VMemOp.op_toBits (k : Nat) (o : VMemOp) : (k * 2 ^ 41 + o.toBits) / 2 ^ 41 = k := by
  have := o.v.isLt; have := o.bn.isLt; have := o.x.isLt; have := o.imm.isLt; have := o.cls.isLt; have := o.msk.isLt; have := o.nb.isLt
  simp only [VMemOp.toBits]; omega

theorem VMemOp.of_toBits (k : Nat) (o : VMemOp) : VMemOp.ofBits (k * 2 ^ 41 + o.toBits) = o := by
  have := o.v.isLt; have := o.bn.isLt; have := o.x.isLt; have := o.imm.isLt; have := o.cls.isLt; have := o.msk.isLt; have := o.nb.isLt
  rcases o with ⟨v, bn, x, imm, cls, msk, nb⟩
  simp only [VMemOp.ofBits, VMemOp.toBits, fld, VMemOp.mk.injEq] at *
  refine ⟨BitVec.eq_of_toNat_eq ?_, BitVec.eq_of_toNat_eq ?_, BitVec.eq_of_toNat_eq ?_, BitVec.eq_of_toNat_eq ?_, BitVec.eq_of_toNat_eq ?_, BitVec.eq_of_toNat_eq ?_, BitVec.eq_of_toNat_eq ?_⟩
  all_goals (simp only [BitVec.toNat_ofNat]; omega)

theorem VMemOp.zeros_toBits (k : Nat) (o : VMemOp) : zeros (k * 2 ^ 41 + o.toBits) [(7, 5)] = true := by
  have := o.v.isLt; have := o.bn.isLt; have := o.x.isLt; have := o.imm.isLt; have := o.cls.isLt; have := o.msk.isLt; have := o.nb.isLt
  simp only [zeros, VMemOp.toBits, List.all_cons, List.all_nil, Bool.and_true, beq_iff_eq]; omega

theorem VMemXOp.op_toBits (k : Nat) (o : VMemXOp) : (k * 2 ^ 41 + o.toBits) / 2 ^ 41 = k := by
  have := o.v.isLt; have := o.bn.isLt; have := o.x.isLt; have := o.vi.isLt; have := o.cls.isLt; have := o.msk.isLt; have := o.nb.isLt
  simp only [VMemXOp.toBits]; omega

theorem VMemXOp.of_toBits (k : Nat) (o : VMemXOp) : VMemXOp.ofBits (k * 2 ^ 41 + o.toBits) = o := by
  have := o.v.isLt; have := o.bn.isLt; have := o.x.isLt; have := o.vi.isLt; have := o.cls.isLt; have := o.msk.isLt; have := o.nb.isLt
  rcases o with ⟨v, bn, x, vi, cls, msk, nb⟩
  simp only [VMemXOp.ofBits, VMemXOp.toBits, fld, VMemXOp.mk.injEq] at *
  refine ⟨BitVec.eq_of_toNat_eq ?_, BitVec.eq_of_toNat_eq ?_, BitVec.eq_of_toNat_eq ?_, BitVec.eq_of_toNat_eq ?_, BitVec.eq_of_toNat_eq ?_, BitVec.eq_of_toNat_eq ?_, BitVec.eq_of_toNat_eq ?_⟩
  all_goals (simp only [BitVec.toNat_ofNat]; omega)

theorem VMemXOp.zeros_toBits (k : Nat) (o : VMemXOp) : zeros (k * 2 ^ 41 + o.toBits) [(7, 5), (18, 12)] = true := by
  have := o.v.isLt; have := o.bn.isLt; have := o.x.isLt; have := o.vi.isLt; have := o.cls.isLt; have := o.msk.isLt; have := o.nb.isLt
  simp only [zeros, VMemXOp.toBits, List.all_cons, List.all_nil, Bool.and_true, Bool.and_eq_true, beq_iff_eq]; omega

theorem AtomOp.op_toBits (k : Nat) (o : AtomOp) : (k * 2 ^ 41 + o.toBits) / 2 ^ 41 = k := by
  have := o.s.isLt; have := o.bn.isLt; have := o.x.isLt; have := o.v.isLt; have := o.imm.isLt; have := o.cls.isLt
  simp only [AtomOp.toBits]; omega

theorem AtomOp.of_toBits (k : Nat) (o : AtomOp) : AtomOp.ofBits (k * 2 ^ 41 + o.toBits) = o := by
  have := o.s.isLt; have := o.bn.isLt; have := o.x.isLt; have := o.v.isLt; have := o.imm.isLt; have := o.cls.isLt
  rcases o with ⟨s, bn, x, v, imm, cls⟩
  simp only [AtomOp.ofBits, AtomOp.toBits, fld, AtomOp.mk.injEq] at *
  refine ⟨BitVec.eq_of_toNat_eq ?_, BitVec.eq_of_toNat_eq ?_, BitVec.eq_of_toNat_eq ?_, BitVec.eq_of_toNat_eq ?_, BitVec.eq_of_toNat_eq ?_, BitVec.eq_of_toNat_eq ?_⟩
  all_goals (simp only [BitVec.toNat_ofNat]; omega)

theorem AtomOp.zeros_toBits (k : Nat) (o : AtomOp) : zeros (k * 2 ^ 41 + o.toBits) [(7, 0), (40, 40)] = true := by
  have := o.s.isLt; have := o.bn.isLt; have := o.x.isLt; have := o.v.isLt; have := o.imm.isLt; have := o.cls.isLt
  simp only [zeros, AtomOp.toBits, List.all_cons, List.all_nil, Bool.and_true, Bool.and_eq_true, beq_iff_eq]; omega

theorem SendOp.op_toBits (k : Nat) (o : SendOp) : (k * 2 ^ 41 + o.toBits) / 2 ^ 41 = k := by
  have := o.v.isLt; have := o.cls.isLt; have := o.port.isLt; have := o.nb.isLt
  simp only [SendOp.toBits]; omega

theorem SendOp.of_toBits (k : Nat) (o : SendOp) : SendOp.ofBits (k * 2 ^ 41 + o.toBits) = o := by
  have := o.v.isLt; have := o.cls.isLt; have := o.port.isLt; have := o.nb.isLt
  rcases o with ⟨v, cls, port, nb⟩
  simp only [SendOp.ofBits, SendOp.toBits, fld, SendOp.mk.injEq] at *
  refine ⟨BitVec.eq_of_toNat_eq ?_, BitVec.eq_of_toNat_eq ?_, BitVec.eq_of_toNat_eq ?_, BitVec.eq_of_toNat_eq ?_⟩
  all_goals (simp only [BitVec.toNat_ofNat]; omega)

theorem SendOp.zeros_toBits (k : Nat) (o : SendOp) : zeros (k * 2 ^ 41 + o.toBits) [(4, 2), (34, 12)] = true := by
  have := o.v.isLt; have := o.cls.isLt; have := o.port.isLt; have := o.nb.isLt
  simp only [zeros, SendOp.toBits, List.all_cons, List.all_nil, Bool.and_true, Bool.and_eq_true, beq_iff_eq]; omega

theorem SendsOp.op_toBits (k : Nat) (o : SendsOp) : (k * 2 ^ 41 + o.toBits) / 2 ^ 41 = k := by
  have := o.s.isLt; have := o.cls.isLt; have := o.port.isLt
  simp only [SendsOp.toBits]; omega

theorem SendsOp.of_toBits (k : Nat) (o : SendsOp) : SendsOp.ofBits (k * 2 ^ 41 + o.toBits) = o := by
  have := o.s.isLt; have := o.cls.isLt; have := o.port.isLt
  rcases o with ⟨s, cls, port⟩
  simp only [SendsOp.ofBits, SendsOp.toBits, fld, SendsOp.mk.injEq] at *
  refine ⟨BitVec.eq_of_toNat_eq ?_, BitVec.eq_of_toNat_eq ?_, BitVec.eq_of_toNat_eq ?_⟩
  all_goals (simp only [BitVec.toNat_ofNat]; omega)

theorem SendsOp.zeros_toBits (k : Nat) (o : SendsOp) : zeros (k * 2 ^ 41 + o.toBits) [(4, 0), (34, 12), (40, 40)] = true := by
  have := o.s.isLt; have := o.cls.isLt; have := o.port.isLt
  simp only [zeros, SendsOp.toBits, List.all_cons, List.all_nil, Bool.and_true, Bool.and_eq_true, beq_iff_eq]; omega

theorem SendmOp.op_toBits (k : Nat) (o : SendmOp) : (k * 2 ^ 41 + o.toBits) / 2 ^ 41 = k := by
  have := o.bn.isLt; have := o.x.isLt; have := o.imm.isLt; have := o.cls.isLt; have := o.port.isLt; have := o.nb.isLt
  simp only [SendmOp.toBits]; omega

theorem SendmOp.of_toBits (k : Nat) (o : SendmOp) : SendmOp.ofBits (k * 2 ^ 41 + o.toBits) = o := by
  have := o.bn.isLt; have := o.x.isLt; have := o.imm.isLt; have := o.cls.isLt; have := o.port.isLt; have := o.nb.isLt
  rcases o with ⟨bn, x, imm, cls, port, nb⟩
  simp only [SendmOp.ofBits, SendmOp.toBits, fld, SendmOp.mk.injEq] at *
  refine ⟨BitVec.eq_of_toNat_eq ?_, BitVec.eq_of_toNat_eq ?_, BitVec.eq_of_toNat_eq ?_, BitVec.eq_of_toNat_eq ?_, BitVec.eq_of_toNat_eq ?_, BitVec.eq_of_toNat_eq ?_⟩
  all_goals (simp only [BitVec.toNat_ofNat]; omega)

theorem SendmOp.zeros_toBits (k : Nat) (o : SendmOp) : zeros (k * 2 ^ 41 + o.toBits) [(4, 2), (40, 35)] = true := by
  have := o.bn.isLt; have := o.x.isLt; have := o.imm.isLt; have := o.cls.isLt; have := o.port.isLt; have := o.nb.isLt
  simp only [zeros, SendmOp.toBits, List.all_cons, List.all_nil, Bool.and_true, Bool.and_eq_true, beq_iff_eq]; omega

theorem RecvOp.op_toBits (k : Nat) (o : RecvOp) : (k * 2 ^ 41 + o.toBits) / 2 ^ 41 = k := by
  have := o.v.isLt; have := o.cls.isLt; have := o.nb.isLt
  simp only [RecvOp.toBits]; omega

theorem RecvOp.of_toBits (k : Nat) (o : RecvOp) : RecvOp.ofBits (k * 2 ^ 41 + o.toBits) = o := by
  have := o.v.isLt; have := o.cls.isLt; have := o.nb.isLt
  rcases o with ⟨v, cls, nb⟩
  simp only [RecvOp.ofBits, RecvOp.toBits, fld, RecvOp.mk.injEq] at *
  refine ⟨BitVec.eq_of_toNat_eq ?_, BitVec.eq_of_toNat_eq ?_, BitVec.eq_of_toNat_eq ?_⟩
  all_goals (simp only [BitVec.toNat_ofNat]; omega)

theorem RecvOp.zeros_toBits (k : Nat) (o : RecvOp) : zeros (k * 2 ^ 41 + o.toBits) [(7, 2), (34, 12)] = true := by
  have := o.v.isLt; have := o.cls.isLt; have := o.nb.isLt
  simp only [zeros, RecvOp.toBits, List.all_cons, List.all_nil, Bool.and_true, Bool.and_eq_true, beq_iff_eq]; omega

theorem RecvsOp.op_toBits (k : Nat) (o : RecvsOp) : (k * 2 ^ 41 + o.toBits) / 2 ^ 41 = k := by
  have := o.s.isLt; have := o.word.isLt; have := o.cls.isLt
  simp only [RecvsOp.toBits]; omega

theorem RecvsOp.of_toBits (k : Nat) (o : RecvsOp) : RecvsOp.ofBits (k * 2 ^ 41 + o.toBits) = o := by
  have := o.s.isLt; have := o.word.isLt; have := o.cls.isLt
  rcases o with ⟨s, word, cls⟩
  simp only [RecvsOp.ofBits, RecvsOp.toBits, fld, RecvsOp.mk.injEq] at *
  refine ⟨BitVec.eq_of_toNat_eq ?_, BitVec.eq_of_toNat_eq ?_, BitVec.eq_of_toNat_eq ?_⟩
  all_goals (simp only [BitVec.toNat_ofNat]; omega)

theorem RecvsOp.zeros_toBits (k : Nat) (o : RecvsOp) : zeros (k * 2 ^ 41 + o.toBits) [(7, 0), (34, 16), (40, 40)] = true := by
  have := o.s.isLt; have := o.word.isLt; have := o.cls.isLt
  simp only [zeros, RecvsOp.toBits, List.all_cons, List.all_nil, Bool.and_true, Bool.and_eq_true, beq_iff_eq]; omega

theorem RecvmOp.op_toBits (k : Nat) (o : RecvmOp) : (k * 2 ^ 41 + o.toBits) / 2 ^ 41 = k := by
  have := o.bn.isLt; have := o.x.isLt; have := o.imm.isLt; have := o.cls.isLt; have := o.nb.isLt
  simp only [RecvmOp.toBits]; omega

theorem RecvmOp.of_toBits (k : Nat) (o : RecvmOp) : RecvmOp.ofBits (k * 2 ^ 41 + o.toBits) = o := by
  have := o.bn.isLt; have := o.x.isLt; have := o.imm.isLt; have := o.cls.isLt; have := o.nb.isLt
  rcases o with ⟨bn, x, imm, cls, nb⟩
  simp only [RecvmOp.ofBits, RecvmOp.toBits, fld, RecvmOp.mk.injEq] at *
  refine ⟨BitVec.eq_of_toNat_eq ?_, BitVec.eq_of_toNat_eq ?_, BitVec.eq_of_toNat_eq ?_, BitVec.eq_of_toNat_eq ?_, BitVec.eq_of_toNat_eq ?_⟩
  all_goals (simp only [BitVec.toNat_ofNat]; omega)

theorem RecvmOp.zeros_toBits (k : Nat) (o : RecvmOp) : zeros (k * 2 ^ 41 + o.toBits) [(7, 2), (40, 35)] = true := by
  have := o.bn.isLt; have := o.x.isLt; have := o.imm.isLt; have := o.cls.isLt; have := o.nb.isLt
  simp only [zeros, RecvmOp.toBits, List.all_cons, List.all_nil, Bool.and_true, Bool.and_eq_true, beq_iff_eq]; omega

theorem CpyOp.op_toBits (k : Nat) (o : CpyOp) : (k * 2 ^ 41 + o.toBits) / 2 ^ 41 = k := by
  have := o.ch.isLt; have := o.q.isLt; have := o.s0.isLt; have := o.d0.isLt; have := o.g0.isLt; have := o.cls.isLt; have := o.st.isLt
  simp only [CpyOp.toBits]; omega

theorem CpyOp.of_toBits (k : Nat) (o : CpyOp) : CpyOp.ofBits (k * 2 ^ 41 + o.toBits) = o := by
  have := o.ch.isLt; have := o.q.isLt; have := o.s0.isLt; have := o.d0.isLt; have := o.g0.isLt; have := o.cls.isLt; have := o.st.isLt
  rcases o with ⟨ch, q, s0, d0, g0, cls, st⟩
  simp only [CpyOp.ofBits, CpyOp.toBits, fld, CpyOp.mk.injEq] at *
  refine ⟨BitVec.eq_of_toNat_eq ?_, BitVec.eq_of_toNat_eq ?_, BitVec.eq_of_toNat_eq ?_, BitVec.eq_of_toNat_eq ?_, BitVec.eq_of_toNat_eq ?_, BitVec.eq_of_toNat_eq ?_, BitVec.eq_of_toNat_eq ?_⟩
  all_goals (simp only [BitVec.toNat_ofNat]; omega)

theorem CpyOp.zeros_toBits (k : Nat) (o : CpyOp) : zeros (k * 2 ^ 41 + o.toBits) [(19, 12)] = true := by
  have := o.ch.isLt; have := o.q.isLt; have := o.s0.isLt; have := o.d0.isLt; have := o.g0.isLt; have := o.cls.isLt; have := o.st.isLt
  simp only [zeros, CpyOp.toBits, List.all_cons, List.all_nil, Bool.and_true, beq_iff_eq]; omega

theorem FenceOp.op_toBits (k : Nat) (o : FenceOp) : (k * 2 ^ 41 + o.toBits) / 2 ^ 41 = k := by
  have := o.mask.isLt; have := o.f.isLt
  simp only [FenceOp.toBits]; omega

theorem FenceOp.of_toBits (k : Nat) (o : FenceOp) : FenceOp.ofBits (k * 2 ^ 41 + o.toBits) = o := by
  have := o.mask.isLt; have := o.f.isLt
  rcases o with ⟨mask, f⟩
  simp only [FenceOp.ofBits, FenceOp.toBits, fld, FenceOp.mk.injEq] at *
  refine ⟨BitVec.eq_of_toNat_eq ?_, BitVec.eq_of_toNat_eq ?_⟩
  all_goals (simp only [BitVec.toNat_ofNat]; omega)

theorem FenceOp.zeros_toBits (k : Nat) (o : FenceOp) : zeros (k * 2 ^ 41 + o.toBits) [(11, 0)] = true := by
  have := o.mask.isLt; have := o.f.isLt
  simp only [zeros, FenceOp.toBits, List.all_cons, List.all_nil, Bool.and_true, beq_iff_eq]; omega

theorem PmodeOp.op_toBits (k : Nat) (o : PmodeOp) : (k * 2 ^ 41 + o.toBits) / 2 ^ 41 = k := by
  have := o.sub.isLt; have := o.rule.isLt; have := o.ety.toNat_lt
  simp only [PmodeOp.toBits]; omega

theorem PmodeOp.of_toBits (k : Nat) (o : PmodeOp) : PmodeOp.ofBits (k * 2 ^ 41 + o.toBits) = o := by
  have := o.sub.isLt; have := o.rule.isLt; have := o.ety.toNat_lt
  rcases o with ⟨sub, rule, ety⟩
  simp only [PmodeOp.ofBits, PmodeOp.toBits, fld, bit, PmodeOp.mk.injEq] at *
  refine ⟨BitVec.eq_of_toNat_eq ?_, BitVec.eq_of_toNat_eq ?_, ?_⟩
  all_goals first | (simp only [BitVec.toNat_ofNat]; omega) | exact bit_eq (by omega)

theorem PmodeOp.zeros_toBits (k : Nat) (o : PmodeOp) : zeros (k * 2 ^ 41 + o.toBits) [(33, 0)] = true := by
  have := o.sub.isLt; have := o.rule.isLt; have := o.ety.toNat_lt
  simp only [zeros, PmodeOp.toBits, List.all_cons, List.all_nil, Bool.and_true, beq_iff_eq]; omega

theorem SvOp.op_toBits (k : Nat) (o : SvOp) : (k * 2 ^ 41 + o.toBits) / 2 ^ 41 = k := by
  have := o.s.isLt; have := o.cls.isLt
  simp only [SvOp.toBits]; omega

theorem SvOp.of_toBits (k : Nat) (o : SvOp) : SvOp.ofBits (k * 2 ^ 41 + o.toBits) = o := by
  have := o.s.isLt; have := o.cls.isLt
  rcases o with ⟨s, cls⟩
  simp only [SvOp.ofBits, SvOp.toBits, fld, SvOp.mk.injEq] at *
  refine ⟨BitVec.eq_of_toNat_eq ?_, BitVec.eq_of_toNat_eq ?_⟩
  all_goals (simp only [BitVec.toNat_ofNat]; omega)

theorem SvOp.zeros_toBits (k : Nat) (o : SvOp) : zeros (k * 2 ^ 41 + o.toBits) [(7, 0), (34, 12), (40, 40)] = true := by
  have := o.s.isLt; have := o.cls.isLt
  simp only [zeros, SvOp.toBits, List.all_cons, List.all_nil, Bool.and_true, Bool.and_eq_true, beq_iff_eq]; omega

theorem SvmsgOp.op_toBits (k : Nat) (o : SvmsgOp) : (k * 2 ^ 41 + o.toBits) / 2 ^ 41 = k := by
  have := o.v.isLt; have := o.cls.isLt; have := o.nb.isLt
  simp only [SvmsgOp.toBits]; omega

theorem SvmsgOp.of_toBits (k : Nat) (o : SvmsgOp) : SvmsgOp.ofBits (k * 2 ^ 41 + o.toBits) = o := by
  have := o.v.isLt; have := o.cls.isLt; have := o.nb.isLt
  rcases o with ⟨v, cls, nb⟩
  simp only [SvmsgOp.ofBits, SvmsgOp.toBits, fld, SvmsgOp.mk.injEq] at *
  refine ⟨BitVec.eq_of_toNat_eq ?_, BitVec.eq_of_toNat_eq ?_, BitVec.eq_of_toNat_eq ?_⟩
  all_goals (simp only [BitVec.toNat_ofNat]; omega)

theorem SvmsgOp.zeros_toBits (k : Nat) (o : SvmsgOp) : zeros (k * 2 ^ 41 + o.toBits) [(7, 2), (34, 12)] = true := by
  have := o.v.isLt; have := o.cls.isLt; have := o.nb.isLt
  simp only [zeros, SvmsgOp.toBits, List.all_cons, List.all_nil, Bool.and_true, Bool.and_eq_true, beq_iff_eq]; omega

theorem MsqOp.bit20_toBits (k : Nat) (o : MsqOp) : bit (k * 2 ^ 27 + o.toBits) 20 = false := by
  have := o.sa.isLt; have := o.sb.isLt; have := o.fe.isLt; have := o.beats.isLt; have := o.blk.isLt; have := o.acc.toNat_lt
  apply bit_eq_false; simp only [MsqOp.toBits]; omega
theorem MsqIxOp.toBits_lt (o : MsqIxOp) : o.toBits < 2 ^ 27 := by
  have := o.sa.isLt; have := o.sb.isLt; have := o.k.isLt; have := o.base.isLt; have := o.beats.isLt; have := o.blk.isLt; have := o.acc.toNat_lt
  simp only [MsqIxOp.toBits]; omega
theorem MsqIxOp.bit20_toBits (k : Nat) (o : MsqIxOp) : bit (k * 2 ^ 27 + 2 ^ 20 + o.toBits) 20 = true := by
  have := o.sa.isLt; have := o.sb.isLt; have := o.k.isLt; have := o.base.isLt; have := o.beats.isLt; have := o.blk.isLt; have := o.acc.toNat_lt
  apply bit_eq_true; simp only [MsqIxOp.toBits]; omega
theorem MsqIxOp.op_toBits (k : Nat) (o : MsqIxOp) : (k * 2 ^ 27 + 2 ^ 20 + o.toBits) / 2 ^ 27 = k := by
  have := o.sa.isLt; have := o.sb.isLt; have := o.k.isLt; have := o.base.isLt; have := o.beats.isLt; have := o.blk.isLt; have := o.acc.toNat_lt
  simp only [MsqIxOp.toBits]; omega
theorem MsqIxOp.of_toBits (k : Nat) (o : MsqIxOp) : MsqIxOp.ofBits o.form (k * 2 ^ 27 + 2 ^ 20 + o.toBits) = o := by
  have := o.sa.isLt; have := o.sb.isLt; have := o.k.isLt; have := o.base.isLt; have := o.beats.isLt; have := o.blk.isLt; have := o.acc.toNat_lt
  rcases o with ⟨form, sa, sb, k, base, beats, blk, acc⟩
  simp only [MsqIxOp.ofBits, MsqIxOp.toBits, fld, bit, MsqIxOp.mk.injEq, true_and] at *
  refine ⟨BitVec.eq_of_toNat_eq ?_, BitVec.eq_of_toNat_eq ?_, BitVec.eq_of_toNat_eq ?_, BitVec.eq_of_toNat_eq ?_, BitVec.eq_of_toNat_eq ?_, BitVec.eq_of_toNat_eq ?_, ?_⟩
  all_goals first | (simp only [BitVec.toNat_ofNat]; omega) | exact bit_eq (by omega)
theorem LoopOp.toBits_eq (o : LoopOp) : o.toBits = o.lvl.toNat * 2 ^ 42 + o.mexp.toNat * 2 ^ 20 + o.mman.toNat * 2 ^ 12 + o.fin.toNat := rfl
/-- The fields of LOOP, whatever stands between its level and its exponent. -/
theorem LoopOp.of_between (k m : Nat) (o : LoopOp) (h : m * 2 ^ 24 < 2 ^ 42) : LoopOp.ofBits (k * 2 ^ 44 + o.toBits + m * 2 ^ 24) = o := by
  have := o.lvl.isLt; have := o.mexp.isLt; have := o.mman.isLt; have := o.fin.isLt
  rcases o with ⟨lvl, mexp, mman, fin⟩
  simp only [LoopOp.ofBits, LoopOp.toBits, fld, LoopOp.mk.injEq] at *
  refine ⟨BitVec.eq_of_toNat_eq ?_, BitVec.eq_of_toNat_eq ?_, BitVec.eq_of_toNat_eq ?_, BitVec.eq_of_toNat_eq ?_⟩
  all_goals (simp only [BitVec.toNat_ofNat]; omega)
/-- A single field. -/
theorem fld_eq {w lo len : Nat} {b : BitVec len} (h : w / 2 ^ lo % 2 ^ len = b.toNat) : fld w lo len = b := by
  apply BitVec.eq_of_toNat_eq; simp only [fld, BitVec.toNat_ofNat]; exact h
theorem IssueWord.eta (o : IssueWord) : (⟨o.guard, o.wait⟩ : IssueWord) = o := rfl

end Sys2Proof
end

