-- ==== Sys2Proof/Laws/State.lean ====
section
/-! SUPPORT. Field lemmas: what each named update of the state and of a tile leaves, and looking up the tile that was written. -/

namespace Sys2Proof.Machine

/-! Updates of the state: every other field is as before. -/

@[simp] theorem State.setTile_fetch (s : State) (x y : Nat) (t : Tile) : (s.setTile x y t).fetch = s.fetch := rfl
@[simp] theorem State.setTile_arg (s : State) (x y : Nat) (t : Tile) : (s.setTile x y t).arg = s.arg := rfl
@[simp] theorem State.setTile_cur (s : State) (x y : Nat) (t : Tile) : (s.setTile x y t).cur = s.cur := rfl
@[simp] theorem State.setTile_now (s : State) (x y : Nat) (t : Tile) : (s.setTile x y t).now = s.now := rfl
@[simp] theorem State.setTile_agenda (s : State) (x y : Nat) (t : Tile) : (s.setTile x y t).agenda = s.agenda := rfl
@[simp] theorem State.setTile_mode (s : State) (x y : Nat) (t : Tile) : (s.setTile x y t).mode = s.mode := rfl
@[simp] theorem State.setTile_testing (s : State) (x y : Nat) (t : Tile) : (s.setTile x y t).testing = s.testing := rfl
@[simp] theorem State.setTile_fullTest (s : State) (x y : Nat) (t : Tile) : (s.setTile x y t).fullTest = s.fullTest := rfl
@[simp] theorem State.setTile_vexKey (s : State) (x y : Nat) (t : Tile) : (s.setTile x y t).vexKey = s.vexKey := rfl
@[simp] theorem State.setTile_devKey (s : State) (x y : Nat) (t : Tile) : (s.setTile x y t).devKey = s.devKey := rfl
@[simp] theorem State.setTile_rom (s : State) (x y : Nat) (t : Tile) : (s.setTile x y t).rom = s.rom := rfl
@[simp] theorem State.setTile_fw (s : State) (x y : Nat) (t : Tile) : (s.setTile x y t).fw = s.fw := rfl
@[simp] theorem State.setTile_map (s : State) (x y : Nat) (t : Tile) : (s.setTile x y t).map = s.map := rfl
@[simp] theorem State.setTile_remap (s : State) (x y : Nat) (t : Tile) : (s.setTile x y t).remap = s.remap := rfl
@[simp] theorem State.setTile_remapSig (s : State) (x y : Nat) (t : Tile) : (s.setTile x y t).remapSig = s.remapSig := rfl
@[simp] theorem State.setTile_meas (s : State) (x y : Nat) (t : Tile) : (s.setTile x y t).meas = s.meas := rfl
@[simp] theorem State.setTile_exported (s : State) (x y : Nat) (t : Tile) : (s.setTile x y t).exported = s.exported := rfl
@[simp] theorem State.setTile_mgmt (s : State) (x y : Nat) (t : Tile) : (s.setTile x y t).mgmt = s.mgmt := rfl
@[simp] theorem State.setTile_n (s : State) (x y : Nat) (t : Tile) : (s.setTile x y t).n = s.n := rfl
@[simp] theorem State.setTile_nAt (s : State) (x y : Nat) (t : Tile) : (s.setTile x y t).nAt = s.nAt := rfl
@[simp] theorem State.setTile_nNext (s : State) (x y : Nat) (t : Tile) : (s.setTile x y t).nNext = s.nNext := rfl
@[simp] theorem State.setTile_nDue (s : State) (x y : Nat) (t : Tile) : (s.setTile x y t).nDue = s.nDue := rfl
@[simp] theorem State.setTile_overAt (s : State) (x y : Nat) (t : Tile) : (s.setTile x y t).overAt = s.overAt := rfl
@[simp] theorem State.setTile_group (s : State) (x y : Nat) (t : Tile) : (s.setTile x y t).group = s.group := rfl
@[simp] theorem State.setTile_groupMembers (s : State) (x y : Nat) (t : Tile) : (s.setTile x y t).groupMembers = s.groupMembers := rfl
@[simp] theorem State.setTile_ptpOffset (s : State) (x y : Nat) (t : Tile) : (s.setTile x y t).ptpOffset = s.ptpOffset := rfl
@[simp] theorem State.setTile_ptpPpm (s : State) (x y : Nat) (t : Tile) : (s.setTile x y t).ptpPpm = s.ptpPpm := rfl
@[simp] theorem State.setTile_ports (s : State) (x y : Nat) (t : Tile) : (s.setTile x y t).ports = s.ports := rfl
@[simp] theorem State.setTile_allow (s : State) (x y : Nat) (t : Tile) : (s.setTile x y t).allow = s.allow := rfl
@[simp] theorem State.setTile_tx (s : State) (x y : Nat) (t : Tile) : (s.setTile x y t).tx = s.tx := rfl
@[simp] theorem State.setTile_sessions (s : State) (x y : Nat) (t : Tile) : (s.setTile x y t).sessions = s.sessions := rfl
@[simp] theorem State.setTile_nextSid (s : State) (x y : Nat) (t : Tile) : (s.setTile x y t).nextSid = s.nextSid := rfl
@[simp] theorem State.setTile_outbox (s : State) (x y : Nat) (t : Tile) : (s.setTile x y t).outbox = s.outbox := rfl
@[simp] theorem State.setTile_contexts (s : State) (x y : Nat) (t : Tile) : (s.setTile x y t).contexts = s.contexts := rfl
@[simp] theorem State.setTile_openings (s : State) (x y : Nat) (t : Tile) : (s.setTile x y t).openings = s.openings := rfl
@[simp] theorem State.setTile_pointers (s : State) (x y : Nat) (t : Tile) : (s.setTile x y t).pointers = s.pointers := rfl
@[simp] theorem State.setTile_runs (s : State) (x y : Nat) (t : Tile) : (s.setTile x y t).runs = s.runs := rfl
@[simp] theorem State.setTile_launches (s : State) (x y : Nat) (t : Tile) : (s.setTile x y t).launches = s.launches := rfl
@[simp] theorem State.setTile_nextId (s : State) (x y : Nat) (t : Tile) : (s.setTile x y t).nextId = s.nextId := rfl
@[simp] theorem State.setTile_picked (s : State) (x y : Nat) (t : Tile) : (s.setTile x y t).picked = s.picked := rfl
@[simp] theorem State.setTile_ending (s : State) (x y : Nat) (t : Tile) : (s.setTile x y t).ending = s.ending := rfl
@[simp] theorem State.setTile_decidedAt (s : State) (x y : Nat) (t : Tile) : (s.setTile x y t).decidedAt = s.decidedAt := rfl
@[simp] theorem State.setTile_jobs (s : State) (x y : Nat) (t : Tile) : (s.setTile x y t).jobs = s.jobs := rfl
@[simp] theorem State.setTile_loads (s : State) (x y : Nat) (t : Tile) : (s.setTile x y t).loads = s.loads := rfl
@[simp] theorem State.setTile_preempts (s : State) (x y : Nat) (t : Tile) : (s.setTile x y t).preempts = s.preempts := rfl
@[simp] theorem State.setTile_halts (s : State) (x y : Nat) (t : Tile) : (s.setTile x y t).halts = s.halts := rfl
@[simp] theorem State.setTile_halted (s : State) (x y : Nat) (t : Tile) : (s.setTile x y t).halted = s.halted := rfl
@[simp] theorem State.setTile_noDispatch (s : State) (x y : Nat) (t : Tile) : (s.setTile x y t).noDispatch = s.noDispatch := rfl
@[simp] theorem State.setTile_engines (s : State) (x y : Nat) (t : Tile) : (s.setTile x y t).engines = s.engines := rfl
@[simp] theorem State.setTile_reads (s : State) (x y : Nat) (t : Tile) : (s.setTile x y t).reads = s.reads := rfl
@[simp] theorem State.setTile_commits (s : State) (x y : Nat) (t : Tile) : (s.setTile x y t).commits = s.commits := rfl
@[simp] theorem State.setTile_gone (s : State) (x y : Nat) (t : Tile) : (s.setTile x y t).gone = s.gone := rfl
@[simp] theorem State.setTile_bridges (s : State) (x y : Nat) (t : Tile) : (s.setTile x y t).bridges = s.bridges := rfl
@[simp] theorem State.setTile_up (s : State) (x y : Nat) (t : Tile) : (s.setTile x y t).up = s.up := rfl
@[simp] theorem State.setTile_segs (s : State) (x y : Nat) (t : Tile) : (s.setTile x y t).segs = s.segs := rfl
@[simp] theorem State.setTile_roving (s : State) (x y : Nat) (t : Tile) : (s.setTile x y t).roving = s.roving := rfl
@[simp] theorem State.setTile_dram (s : State) (x y : Nat) (t : Tile) : (s.setTile x y t).dram = s.dram := rfl
@[simp] theorem State.setTile_fv (s : State) (x y : Nat) (t : Tile) : (s.setTile x y t).fv = s.fv := rfl
@[simp] theorem State.setCur_fetch (s : State) (t : Tile) : (s.setCur t).fetch = s.fetch := rfl
@[simp] theorem State.setCur_arg (s : State) (t : Tile) : (s.setCur t).arg = s.arg := rfl
@[simp] theorem State.setCur_cur (s : State) (t : Tile) : (s.setCur t).cur = s.cur := rfl
@[simp] theorem State.setCur_now (s : State) (t : Tile) : (s.setCur t).now = s.now := rfl
@[simp] theorem State.setCur_agenda (s : State) (t : Tile) : (s.setCur t).agenda = s.agenda := rfl
@[simp] theorem State.setCur_mode (s : State) (t : Tile) : (s.setCur t).mode = s.mode := rfl
@[simp] theorem State.setCur_testing (s : State) (t : Tile) : (s.setCur t).testing = s.testing := rfl
@[simp] theorem State.setCur_fullTest (s : State) (t : Tile) : (s.setCur t).fullTest = s.fullTest := rfl
@[simp] theorem State.setCur_vexKey (s : State) (t : Tile) : (s.setCur t).vexKey = s.vexKey := rfl
@[simp] theorem State.setCur_devKey (s : State) (t : Tile) : (s.setCur t).devKey = s.devKey := rfl
@[simp] theorem State.setCur_rom (s : State) (t : Tile) : (s.setCur t).rom = s.rom := rfl
@[simp] theorem State.setCur_fw (s : State) (t : Tile) : (s.setCur t).fw = s.fw := rfl
@[simp] theorem State.setCur_map (s : State) (t : Tile) : (s.setCur t).map = s.map := rfl
@[simp] theorem State.setCur_remap (s : State) (t : Tile) : (s.setCur t).remap = s.remap := rfl
@[simp] theorem State.setCur_remapSig (s : State) (t : Tile) : (s.setCur t).remapSig = s.remapSig := rfl
@[simp] theorem State.setCur_meas (s : State) (t : Tile) : (s.setCur t).meas = s.meas := rfl
@[simp] theorem State.setCur_exported (s : State) (t : Tile) : (s.setCur t).exported = s.exported := rfl
@[simp] theorem State.setCur_mgmt (s : State) (t : Tile) : (s.setCur t).mgmt = s.mgmt := rfl
@[simp] theorem State.setCur_n (s : State) (t : Tile) : (s.setCur t).n = s.n := rfl
@[simp] theorem State.setCur_nAt (s : State) (t : Tile) : (s.setCur t).nAt = s.nAt := rfl
@[simp] theorem State.setCur_nNext (s : State) (t : Tile) : (s.setCur t).nNext = s.nNext := rfl
@[simp] theorem State.setCur_nDue (s : State) (t : Tile) : (s.setCur t).nDue = s.nDue := rfl
@[simp] theorem State.setCur_overAt (s : State) (t : Tile) : (s.setCur t).overAt = s.overAt := rfl
@[simp] theorem State.setCur_group (s : State) (t : Tile) : (s.setCur t).group = s.group := rfl
@[simp] theorem State.setCur_groupMembers (s : State) (t : Tile) : (s.setCur t).groupMembers = s.groupMembers := rfl
@[simp] theorem State.setCur_ptpOffset (s : State) (t : Tile) : (s.setCur t).ptpOffset = s.ptpOffset := rfl
@[simp] theorem State.setCur_ptpPpm (s : State) (t : Tile) : (s.setCur t).ptpPpm = s.ptpPpm := rfl
@[simp] theorem State.setCur_ports (s : State) (t : Tile) : (s.setCur t).ports = s.ports := rfl
@[simp] theorem State.setCur_allow (s : State) (t : Tile) : (s.setCur t).allow = s.allow := rfl
@[simp] theorem State.setCur_tx (s : State) (t : Tile) : (s.setCur t).tx = s.tx := rfl
@[simp] theorem State.setCur_sessions (s : State) (t : Tile) : (s.setCur t).sessions = s.sessions := rfl
@[simp] theorem State.setCur_nextSid (s : State) (t : Tile) : (s.setCur t).nextSid = s.nextSid := rfl
@[simp] theorem State.setCur_outbox (s : State) (t : Tile) : (s.setCur t).outbox = s.outbox := rfl
@[simp] theorem State.setCur_contexts (s : State) (t : Tile) : (s.setCur t).contexts = s.contexts := rfl
@[simp] theorem State.setCur_openings (s : State) (t : Tile) : (s.setCur t).openings = s.openings := rfl
@[simp] theorem State.setCur_pointers (s : State) (t : Tile) : (s.setCur t).pointers = s.pointers := rfl
@[simp] theorem State.setCur_runs (s : State) (t : Tile) : (s.setCur t).runs = s.runs := rfl
@[simp] theorem State.setCur_launches (s : State) (t : Tile) : (s.setCur t).launches = s.launches := rfl
@[simp] theorem State.setCur_nextId (s : State) (t : Tile) : (s.setCur t).nextId = s.nextId := rfl
@[simp] theorem State.setCur_picked (s : State) (t : Tile) : (s.setCur t).picked = s.picked := rfl
@[simp] theorem State.setCur_ending (s : State) (t : Tile) : (s.setCur t).ending = s.ending := rfl
@[simp] theorem State.setCur_decidedAt (s : State) (t : Tile) : (s.setCur t).decidedAt = s.decidedAt := rfl
@[simp] theorem State.setCur_jobs (s : State) (t : Tile) : (s.setCur t).jobs = s.jobs := rfl
@[simp] theorem State.setCur_loads (s : State) (t : Tile) : (s.setCur t).loads = s.loads := rfl
@[simp] theorem State.setCur_preempts (s : State) (t : Tile) : (s.setCur t).preempts = s.preempts := rfl
@[simp] theorem State.setCur_halts (s : State) (t : Tile) : (s.setCur t).halts = s.halts := rfl
@[simp] theorem State.setCur_halted (s : State) (t : Tile) : (s.setCur t).halted = s.halted := rfl
@[simp] theorem State.setCur_noDispatch (s : State) (t : Tile) : (s.setCur t).noDispatch = s.noDispatch := rfl
@[simp] theorem State.setCur_engines (s : State) (t : Tile) : (s.setCur t).engines = s.engines := rfl
@[simp] theorem State.setCur_reads (s : State) (t : Tile) : (s.setCur t).reads = s.reads := rfl
@[simp] theorem State.setCur_commits (s : State) (t : Tile) : (s.setCur t).commits = s.commits := rfl
@[simp] theorem State.setCur_gone (s : State) (t : Tile) : (s.setCur t).gone = s.gone := rfl
@[simp] theorem State.setCur_bridges (s : State) (t : Tile) : (s.setCur t).bridges = s.bridges := rfl
@[simp] theorem State.setCur_up (s : State) (t : Tile) : (s.setCur t).up = s.up := rfl
@[simp] theorem State.setCur_segs (s : State) (t : Tile) : (s.setCur t).segs = s.segs := rfl
@[simp] theorem State.setCur_roving (s : State) (t : Tile) : (s.setCur t).roving = s.roving := rfl
@[simp] theorem State.setCur_dram (s : State) (t : Tile) : (s.setCur t).dram = s.dram := rfl
@[simp] theorem State.setCur_fv (s : State) (t : Tile) : (s.setCur t).fv = s.fv := rfl
@[simp] theorem State.onTile_fetch (s : State) (x y : Nat) (f : Tile → Tile) : (s.onTile x y f).fetch = s.fetch := rfl
@[simp] theorem State.onTile_arg (s : State) (x y : Nat) (f : Tile → Tile) : (s.onTile x y f).arg = s.arg := rfl
@[simp] theorem State.onTile_cur (s : State) (x y : Nat) (f : Tile → Tile) : (s.onTile x y f).cur = s.cur := rfl
@[simp] theorem State.onTile_now (s : State) (x y : Nat) (f : Tile → Tile) : (s.onTile x y f).now = s.now := rfl
@[simp] theorem State.onTile_agenda (s : State) (x y : Nat) (f : Tile → Tile) : (s.onTile x y f).agenda = s.agenda := rfl
@[simp] theorem State.onTile_mode (s : State) (x y : Nat) (f : Tile → Tile) : (s.onTile x y f).mode = s.mode := rfl
@[simp] theorem State.onTile_testing (s : State) (x y : Nat) (f : Tile → Tile) : (s.onTile x y f).testing = s.testing := rfl
@[simp] theorem State.onTile_fullTest (s : State) (x y : Nat) (f : Tile → Tile) : (s.onTile x y f).fullTest = s.fullTest := rfl
@[simp] theorem State.onTile_vexKey (s : State) (x y : Nat) (f : Tile → Tile) : (s.onTile x y f).vexKey = s.vexKey := rfl
@[simp] theorem State.onTile_devKey (s : State) (x y : Nat) (f : Tile → Tile) : (s.onTile x y f).devKey = s.devKey := rfl
@[simp] theorem State.onTile_rom (s : State) (x y : Nat) (f : Tile → Tile) : (s.onTile x y f).rom = s.rom := rfl
@[simp] theorem State.onTile_fw (s : State) (x y : Nat) (f : Tile → Tile) : (s.onTile x y f).fw = s.fw := rfl
@[simp] theorem State.onTile_map (s : State) (x y : Nat) (f : Tile → Tile) : (s.onTile x y f).map = s.map := rfl
@[simp] theorem State.onTile_remap (s : State) (x y : Nat) (f : Tile → Tile) : (s.onTile x y f).remap = s.remap := rfl
@[simp] theorem State.onTile_remapSig (s : State) (x y : Nat) (f : Tile → Tile) : (s.onTile x y f).remapSig = s.remapSig := rfl
@[simp] theorem State.onTile_meas (s : State) (x y : Nat) (f : Tile → Tile) : (s.onTile x y f).meas = s.meas := rfl
@[simp] theorem State.onTile_exported (s : State) (x y : Nat) (f : Tile → Tile) : (s.onTile x y f).exported = s.exported := rfl
@[simp] theorem State.onTile_mgmt (s : State) (x y : Nat) (f : Tile → Tile) : (s.onTile x y f).mgmt = s.mgmt := rfl
@[simp] theorem State.onTile_n (s : State) (x y : Nat) (f : Tile → Tile) : (s.onTile x y f).n = s.n := rfl
@[simp] theorem State.onTile_nAt (s : State) (x y : Nat) (f : Tile → Tile) : (s.onTile x y f).nAt = s.nAt := rfl
@[simp] theorem State.onTile_nNext (s : State) (x y : Nat) (f : Tile → Tile) : (s.onTile x y f).nNext = s.nNext := rfl
@[simp] theorem State.onTile_nDue (s : State) (x y : Nat) (f : Tile → Tile) : (s.onTile x y f).nDue = s.nDue := rfl
@[simp] theorem State.onTile_overAt (s : State) (x y : Nat) (f : Tile → Tile) : (s.onTile x y f).overAt = s.overAt := rfl
@[simp] theorem State.onTile_group (s : State) (x y : Nat) (f : Tile → Tile) : (s.onTile x y f).group = s.group := rfl
@[simp] theorem State.onTile_groupMembers (s : State) (x y : Nat) (f : Tile → Tile) : (s.onTile x y f).groupMembers = s.groupMembers := rfl
@[simp] theorem State.onTile_ptpOffset (s : State) (x y : Nat) (f : Tile → Tile) : (s.onTile x y f).ptpOffset = s.ptpOffset := rfl
@[simp] theorem State.onTile_ptpPpm (s : State) (x y : Nat) (f : Tile → Tile) : (s.onTile x y f).ptpPpm = s.ptpPpm := rfl
@[simp] theorem State.onTile_ports (s : State) (x y : Nat) (f : Tile → Tile) : (s.onTile x y f).ports = s.ports := rfl
@[simp] theorem State.onTile_allow (s : State) (x y : Nat) (f : Tile → Tile) : (s.onTile x y f).allow = s.allow := rfl
@[simp] theorem State.onTile_tx (s : State) (x y : Nat) (f : Tile → Tile) : (s.onTile x y f).tx = s.tx := rfl
@[simp] theorem State.onTile_sessions (s : State) (x y : Nat) (f : Tile → Tile) : (s.onTile x y f).sessions = s.sessions := rfl
@[simp] theorem State.onTile_nextSid (s : State) (x y : Nat) (f : Tile → Tile) : (s.onTile x y f).nextSid = s.nextSid := rfl
@[simp] theorem State.onTile_outbox (s : State) (x y : Nat) (f : Tile → Tile) : (s.onTile x y f).outbox = s.outbox := rfl
@[simp] theorem State.onTile_contexts (s : State) (x y : Nat) (f : Tile → Tile) : (s.onTile x y f).contexts = s.contexts := rfl
@[simp] theorem State.onTile_openings (s : State) (x y : Nat) (f : Tile → Tile) : (s.onTile x y f).openings = s.openings := rfl
@[simp] theorem State.onTile_pointers (s : State) (x y : Nat) (f : Tile → Tile) : (s.onTile x y f).pointers = s.pointers := rfl
@[simp] theorem State.onTile_runs (s : State) (x y : Nat) (f : Tile → Tile) : (s.onTile x y f).runs = s.runs := rfl
@[simp] theorem State.onTile_launches (s : State) (x y : Nat) (f : Tile → Tile) : (s.onTile x y f).launches = s.launches := rfl
@[simp] theorem State.onTile_nextId (s : State) (x y : Nat) (f : Tile → Tile) : (s.onTile x y f).nextId = s.nextId := rfl
@[simp] theorem State.onTile_picked (s : State) (x y : Nat) (f : Tile → Tile) : (s.onTile x y f).picked = s.picked := rfl
@[simp] theorem State.onTile_ending (s : State) (x y : Nat) (f : Tile → Tile) : (s.onTile x y f).ending = s.ending := rfl
@[simp] theorem State.onTile_decidedAt (s : State) (x y : Nat) (f : Tile → Tile) : (s.onTile x y f).decidedAt = s.decidedAt := rfl
@[simp] theorem State.onTile_jobs (s : State) (x y : Nat) (f : Tile → Tile) : (s.onTile x y f).jobs = s.jobs := rfl
@[simp] theorem State.onTile_loads (s : State) (x y : Nat) (f : Tile → Tile) : (s.onTile x y f).loads = s.loads := rfl
@[simp] theorem State.onTile_preempts (s : State) (x y : Nat) (f : Tile → Tile) : (s.onTile x y f).preempts = s.preempts := rfl
@[simp] theorem State.onTile_halts (s : State) (x y : Nat) (f : Tile → Tile) : (s.onTile x y f).halts = s.halts := rfl
@[simp] theorem State.onTile_halted (s : State) (x y : Nat) (f : Tile → Tile) : (s.onTile x y f).halted = s.halted := rfl
@[simp] theorem State.onTile_noDispatch (s : State) (x y : Nat) (f : Tile → Tile) : (s.onTile x y f).noDispatch = s.noDispatch := rfl
@[simp] theorem State.onTile_engines (s : State) (x y : Nat) (f : Tile → Tile) : (s.onTile x y f).engines = s.engines := rfl
@[simp] theorem State.onTile_reads (s : State) (x y : Nat) (f : Tile → Tile) : (s.onTile x y f).reads = s.reads := rfl
@[simp] theorem State.onTile_commits (s : State) (x y : Nat) (f : Tile → Tile) : (s.onTile x y f).commits = s.commits := rfl
@[simp] theorem State.onTile_gone (s : State) (x y : Nat) (f : Tile → Tile) : (s.onTile x y f).gone = s.gone := rfl
@[simp] theorem State.onTile_bridges (s : State) (x y : Nat) (f : Tile → Tile) : (s.onTile x y f).bridges = s.bridges := rfl
@[simp] theorem State.onTile_up (s : State) (x y : Nat) (f : Tile → Tile) : (s.onTile x y f).up = s.up := rfl
@[simp] theorem State.onTile_segs (s : State) (x y : Nat) (f : Tile → Tile) : (s.onTile x y f).segs = s.segs := rfl
@[simp] theorem State.onTile_roving (s : State) (x y : Nat) (f : Tile → Tile) : (s.onTile x y f).roving = s.roving := rfl
@[simp] theorem State.onTile_dram (s : State) (x y : Nat) (f : Tile → Tile) : (s.onTile x y f).dram = s.dram := rfl
@[simp] theorem State.onTile_fv (s : State) (x y : Nat) (f : Tile → Tile) : (s.onTile x y f).fv = s.fv := rfl
@[simp] theorem State.latch_now (s : State) (f : FetchItem) (r : List FetchItem) : (s.latch f r).now = s.now := rfl
@[simp] theorem State.latch_agenda (s : State) (f : FetchItem) (r : List FetchItem) : (s.latch f r).agenda = s.agenda := rfl
@[simp] theorem State.latch_tiles (s : State) (f : FetchItem) (r : List FetchItem) : (s.latch f r).tiles = s.tiles := rfl
@[simp] theorem State.latch_mode (s : State) (f : FetchItem) (r : List FetchItem) : (s.latch f r).mode = s.mode := rfl
@[simp] theorem State.latch_testing (s : State) (f : FetchItem) (r : List FetchItem) : (s.latch f r).testing = s.testing := rfl
@[simp] theorem State.latch_fullTest (s : State) (f : FetchItem) (r : List FetchItem) : (s.latch f r).fullTest = s.fullTest := rfl
@[simp] theorem State.latch_vexKey (s : State) (f : FetchItem) (r : List FetchItem) : (s.latch f r).vexKey = s.vexKey := rfl
@[simp] theorem State.latch_devKey (s : State) (f : FetchItem) (r : List FetchItem) : (s.latch f r).devKey = s.devKey := rfl
@[simp] theorem State.latch_rom (s : State) (f : FetchItem) (r : List FetchItem) : (s.latch f r).rom = s.rom := rfl
@[simp] theorem State.latch_fw (s : State) (f : FetchItem) (r : List FetchItem) : (s.latch f r).fw = s.fw := rfl
@[simp] theorem State.latch_map (s : State) (f : FetchItem) (r : List FetchItem) : (s.latch f r).map = s.map := rfl
@[simp] theorem State.latch_remap (s : State) (f : FetchItem) (r : List FetchItem) : (s.latch f r).remap = s.remap := rfl
@[simp] theorem State.latch_remapSig (s : State) (f : FetchItem) (r : List FetchItem) : (s.latch f r).remapSig = s.remapSig := rfl
@[simp] theorem State.latch_meas (s : State) (f : FetchItem) (r : List FetchItem) : (s.latch f r).meas = s.meas := rfl
@[simp] theorem State.latch_exported (s : State) (f : FetchItem) (r : List FetchItem) : (s.latch f r).exported = s.exported := rfl
@[simp] theorem State.latch_mgmt (s : State) (f : FetchItem) (r : List FetchItem) : (s.latch f r).mgmt = s.mgmt := rfl
@[simp] theorem State.latch_n (s : State) (f : FetchItem) (r : List FetchItem) : (s.latch f r).n = s.n := rfl
@[simp] theorem State.latch_nAt (s : State) (f : FetchItem) (r : List FetchItem) : (s.latch f r).nAt = s.nAt := rfl
@[simp] theorem State.latch_nNext (s : State) (f : FetchItem) (r : List FetchItem) : (s.latch f r).nNext = s.nNext := rfl
@[simp] theorem State.latch_nDue (s : State) (f : FetchItem) (r : List FetchItem) : (s.latch f r).nDue = s.nDue := rfl
@[simp] theorem State.latch_overAt (s : State) (f : FetchItem) (r : List FetchItem) : (s.latch f r).overAt = s.overAt := rfl
@[simp] theorem State.latch_group (s : State) (f : FetchItem) (r : List FetchItem) : (s.latch f r).group = s.group := rfl
@[simp] theorem State.latch_groupMembers (s : State) (f : FetchItem) (r : List FetchItem) : (s.latch f r).groupMembers = s.groupMembers := rfl
@[simp] theorem State.latch_ptpOffset (s : State) (f : FetchItem) (r : List FetchItem) : (s.latch f r).ptpOffset = s.ptpOffset := rfl
@[simp] theorem State.latch_ptpPpm (s : State) (f : FetchItem) (r : List FetchItem) : (s.latch f r).ptpPpm = s.ptpPpm := rfl
@[simp] theorem State.latch_ports (s : State) (f : FetchItem) (r : List FetchItem) : (s.latch f r).ports = s.ports := rfl
@[simp] theorem State.latch_allow (s : State) (f : FetchItem) (r : List FetchItem) : (s.latch f r).allow = s.allow := rfl
@[simp] theorem State.latch_tx (s : State) (f : FetchItem) (r : List FetchItem) : (s.latch f r).tx = s.tx := rfl
@[simp] theorem State.latch_sessions (s : State) (f : FetchItem) (r : List FetchItem) : (s.latch f r).sessions = s.sessions := rfl
@[simp] theorem State.latch_nextSid (s : State) (f : FetchItem) (r : List FetchItem) : (s.latch f r).nextSid = s.nextSid := rfl
@[simp] theorem State.latch_outbox (s : State) (f : FetchItem) (r : List FetchItem) : (s.latch f r).outbox = s.outbox := rfl
@[simp] theorem State.latch_contexts (s : State) (f : FetchItem) (r : List FetchItem) : (s.latch f r).contexts = s.contexts := rfl
@[simp] theorem State.latch_openings (s : State) (f : FetchItem) (r : List FetchItem) : (s.latch f r).openings = s.openings := rfl
@[simp] theorem State.latch_pointers (s : State) (f : FetchItem) (r : List FetchItem) : (s.latch f r).pointers = s.pointers := rfl
@[simp] theorem State.latch_runs (s : State) (f : FetchItem) (r : List FetchItem) : (s.latch f r).runs = s.runs := rfl
@[simp] theorem State.latch_launches (s : State) (f : FetchItem) (r : List FetchItem) : (s.latch f r).launches = s.launches := rfl
@[simp] theorem State.latch_nextId (s : State) (f : FetchItem) (r : List FetchItem) : (s.latch f r).nextId = s.nextId := rfl
@[simp] theorem State.latch_picked (s : State) (f : FetchItem) (r : List FetchItem) : (s.latch f r).picked = s.picked := rfl
@[simp] theorem State.latch_ending (s : State) (f : FetchItem) (r : List FetchItem) : (s.latch f r).ending = s.ending := rfl
@[simp] theorem State.latch_decidedAt (s : State) (f : FetchItem) (r : List FetchItem) : (s.latch f r).decidedAt = s.decidedAt := rfl
@[simp] theorem State.latch_jobs (s : State) (f : FetchItem) (r : List FetchItem) : (s.latch f r).jobs = s.jobs := rfl
@[simp] theorem State.latch_loads (s : State) (f : FetchItem) (r : List FetchItem) : (s.latch f r).loads = s.loads := rfl
@[simp] theorem State.latch_preempts (s : State) (f : FetchItem) (r : List FetchItem) : (s.latch f r).preempts = s.preempts := rfl
@[simp] theorem State.latch_halts (s : State) (f : FetchItem) (r : List FetchItem) : (s.latch f r).halts = s.halts := rfl
@[simp] theorem State.latch_halted (s : State) (f : FetchItem) (r : List FetchItem) : (s.latch f r).halted = s.halted := rfl
@[simp] theorem State.latch_noDispatch (s : State) (f : FetchItem) (r : List FetchItem) : (s.latch f r).noDispatch = s.noDispatch := rfl
@[simp] theorem State.latch_engines (s : State) (f : FetchItem) (r : List FetchItem) : (s.latch f r).engines = s.engines := rfl
@[simp] theorem State.latch_reads (s : State) (f : FetchItem) (r : List FetchItem) : (s.latch f r).reads = s.reads := rfl
@[simp] theorem State.latch_commits (s : State) (f : FetchItem) (r : List FetchItem) : (s.latch f r).commits = s.commits := rfl
@[simp] theorem State.latch_gone (s : State) (f : FetchItem) (r : List FetchItem) : (s.latch f r).gone = s.gone := rfl
@[simp] theorem State.latch_bridges (s : State) (f : FetchItem) (r : List FetchItem) : (s.latch f r).bridges = s.bridges := rfl
@[simp] theorem State.latch_up (s : State) (f : FetchItem) (r : List FetchItem) : (s.latch f r).up = s.up := rfl
@[simp] theorem State.latch_segs (s : State) (f : FetchItem) (r : List FetchItem) : (s.latch f r).segs = s.segs := rfl
@[simp] theorem State.latch_roving (s : State) (f : FetchItem) (r : List FetchItem) : (s.latch f r).roving = s.roving := rfl
@[simp] theorem State.latch_dram (s : State) (f : FetchItem) (r : List FetchItem) : (s.latch f r).dram = s.dram := rfl
@[simp] theorem State.latch_fv (s : State) (f : FetchItem) (r : List FetchItem) : (s.latch f r).fv = s.fv := rfl
@[simp] theorem State.post_fetch (s : State) (c ph : Nat) (i : FetchItem) : (s.post c ph i).fetch = s.fetch := rfl
@[simp] theorem State.post_arg (s : State) (c ph : Nat) (i : FetchItem) : (s.post c ph i).arg = s.arg := rfl
@[simp] theorem State.post_cur (s : State) (c ph : Nat) (i : FetchItem) : (s.post c ph i).cur = s.cur := rfl
@[simp] theorem State.post_now (s : State) (c ph : Nat) (i : FetchItem) : (s.post c ph i).now = s.now := rfl
@[simp] theorem State.post_tiles (s : State) (c ph : Nat) (i : FetchItem) : (s.post c ph i).tiles = s.tiles := rfl
@[simp] theorem State.post_mode (s : State) (c ph : Nat) (i : FetchItem) : (s.post c ph i).mode = s.mode := rfl
@[simp] theorem State.post_testing (s : State) (c ph : Nat) (i : FetchItem) : (s.post c ph i).testing = s.testing := rfl
@[simp] theorem State.post_fullTest (s : State) (c ph : Nat) (i : FetchItem) : (s.post c ph i).fullTest = s.fullTest := rfl
@[simp] theorem State.post_vexKey (s : State) (c ph : Nat) (i : FetchItem) : (s.post c ph i).vexKey = s.vexKey := rfl
@[simp] theorem State.post_devKey (s : State) (c ph : Nat) (i : FetchItem) : (s.post c ph i).devKey = s.devKey := rfl
@[simp] theorem State.post_rom (s : State) (c ph : Nat) (i : FetchItem) : (s.post c ph i).rom = s.rom := rfl
@[simp] theorem State.post_fw (s : State) (c ph : Nat) (i : FetchItem) : (s.post c ph i).fw = s.fw := rfl
@[simp] theorem State.post_map (s : State) (c ph : Nat) (i : FetchItem) : (s.post c ph i).map = s.map := rfl
@[simp] theorem State.post_remap (s : State) (c ph : Nat) (i : FetchItem) : (s.post c ph i).remap = s.remap := rfl
@[simp] theorem State.post_remapSig (s : State) (c ph : Nat) (i : FetchItem) : (s.post c ph i).remapSig = s.remapSig := rfl
@[simp] theorem State.post_meas (s : State) (c ph : Nat) (i : FetchItem) : (s.post c ph i).meas = s.meas := rfl
@[simp] theorem State.post_exported (s : State) (c ph : Nat) (i : FetchItem) : (s.post c ph i).exported = s.exported := rfl
@[simp] theorem State.post_mgmt (s : State) (c ph : Nat) (i : FetchItem) : (s.post c ph i).mgmt = s.mgmt := rfl
@[simp] theorem State.post_n (s : State) (c ph : Nat) (i : FetchItem) : (s.post c ph i).n = s.n := rfl
@[simp] theorem State.post_nAt (s : State) (c ph : Nat) (i : FetchItem) : (s.post c ph i).nAt = s.nAt := rfl
@[simp] theorem State.post_nNext (s : State) (c ph : Nat) (i : FetchItem) : (s.post c ph i).nNext = s.nNext := rfl
@[simp] theorem State.post_nDue (s : State) (c ph : Nat) (i : FetchItem) : (s.post c ph i).nDue = s.nDue := rfl
@[simp] theorem State.post_overAt (s : State) (c ph : Nat) (i : FetchItem) : (s.post c ph i).overAt = s.overAt := rfl
@[simp] theorem State.post_group (s : State) (c ph : Nat) (i : FetchItem) : (s.post c ph i).group = s.group := rfl
@[simp] theorem State.post_groupMembers (s : State) (c ph : Nat) (i : FetchItem) : (s.post c ph i).groupMembers = s.groupMembers := rfl
@[simp] theorem State.post_ptpOffset (s : State) (c ph : Nat) (i : FetchItem) : (s.post c ph i).ptpOffset = s.ptpOffset := rfl
@[simp] theorem State.post_ptpPpm (s : State) (c ph : Nat) (i : FetchItem) : (s.post c ph i).ptpPpm = s.ptpPpm := rfl
@[simp] theorem State.post_ports (s : State) (c ph : Nat) (i : FetchItem) : (s.post c ph i).ports = s.ports := rfl
@[simp] theorem State.post_allow (s : State) (c ph : Nat) (i : FetchItem) : (s.post c ph i).allow = s.allow := rfl
@[simp] theorem State.post_tx (s : State) (c ph : Nat) (i : FetchItem) : (s.post c ph i).tx = s.tx := rfl
@[simp] theorem State.post_sessions (s : State) (c ph : Nat) (i : FetchItem) : (s.post c ph i).sessions = s.sessions := rfl
@[simp] theorem State.post_nextSid (s : State) (c ph : Nat) (i : FetchItem) : (s.post c ph i).nextSid = s.nextSid := rfl
@[simp] theorem State.post_outbox (s : State) (c ph : Nat) (i : FetchItem) : (s.post c ph i).outbox = s.outbox := rfl
@[simp] theorem State.post_contexts (s : State) (c ph : Nat) (i : FetchItem) : (s.post c ph i).contexts = s.contexts := rfl
@[simp] theorem State.post_openings (s : State) (c ph : Nat) (i : FetchItem) : (s.post c ph i).openings = s.openings := rfl
@[simp] theorem State.post_pointers (s : State) (c ph : Nat) (i : FetchItem) : (s.post c ph i).pointers = s.pointers := rfl
@[simp] theorem State.post_runs (s : State) (c ph : Nat) (i : FetchItem) : (s.post c ph i).runs = s.runs := rfl
@[simp] theorem State.post_launches (s : State) (c ph : Nat) (i : FetchItem) : (s.post c ph i).launches = s.launches := rfl
@[simp] theorem State.post_nextId (s : State) (c ph : Nat) (i : FetchItem) : (s.post c ph i).nextId = s.nextId := rfl
@[simp] theorem State.post_picked (s : State) (c ph : Nat) (i : FetchItem) : (s.post c ph i).picked = s.picked := rfl
@[simp] theorem State.post_ending (s : State) (c ph : Nat) (i : FetchItem) : (s.post c ph i).ending = s.ending := rfl
@[simp] theorem State.post_decidedAt (s : State) (c ph : Nat) (i : FetchItem) : (s.post c ph i).decidedAt = s.decidedAt := rfl
@[simp] theorem State.post_jobs (s : State) (c ph : Nat) (i : FetchItem) : (s.post c ph i).jobs = s.jobs := rfl
@[simp] theorem State.post_loads (s : State) (c ph : Nat) (i : FetchItem) : (s.post c ph i).loads = s.loads := rfl
@[simp] theorem State.post_preempts (s : State) (c ph : Nat) (i : FetchItem) : (s.post c ph i).preempts = s.preempts := rfl
@[simp] theorem State.post_halts (s : State) (c ph : Nat) (i : FetchItem) : (s.post c ph i).halts = s.halts := rfl
@[simp] theorem State.post_halted (s : State) (c ph : Nat) (i : FetchItem) : (s.post c ph i).halted = s.halted := rfl
@[simp] theorem State.post_noDispatch (s : State) (c ph : Nat) (i : FetchItem) : (s.post c ph i).noDispatch = s.noDispatch := rfl
@[simp] theorem State.post_engines (s : State) (c ph : Nat) (i : FetchItem) : (s.post c ph i).engines = s.engines := rfl
@[simp] theorem State.post_reads (s : State) (c ph : Nat) (i : FetchItem) : (s.post c ph i).reads = s.reads := rfl
@[simp] theorem State.post_commits (s : State) (c ph : Nat) (i : FetchItem) : (s.post c ph i).commits = s.commits := rfl
@[simp] theorem State.post_gone (s : State) (c ph : Nat) (i : FetchItem) : (s.post c ph i).gone = s.gone := rfl
@[simp] theorem State.post_bridges (s : State) (c ph : Nat) (i : FetchItem) : (s.post c ph i).bridges = s.bridges := rfl
@[simp] theorem State.post_up (s : State) (c ph : Nat) (i : FetchItem) : (s.post c ph i).up = s.up := rfl
@[simp] theorem State.post_segs (s : State) (c ph : Nat) (i : FetchItem) : (s.post c ph i).segs = s.segs := rfl
@[simp] theorem State.post_roving (s : State) (c ph : Nat) (i : FetchItem) : (s.post c ph i).roving = s.roving := rfl
@[simp] theorem State.post_dram (s : State) (c ph : Nat) (i : FetchItem) : (s.post c ph i).dram = s.dram := rfl
@[simp] theorem State.post_fv (s : State) (c ph : Nat) (i : FetchItem) : (s.post c ph i).fv = s.fv := rfl
@[simp] theorem State.postEv_fetch (s : State) (c ph row : Nat) (n : List Nat) : (s.postEv c ph row n).fetch = s.fetch := rfl
@[simp] theorem State.postEv_arg (s : State) (c ph row : Nat) (n : List Nat) : (s.postEv c ph row n).arg = s.arg := rfl
@[simp] theorem State.postEv_cur (s : State) (c ph row : Nat) (n : List Nat) : (s.postEv c ph row n).cur = s.cur := rfl
@[simp] theorem State.postEv_now (s : State) (c ph row : Nat) (n : List Nat) : (s.postEv c ph row n).now = s.now := rfl
@[simp] theorem State.postEv_tiles (s : State) (c ph row : Nat) (n : List Nat) : (s.postEv c ph row n).tiles = s.tiles := rfl
@[simp] theorem State.postEv_mode (s : State) (c ph row : Nat) (n : List Nat) : (s.postEv c ph row n).mode = s.mode := rfl
@[simp] theorem State.postEv_testing (s : State) (c ph row : Nat) (n : List Nat) : (s.postEv c ph row n).testing = s.testing := rfl
@[simp] theorem State.postEv_fullTest (s : State) (c ph row : Nat) (n : List Nat) : (s.postEv c ph row n).fullTest = s.fullTest := rfl
@[simp] theorem State.postEv_vexKey (s : State) (c ph row : Nat) (n : List Nat) : (s.postEv c ph row n).vexKey = s.vexKey := rfl
@[simp] theorem State.postEv_devKey (s : State) (c ph row : Nat) (n : List Nat) : (s.postEv c ph row n).devKey = s.devKey := rfl
@[simp] theorem State.postEv_rom (s : State) (c ph row : Nat) (n : List Nat) : (s.postEv c ph row n).rom = s.rom := rfl
@[simp] theorem State.postEv_fw (s : State) (c ph row : Nat) (n : List Nat) : (s.postEv c ph row n).fw = s.fw := rfl
@[simp] theorem State.postEv_map (s : State) (c ph row : Nat) (n : List Nat) : (s.postEv c ph row n).map = s.map := rfl
@[simp] theorem State.postEv_remap (s : State) (c ph row : Nat) (n : List Nat) : (s.postEv c ph row n).remap = s.remap := rfl
@[simp] theorem State.postEv_remapSig (s : State) (c ph row : Nat) (n : List Nat) : (s.postEv c ph row n).remapSig = s.remapSig := rfl
@[simp] theorem State.postEv_meas (s : State) (c ph row : Nat) (n : List Nat) : (s.postEv c ph row n).meas = s.meas := rfl
@[simp] theorem State.postEv_exported (s : State) (c ph row : Nat) (n : List Nat) : (s.postEv c ph row n).exported = s.exported := rfl
@[simp] theorem State.postEv_mgmt (s : State) (c ph row : Nat) (n : List Nat) : (s.postEv c ph row n).mgmt = s.mgmt := rfl
@[simp] theorem State.postEv_n (s : State) (c ph row : Nat) (n : List Nat) : (s.postEv c ph row n).n = s.n := rfl
@[simp] theorem State.postEv_nAt (s : State) (c ph row : Nat) (n : List Nat) : (s.postEv c ph row n).nAt = s.nAt := rfl
@[simp] theorem State.postEv_nNext (s : State) (c ph row : Nat) (n : List Nat) : (s.postEv c ph row n).nNext = s.nNext := rfl
@[simp] theorem State.postEv_nDue (s : State) (c ph row : Nat) (n : List Nat) : (s.postEv c ph row n).nDue = s.nDue := rfl
@[simp] theorem State.postEv_overAt (s : State) (c ph row : Nat) (n : List Nat) : (s.postEv c ph row n).overAt = s.overAt := rfl
@[simp] theorem State.postEv_group (s : State) (c ph row : Nat) (n : List Nat) : (s.postEv c ph row n).group = s.group := rfl
@[simp] theorem State.postEv_groupMembers (s : State) (c ph row : Nat) (n : List Nat) : (s.postEv c ph row n).groupMembers = s.groupMembers := rfl
@[simp] theorem State.postEv_ptpOffset (s : State) (c ph row : Nat) (n : List Nat) : (s.postEv c ph row n).ptpOffset = s.ptpOffset := rfl
@[simp] theorem State.postEv_ptpPpm (s : State) (c ph row : Nat) (n : List Nat) : (s.postEv c ph row n).ptpPpm = s.ptpPpm := rfl
@[simp] theorem State.postEv_ports (s : State) (c ph row : Nat) (n : List Nat) : (s.postEv c ph row n).ports = s.ports := rfl
@[simp] theorem State.postEv_allow (s : State) (c ph row : Nat) (n : List Nat) : (s.postEv c ph row n).allow = s.allow := rfl
@[simp] theorem State.postEv_tx (s : State) (c ph row : Nat) (n : List Nat) : (s.postEv c ph row n).tx = s.tx := rfl
@[simp] theorem State.postEv_sessions (s : State) (c ph row : Nat) (n : List Nat) : (s.postEv c ph row n).sessions = s.sessions := rfl
@[simp] theorem State.postEv_nextSid (s : State) (c ph row : Nat) (n : List Nat) : (s.postEv c ph row n).nextSid = s.nextSid := rfl
@[simp] theorem State.postEv_outbox (s : State) (c ph row : Nat) (n : List Nat) : (s.postEv c ph row n).outbox = s.outbox := rfl
@[simp] theorem State.postEv_contexts (s : State) (c ph row : Nat) (n : List Nat) : (s.postEv c ph row n).contexts = s.contexts := rfl
@[simp] theorem State.postEv_openings (s : State) (c ph row : Nat) (n : List Nat) : (s.postEv c ph row n).openings = s.openings := rfl
@[simp] theorem State.postEv_pointers (s : State) (c ph row : Nat) (n : List Nat) : (s.postEv c ph row n).pointers = s.pointers := rfl
@[simp] theorem State.postEv_runs (s : State) (c ph row : Nat) (n : List Nat) : (s.postEv c ph row n).runs = s.runs := rfl
@[simp] theorem State.postEv_launches (s : State) (c ph row : Nat) (n : List Nat) : (s.postEv c ph row n).launches = s.launches := rfl
@[simp] theorem State.postEv_nextId (s : State) (c ph row : Nat) (n : List Nat) : (s.postEv c ph row n).nextId = s.nextId := rfl
@[simp] theorem State.postEv_picked (s : State) (c ph row : Nat) (n : List Nat) : (s.postEv c ph row n).picked = s.picked := rfl
@[simp] theorem State.postEv_ending (s : State) (c ph row : Nat) (n : List Nat) : (s.postEv c ph row n).ending = s.ending := rfl
@[simp] theorem State.postEv_decidedAt (s : State) (c ph row : Nat) (n : List Nat) : (s.postEv c ph row n).decidedAt = s.decidedAt := rfl
@[simp] theorem State.postEv_jobs (s : State) (c ph row : Nat) (n : List Nat) : (s.postEv c ph row n).jobs = s.jobs := rfl
@[simp] theorem State.postEv_loads (s : State) (c ph row : Nat) (n : List Nat) : (s.postEv c ph row n).loads = s.loads := rfl
@[simp] theorem State.postEv_preempts (s : State) (c ph row : Nat) (n : List Nat) : (s.postEv c ph row n).preempts = s.preempts := rfl
@[simp] theorem State.postEv_halts (s : State) (c ph row : Nat) (n : List Nat) : (s.postEv c ph row n).halts = s.halts := rfl
@[simp] theorem State.postEv_halted (s : State) (c ph row : Nat) (n : List Nat) : (s.postEv c ph row n).halted = s.halted := rfl
@[simp] theorem State.postEv_noDispatch (s : State) (c ph row : Nat) (n : List Nat) : (s.postEv c ph row n).noDispatch = s.noDispatch := rfl
@[simp] theorem State.postEv_engines (s : State) (c ph row : Nat) (n : List Nat) : (s.postEv c ph row n).engines = s.engines := rfl
@[simp] theorem State.postEv_reads (s : State) (c ph row : Nat) (n : List Nat) : (s.postEv c ph row n).reads = s.reads := rfl
@[simp] theorem State.postEv_commits (s : State) (c ph row : Nat) (n : List Nat) : (s.postEv c ph row n).commits = s.commits := rfl
@[simp] theorem State.postEv_gone (s : State) (c ph row : Nat) (n : List Nat) : (s.postEv c ph row n).gone = s.gone := rfl
@[simp] theorem State.postEv_bridges (s : State) (c ph row : Nat) (n : List Nat) : (s.postEv c ph row n).bridges = s.bridges := rfl
@[simp] theorem State.postEv_up (s : State) (c ph row : Nat) (n : List Nat) : (s.postEv c ph row n).up = s.up := rfl
@[simp] theorem State.postEv_segs (s : State) (c ph row : Nat) (n : List Nat) : (s.postEv c ph row n).segs = s.segs := rfl
@[simp] theorem State.postEv_roving (s : State) (c ph row : Nat) (n : List Nat) : (s.postEv c ph row n).roving = s.roving := rfl
@[simp] theorem State.postEv_dram (s : State) (c ph row : Nat) (n : List Nat) : (s.postEv c ph row n).dram = s.dram := rfl
@[simp] theorem State.postEv_fv (s : State) (c ph row : Nat) (n : List Nat) : (s.postEv c ph row n).fv = s.fv := rfl
@[simp] theorem State.nowEv_arg (s : State) (row : Nat) (n : List Nat) : (s.nowEv row n).arg = s.arg := rfl
@[simp] theorem State.nowEv_cur (s : State) (row : Nat) (n : List Nat) : (s.nowEv row n).cur = s.cur := rfl
@[simp] theorem State.nowEv_now (s : State) (row : Nat) (n : List Nat) : (s.nowEv row n).now = s.now := rfl
@[simp] theorem State.nowEv_agenda (s : State) (row : Nat) (n : List Nat) : (s.nowEv row n).agenda = s.agenda := rfl
@[simp] theorem State.nowEv_tiles (s : State) (row : Nat) (n : List Nat) : (s.nowEv row n).tiles = s.tiles := rfl
@[simp] theorem State.nowEv_mode (s : State) (row : Nat) (n : List Nat) : (s.nowEv row n).mode = s.mode := rfl
@[simp] theorem State.nowEv_testing (s : State) (row : Nat) (n : List Nat) : (s.nowEv row n).testing = s.testing := rfl
@[simp] theorem State.nowEv_fullTest (s : State) (row : Nat) (n : List Nat) : (s.nowEv row n).fullTest = s.fullTest := rfl
@[simp] theorem State.nowEv_vexKey (s : State) (row : Nat) (n : List Nat) : (s.nowEv row n).vexKey = s.vexKey := rfl
@[simp] theorem State.nowEv_devKey (s : State) (row : Nat) (n : List Nat) : (s.nowEv row n).devKey = s.devKey := rfl
@[simp] theorem State.nowEv_rom (s : State) (row : Nat) (n : List Nat) : (s.nowEv row n).rom = s.rom := rfl
@[simp] theorem State.nowEv_fw (s : State) (row : Nat) (n : List Nat) : (s.nowEv row n).fw = s.fw := rfl
@[simp] theorem State.nowEv_map (s : State) (row : Nat) (n : List Nat) : (s.nowEv row n).map = s.map := rfl
@[simp] theorem State.nowEv_remap (s : State) (row : Nat) (n : List Nat) : (s.nowEv row n).remap = s.remap := rfl
@[simp] theorem State.nowEv_remapSig (s : State) (row : Nat) (n : List Nat) : (s.nowEv row n).remapSig = s.remapSig := rfl
@[simp] theorem State.nowEv_meas (s : State) (row : Nat) (n : List Nat) : (s.nowEv row n).meas = s.meas := rfl
@[simp] theorem State.nowEv_exported (s : State) (row : Nat) (n : List Nat) : (s.nowEv row n).exported = s.exported := rfl
@[simp] theorem State.nowEv_mgmt (s : State) (row : Nat) (n : List Nat) : (s.nowEv row n).mgmt = s.mgmt := rfl
@[simp] theorem State.nowEv_n (s : State) (row : Nat) (n : List Nat) : (s.nowEv row n).n = s.n := rfl
@[simp] theorem State.nowEv_nAt (s : State) (row : Nat) (n : List Nat) : (s.nowEv row n).nAt = s.nAt := rfl
@[simp] theorem State.nowEv_nNext (s : State) (row : Nat) (n : List Nat) : (s.nowEv row n).nNext = s.nNext := rfl
@[simp] theorem State.nowEv_nDue (s : State) (row : Nat) (n : List Nat) : (s.nowEv row n).nDue = s.nDue := rfl
@[simp] theorem State.nowEv_overAt (s : State) (row : Nat) (n : List Nat) : (s.nowEv row n).overAt = s.overAt := rfl
@[simp] theorem State.nowEv_group (s : State) (row : Nat) (n : List Nat) : (s.nowEv row n).group = s.group := rfl
@[simp] theorem State.nowEv_groupMembers (s : State) (row : Nat) (n : List Nat) : (s.nowEv row n).groupMembers = s.groupMembers := rfl
@[simp] theorem State.nowEv_ptpOffset (s : State) (row : Nat) (n : List Nat) : (s.nowEv row n).ptpOffset = s.ptpOffset := rfl
@[simp] theorem State.nowEv_ptpPpm (s : State) (row : Nat) (n : List Nat) : (s.nowEv row n).ptpPpm = s.ptpPpm := rfl
@[simp] theorem State.nowEv_ports (s : State) (row : Nat) (n : List Nat) : (s.nowEv row n).ports = s.ports := rfl
@[simp] theorem State.nowEv_allow (s : State) (row : Nat) (n : List Nat) : (s.nowEv row n).allow = s.allow := rfl
@[simp] theorem State.nowEv_tx (s : State) (row : Nat) (n : List Nat) : (s.nowEv row n).tx = s.tx := rfl
@[simp] theorem State.nowEv_sessions (s : State) (row : Nat) (n : List Nat) : (s.nowEv row n).sessions = s.sessions := rfl
@[simp] theorem State.nowEv_nextSid (s : State) (row : Nat) (n : List Nat) : (s.nowEv row n).nextSid = s.nextSid := rfl
@[simp] theorem State.nowEv_outbox (s : State) (row : Nat) (n : List Nat) : (s.nowEv row n).outbox = s.outbox := rfl
@[simp] theorem State.nowEv_contexts (s : State) (row : Nat) (n : List Nat) : (s.nowEv row n).contexts = s.contexts := rfl
@[simp] theorem State.nowEv_openings (s : State) (row : Nat) (n : List Nat) : (s.nowEv row n).openings = s.openings := rfl
@[simp] theorem State.nowEv_pointers (s : State) (row : Nat) (n : List Nat) : (s.nowEv row n).pointers = s.pointers := rfl
@[simp] theorem State.nowEv_runs (s : State) (row : Nat) (n : List Nat) : (s.nowEv row n).runs = s.runs := rfl
@[simp] theorem State.nowEv_launches (s : State) (row : Nat) (n : List Nat) : (s.nowEv row n).launches = s.launches := rfl
@[simp] theorem State.nowEv_nextId (s : State) (row : Nat) (n : List Nat) : (s.nowEv row n).nextId = s.nextId := rfl
@[simp] theorem State.nowEv_picked (s : State) (row : Nat) (n : List Nat) : (s.nowEv row n).picked = s.picked := rfl
@[simp] theorem State.nowEv_ending (s : State) (row : Nat) (n : List Nat) : (s.nowEv row n).ending = s.ending := rfl
@[simp] theorem State.nowEv_decidedAt (s : State) (row : Nat) (n : List Nat) : (s.nowEv row n).decidedAt = s.decidedAt := rfl
@[simp] theorem State.nowEv_jobs (s : State) (row : Nat) (n : List Nat) : (s.nowEv row n).jobs = s.jobs := rfl
@[simp] theorem State.nowEv_loads (s : State) (row : Nat) (n : List Nat) : (s.nowEv row n).loads = s.loads := rfl
@[simp] theorem State.nowEv_preempts (s : State) (row : Nat) (n : List Nat) : (s.nowEv row n).preempts = s.preempts := rfl
@[simp] theorem State.nowEv_halts (s : State) (row : Nat) (n : List Nat) : (s.nowEv row n).halts = s.halts := rfl
@[simp] theorem State.nowEv_halted (s : State) (row : Nat) (n : List Nat) : (s.nowEv row n).halted = s.halted := rfl
@[simp] theorem State.nowEv_noDispatch (s : State) (row : Nat) (n : List Nat) : (s.nowEv row n).noDispatch = s.noDispatch := rfl
@[simp] theorem State.nowEv_engines (s : State) (row : Nat) (n : List Nat) : (s.nowEv row n).engines = s.engines := rfl
@[simp] theorem State.nowEv_reads (s : State) (row : Nat) (n : List Nat) : (s.nowEv row n).reads = s.reads := rfl
@[simp] theorem State.nowEv_commits (s : State) (row : Nat) (n : List Nat) : (s.nowEv row n).commits = s.commits := rfl
@[simp] theorem State.nowEv_gone (s : State) (row : Nat) (n : List Nat) : (s.nowEv row n).gone = s.gone := rfl
@[simp] theorem State.nowEv_bridges (s : State) (row : Nat) (n : List Nat) : (s.nowEv row n).bridges = s.bridges := rfl
@[simp] theorem State.nowEv_up (s : State) (row : Nat) (n : List Nat) : (s.nowEv row n).up = s.up := rfl
@[simp] theorem State.nowEv_segs (s : State) (row : Nat) (n : List Nat) : (s.nowEv row n).segs = s.segs := rfl
@[simp] theorem State.nowEv_roving (s : State) (row : Nat) (n : List Nat) : (s.nowEv row n).roving = s.roving := rfl
@[simp] theorem State.nowEv_dram (s : State) (row : Nat) (n : List Nat) : (s.nowEv row n).dram = s.dram := rfl
@[simp] theorem State.nowEv_fv (s : State) (row : Nat) (n : List Nat) : (s.nowEv row n).fv = s.fv := rfl
@[simp] theorem State.setSession_fetch (s : State) (e : Session) : (s.setSession e).fetch = s.fetch := rfl
@[simp] theorem State.setSession_arg (s : State) (e : Session) : (s.setSession e).arg = s.arg := rfl
@[simp] theorem State.setSession_cur (s : State) (e : Session) : (s.setSession e).cur = s.cur := rfl
@[simp] theorem State.setSession_now (s : State) (e : Session) : (s.setSession e).now = s.now := rfl
@[simp] theorem State.setSession_agenda (s : State) (e : Session) : (s.setSession e).agenda = s.agenda := rfl
@[simp] theorem State.setSession_tiles (s : State) (e : Session) : (s.setSession e).tiles = s.tiles := rfl
@[simp] theorem State.setSession_mode (s : State) (e : Session) : (s.setSession e).mode = s.mode := rfl
@[simp] theorem State.setSession_testing (s : State) (e : Session) : (s.setSession e).testing = s.testing := rfl
@[simp] theorem State.setSession_fullTest (s : State) (e : Session) : (s.setSession e).fullTest = s.fullTest := rfl
@[simp] theorem State.setSession_vexKey (s : State) (e : Session) : (s.setSession e).vexKey = s.vexKey := rfl
@[simp] theorem State.setSession_devKey (s : State) (e : Session) : (s.setSession e).devKey = s.devKey := rfl
@[simp] theorem State.setSession_rom (s : State) (e : Session) : (s.setSession e).rom = s.rom := rfl
@[simp] theorem State.setSession_fw (s : State) (e : Session) : (s.setSession e).fw = s.fw := rfl
@[simp] theorem State.setSession_map (s : State) (e : Session) : (s.setSession e).map = s.map := rfl
@[simp] theorem State.setSession_remap (s : State) (e : Session) : (s.setSession e).remap = s.remap := rfl
@[simp] theorem State.setSession_remapSig (s : State) (e : Session) : (s.setSession e).remapSig = s.remapSig := rfl
@[simp] theorem State.setSession_meas (s : State) (e : Session) : (s.setSession e).meas = s.meas := rfl
@[simp] theorem State.setSession_exported (s : State) (e : Session) : (s.setSession e).exported = s.exported := rfl
@[simp] theorem State.setSession_mgmt (s : State) (e : Session) : (s.setSession e).mgmt = s.mgmt := rfl
@[simp] theorem State.setSession_n (s : State) (e : Session) : (s.setSession e).n = s.n := rfl
@[simp] theorem State.setSession_nAt (s : State) (e : Session) : (s.setSession e).nAt = s.nAt := rfl
@[simp] theorem State.setSession_nNext (s : State) (e : Session) : (s.setSession e).nNext = s.nNext := rfl
@[simp] theorem State.setSession_nDue (s : State) (e : Session) : (s.setSession e).nDue = s.nDue := rfl
@[simp] theorem State.setSession_overAt (s : State) (e : Session) : (s.setSession e).overAt = s.overAt := rfl
@[simp] theorem State.setSession_group (s : State) (e : Session) : (s.setSession e).group = s.group := rfl
@[simp] theorem State.setSession_groupMembers (s : State) (e : Session) : (s.setSession e).groupMembers = s.groupMembers := rfl
@[simp] theorem State.setSession_ptpOffset (s : State) (e : Session) : (s.setSession e).ptpOffset = s.ptpOffset := rfl
@[simp] theorem State.setSession_ptpPpm (s : State) (e : Session) : (s.setSession e).ptpPpm = s.ptpPpm := rfl
@[simp] theorem State.setSession_ports (s : State) (e : Session) : (s.setSession e).ports = s.ports := rfl
@[simp] theorem State.setSession_allow (s : State) (e : Session) : (s.setSession e).allow = s.allow := rfl
@[simp] theorem State.setSession_tx (s : State) (e : Session) : (s.setSession e).tx = s.tx := rfl
@[simp] theorem State.setSession_nextSid (s : State) (e : Session) : (s.setSession e).nextSid = s.nextSid := rfl
@[simp] theorem State.setSession_outbox (s : State) (e : Session) : (s.setSession e).outbox = s.outbox := rfl
@[simp] theorem State.setSession_contexts (s : State) (e : Session) : (s.setSession e).contexts = s.contexts := rfl
@[simp] theorem State.setSession_openings (s : State) (e : Session) : (s.setSession e).openings = s.openings := rfl
@[simp] theorem State.setSession_pointers (s : State) (e : Session) : (s.setSession e).pointers = s.pointers := rfl
@[simp] theorem State.setSession_runs (s : State) (e : Session) : (s.setSession e).runs = s.runs := rfl
@[simp] theorem State.setSession_launches (s : State) (e : Session) : (s.setSession e).launches = s.launches := rfl
@[simp] theorem State.setSession_nextId (s : State) (e : Session) : (s.setSession e).nextId = s.nextId := rfl
@[simp] theorem State.setSession_picked (s : State) (e : Session) : (s.setSession e).picked = s.picked := rfl
@[simp] theorem State.setSession_ending (s : State) (e : Session) : (s.setSession e).ending = s.ending := rfl
@[simp] theorem State.setSession_decidedAt (s : State) (e : Session) : (s.setSession e).decidedAt = s.decidedAt := rfl
@[simp] theorem State.setSession_jobs (s : State) (e : Session) : (s.setSession e).jobs = s.jobs := rfl
@[simp] theorem State.setSession_loads (s : State) (e : Session) : (s.setSession e).loads = s.loads := rfl
@[simp] theorem State.setSession_preempts (s : State) (e : Session) : (s.setSession e).preempts = s.preempts := rfl
@[simp] theorem State.setSession_halts (s : State) (e : Session) : (s.setSession e).halts = s.halts := rfl
@[simp] theorem State.setSession_halted (s : State) (e : Session) : (s.setSession e).halted = s.halted := rfl
@[simp] theorem State.setSession_noDispatch (s : State) (e : Session) : (s.setSession e).noDispatch = s.noDispatch := rfl
@[simp] theorem State.setSession_engines (s : State) (e : Session) : (s.setSession e).engines = s.engines := rfl
@[simp] theorem State.setSession_reads (s : State) (e : Session) : (s.setSession e).reads = s.reads := rfl
@[simp] theorem State.setSession_commits (s : State) (e : Session) : (s.setSession e).commits = s.commits := rfl
@[simp] theorem State.setSession_gone (s : State) (e : Session) : (s.setSession e).gone = s.gone := rfl
@[simp] theorem State.setSession_bridges (s : State) (e : Session) : (s.setSession e).bridges = s.bridges := rfl
@[simp] theorem State.setSession_up (s : State) (e : Session) : (s.setSession e).up = s.up := rfl
@[simp] theorem State.setSession_segs (s : State) (e : Session) : (s.setSession e).segs = s.segs := rfl
@[simp] theorem State.setSession_roving (s : State) (e : Session) : (s.setSession e).roving = s.roving := rfl
@[simp] theorem State.setSession_dram (s : State) (e : Session) : (s.setSession e).dram = s.dram := rfl
@[simp] theorem State.setSession_fv (s : State) (e : Session) : (s.setSession e).fv = s.fv := rfl
@[simp] theorem State.send_fetch (s : State) (p : TxPkt) : (s.send p).fetch = s.fetch := rfl
@[simp] theorem State.send_arg (s : State) (p : TxPkt) : (s.send p).arg = s.arg := rfl
@[simp] theorem State.send_cur (s : State) (p : TxPkt) : (s.send p).cur = s.cur := rfl
@[simp] theorem State.send_now (s : State) (p : TxPkt) : (s.send p).now = s.now := rfl
@[simp] theorem State.send_agenda (s : State) (p : TxPkt) : (s.send p).agenda = s.agenda := rfl
@[simp] theorem State.send_tiles (s : State) (p : TxPkt) : (s.send p).tiles = s.tiles := rfl
@[simp] theorem State.send_mode (s : State) (p : TxPkt) : (s.send p).mode = s.mode := rfl
@[simp] theorem State.send_testing (s : State) (p : TxPkt) : (s.send p).testing = s.testing := rfl
@[simp] theorem State.send_fullTest (s : State) (p : TxPkt) : (s.send p).fullTest = s.fullTest := rfl
@[simp] theorem State.send_vexKey (s : State) (p : TxPkt) : (s.send p).vexKey = s.vexKey := rfl
@[simp] theorem State.send_devKey (s : State) (p : TxPkt) : (s.send p).devKey = s.devKey := rfl
@[simp] theorem State.send_rom (s : State) (p : TxPkt) : (s.send p).rom = s.rom := rfl
@[simp] theorem State.send_fw (s : State) (p : TxPkt) : (s.send p).fw = s.fw := rfl
@[simp] theorem State.send_map (s : State) (p : TxPkt) : (s.send p).map = s.map := rfl
@[simp] theorem State.send_remap (s : State) (p : TxPkt) : (s.send p).remap = s.remap := rfl
@[simp] theorem State.send_remapSig (s : State) (p : TxPkt) : (s.send p).remapSig = s.remapSig := rfl
@[simp] theorem State.send_meas (s : State) (p : TxPkt) : (s.send p).meas = s.meas := rfl
@[simp] theorem State.send_exported (s : State) (p : TxPkt) : (s.send p).exported = s.exported := rfl
@[simp] theorem State.send_mgmt (s : State) (p : TxPkt) : (s.send p).mgmt = s.mgmt := rfl
@[simp] theorem State.send_n (s : State) (p : TxPkt) : (s.send p).n = s.n := rfl
@[simp] theorem State.send_nAt (s : State) (p : TxPkt) : (s.send p).nAt = s.nAt := rfl
@[simp] theorem State.send_nNext (s : State) (p : TxPkt) : (s.send p).nNext = s.nNext := rfl
@[simp] theorem State.send_nDue (s : State) (p : TxPkt) : (s.send p).nDue = s.nDue := rfl
@[simp] theorem State.send_overAt (s : State) (p : TxPkt) : (s.send p).overAt = s.overAt := rfl
@[simp] theorem State.send_group (s : State) (p : TxPkt) : (s.send p).group = s.group := rfl
@[simp] theorem State.send_groupMembers (s : State) (p : TxPkt) : (s.send p).groupMembers = s.groupMembers := rfl
@[simp] theorem State.send_ptpOffset (s : State) (p : TxPkt) : (s.send p).ptpOffset = s.ptpOffset := rfl
@[simp] theorem State.send_ptpPpm (s : State) (p : TxPkt) : (s.send p).ptpPpm = s.ptpPpm := rfl
@[simp] theorem State.send_ports (s : State) (p : TxPkt) : (s.send p).ports = s.ports := rfl
@[simp] theorem State.send_allow (s : State) (p : TxPkt) : (s.send p).allow = s.allow := rfl
@[simp] theorem State.send_sessions (s : State) (p : TxPkt) : (s.send p).sessions = s.sessions := rfl
@[simp] theorem State.send_nextSid (s : State) (p : TxPkt) : (s.send p).nextSid = s.nextSid := rfl
@[simp] theorem State.send_outbox (s : State) (p : TxPkt) : (s.send p).outbox = s.outbox := rfl
@[simp] theorem State.send_contexts (s : State) (p : TxPkt) : (s.send p).contexts = s.contexts := rfl
@[simp] theorem State.send_openings (s : State) (p : TxPkt) : (s.send p).openings = s.openings := rfl
@[simp] theorem State.send_pointers (s : State) (p : TxPkt) : (s.send p).pointers = s.pointers := rfl
@[simp] theorem State.send_runs (s : State) (p : TxPkt) : (s.send p).runs = s.runs := rfl
@[simp] theorem State.send_launches (s : State) (p : TxPkt) : (s.send p).launches = s.launches := rfl
@[simp] theorem State.send_nextId (s : State) (p : TxPkt) : (s.send p).nextId = s.nextId := rfl
@[simp] theorem State.send_picked (s : State) (p : TxPkt) : (s.send p).picked = s.picked := rfl
@[simp] theorem State.send_ending (s : State) (p : TxPkt) : (s.send p).ending = s.ending := rfl
@[simp] theorem State.send_decidedAt (s : State) (p : TxPkt) : (s.send p).decidedAt = s.decidedAt := rfl
@[simp] theorem State.send_jobs (s : State) (p : TxPkt) : (s.send p).jobs = s.jobs := rfl
@[simp] theorem State.send_loads (s : State) (p : TxPkt) : (s.send p).loads = s.loads := rfl
@[simp] theorem State.send_preempts (s : State) (p : TxPkt) : (s.send p).preempts = s.preempts := rfl
@[simp] theorem State.send_halts (s : State) (p : TxPkt) : (s.send p).halts = s.halts := rfl
@[simp] theorem State.send_halted (s : State) (p : TxPkt) : (s.send p).halted = s.halted := rfl
@[simp] theorem State.send_noDispatch (s : State) (p : TxPkt) : (s.send p).noDispatch = s.noDispatch := rfl
@[simp] theorem State.send_engines (s : State) (p : TxPkt) : (s.send p).engines = s.engines := rfl
@[simp] theorem State.send_reads (s : State) (p : TxPkt) : (s.send p).reads = s.reads := rfl
@[simp] theorem State.send_commits (s : State) (p : TxPkt) : (s.send p).commits = s.commits := rfl
@[simp] theorem State.send_gone (s : State) (p : TxPkt) : (s.send p).gone = s.gone := rfl
@[simp] theorem State.send_bridges (s : State) (p : TxPkt) : (s.send p).bridges = s.bridges := rfl
@[simp] theorem State.send_up (s : State) (p : TxPkt) : (s.send p).up = s.up := rfl
@[simp] theorem State.send_segs (s : State) (p : TxPkt) : (s.send p).segs = s.segs := rfl
@[simp] theorem State.send_roving (s : State) (p : TxPkt) : (s.send p).roving = s.roving := rfl
@[simp] theorem State.send_dram (s : State) (p : TxPkt) : (s.send p).dram = s.dram := rfl
@[simp] theorem State.send_fv (s : State) (p : TxPkt) : (s.send p).fv = s.fv := rfl
@[simp] theorem State.setCtx_fetch (s : State) (c : Nat) (k : Context) : (s.setCtx c k).fetch = s.fetch := rfl
@[simp] theorem State.setCtx_arg (s : State) (c : Nat) (k : Context) : (s.setCtx c k).arg = s.arg := rfl
@[simp] theorem State.setCtx_cur (s : State) (c : Nat) (k : Context) : (s.setCtx c k).cur = s.cur := rfl
@[simp] theorem State.setCtx_now (s : State) (c : Nat) (k : Context) : (s.setCtx c k).now = s.now := rfl
@[simp] theorem State.setCtx_agenda (s : State) (c : Nat) (k : Context) : (s.setCtx c k).agenda = s.agenda := rfl
@[simp] theorem State.setCtx_tiles (s : State) (c : Nat) (k : Context) : (s.setCtx c k).tiles = s.tiles := rfl
@[simp] theorem State.setCtx_mode (s : State) (c : Nat) (k : Context) : (s.setCtx c k).mode = s.mode := rfl
@[simp] theorem State.setCtx_testing (s : State) (c : Nat) (k : Context) : (s.setCtx c k).testing = s.testing := rfl
@[simp] theorem State.setCtx_fullTest (s : State) (c : Nat) (k : Context) : (s.setCtx c k).fullTest = s.fullTest := rfl
@[simp] theorem State.setCtx_vexKey (s : State) (c : Nat) (k : Context) : (s.setCtx c k).vexKey = s.vexKey := rfl
@[simp] theorem State.setCtx_devKey (s : State) (c : Nat) (k : Context) : (s.setCtx c k).devKey = s.devKey := rfl
@[simp] theorem State.setCtx_rom (s : State) (c : Nat) (k : Context) : (s.setCtx c k).rom = s.rom := rfl
@[simp] theorem State.setCtx_fw (s : State) (c : Nat) (k : Context) : (s.setCtx c k).fw = s.fw := rfl
@[simp] theorem State.setCtx_map (s : State) (c : Nat) (k : Context) : (s.setCtx c k).map = s.map := rfl
@[simp] theorem State.setCtx_remap (s : State) (c : Nat) (k : Context) : (s.setCtx c k).remap = s.remap := rfl
@[simp] theorem State.setCtx_remapSig (s : State) (c : Nat) (k : Context) : (s.setCtx c k).remapSig = s.remapSig := rfl
@[simp] theorem State.setCtx_meas (s : State) (c : Nat) (k : Context) : (s.setCtx c k).meas = s.meas := rfl
@[simp] theorem State.setCtx_exported (s : State) (c : Nat) (k : Context) : (s.setCtx c k).exported = s.exported := rfl
@[simp] theorem State.setCtx_mgmt (s : State) (c : Nat) (k : Context) : (s.setCtx c k).mgmt = s.mgmt := rfl
@[simp] theorem State.setCtx_n (s : State) (c : Nat) (k : Context) : (s.setCtx c k).n = s.n := rfl
@[simp] theorem State.setCtx_nAt (s : State) (c : Nat) (k : Context) : (s.setCtx c k).nAt = s.nAt := rfl
@[simp] theorem State.setCtx_nNext (s : State) (c : Nat) (k : Context) : (s.setCtx c k).nNext = s.nNext := rfl
@[simp] theorem State.setCtx_nDue (s : State) (c : Nat) (k : Context) : (s.setCtx c k).nDue = s.nDue := rfl
@[simp] theorem State.setCtx_overAt (s : State) (c : Nat) (k : Context) : (s.setCtx c k).overAt = s.overAt := rfl
@[simp] theorem State.setCtx_group (s : State) (c : Nat) (k : Context) : (s.setCtx c k).group = s.group := rfl
@[simp] theorem State.setCtx_groupMembers (s : State) (c : Nat) (k : Context) : (s.setCtx c k).groupMembers = s.groupMembers := rfl
@[simp] theorem State.setCtx_ptpOffset (s : State) (c : Nat) (k : Context) : (s.setCtx c k).ptpOffset = s.ptpOffset := rfl
@[simp] theorem State.setCtx_ptpPpm (s : State) (c : Nat) (k : Context) : (s.setCtx c k).ptpPpm = s.ptpPpm := rfl
@[simp] theorem State.setCtx_ports (s : State) (c : Nat) (k : Context) : (s.setCtx c k).ports = s.ports := rfl
@[simp] theorem State.setCtx_allow (s : State) (c : Nat) (k : Context) : (s.setCtx c k).allow = s.allow := rfl
@[simp] theorem State.setCtx_tx (s : State) (c : Nat) (k : Context) : (s.setCtx c k).tx = s.tx := rfl
@[simp] theorem State.setCtx_sessions (s : State) (c : Nat) (k : Context) : (s.setCtx c k).sessions = s.sessions := rfl
@[simp] theorem State.setCtx_nextSid (s : State) (c : Nat) (k : Context) : (s.setCtx c k).nextSid = s.nextSid := rfl
@[simp] theorem State.setCtx_outbox (s : State) (c : Nat) (k : Context) : (s.setCtx c k).outbox = s.outbox := rfl
@[simp] theorem State.setCtx_openings (s : State) (c : Nat) (k : Context) : (s.setCtx c k).openings = s.openings := rfl
@[simp] theorem State.setCtx_pointers (s : State) (c : Nat) (k : Context) : (s.setCtx c k).pointers = s.pointers := rfl
@[simp] theorem State.setCtx_runs (s : State) (c : Nat) (k : Context) : (s.setCtx c k).runs = s.runs := rfl
@[simp] theorem State.setCtx_launches (s : State) (c : Nat) (k : Context) : (s.setCtx c k).launches = s.launches := rfl
@[simp] theorem State.setCtx_nextId (s : State) (c : Nat) (k : Context) : (s.setCtx c k).nextId = s.nextId := rfl
@[simp] theorem State.setCtx_picked (s : State) (c : Nat) (k : Context) : (s.setCtx c k).picked = s.picked := rfl
@[simp] theorem State.setCtx_ending (s : State) (c : Nat) (k : Context) : (s.setCtx c k).ending = s.ending := rfl
@[simp] theorem State.setCtx_decidedAt (s : State) (c : Nat) (k : Context) : (s.setCtx c k).decidedAt = s.decidedAt := rfl
@[simp] theorem State.setCtx_jobs (s : State) (c : Nat) (k : Context) : (s.setCtx c k).jobs = s.jobs := rfl
@[simp] theorem State.setCtx_loads (s : State) (c : Nat) (k : Context) : (s.setCtx c k).loads = s.loads := rfl
@[simp] theorem State.setCtx_preempts (s : State) (c : Nat) (k : Context) : (s.setCtx c k).preempts = s.preempts := rfl
@[simp] theorem State.setCtx_halts (s : State) (c : Nat) (k : Context) : (s.setCtx c k).halts = s.halts := rfl
@[simp] theorem State.setCtx_halted (s : State) (c : Nat) (k : Context) : (s.setCtx c k).halted = s.halted := rfl
@[simp] theorem State.setCtx_noDispatch (s : State) (c : Nat) (k : Context) : (s.setCtx c k).noDispatch = s.noDispatch := rfl
@[simp] theorem State.setCtx_engines (s : State) (c : Nat) (k : Context) : (s.setCtx c k).engines = s.engines := rfl
@[simp] theorem State.setCtx_reads (s : State) (c : Nat) (k : Context) : (s.setCtx c k).reads = s.reads := rfl
@[simp] theorem State.setCtx_commits (s : State) (c : Nat) (k : Context) : (s.setCtx c k).commits = s.commits := rfl
@[simp] theorem State.setCtx_gone (s : State) (c : Nat) (k : Context) : (s.setCtx c k).gone = s.gone := rfl
@[simp] theorem State.setCtx_bridges (s : State) (c : Nat) (k : Context) : (s.setCtx c k).bridges = s.bridges := rfl
@[simp] theorem State.setCtx_up (s : State) (c : Nat) (k : Context) : (s.setCtx c k).up = s.up := rfl
@[simp] theorem State.setCtx_segs (s : State) (c : Nat) (k : Context) : (s.setCtx c k).segs = s.segs := rfl
@[simp] theorem State.setCtx_roving (s : State) (c : Nat) (k : Context) : (s.setCtx c k).roving = s.roving := rfl
@[simp] theorem State.setCtx_dram (s : State) (c : Nat) (k : Context) : (s.setCtx c k).dram = s.dram := rfl
@[simp] theorem State.setCtx_fv (s : State) (c : Nat) (k : Context) : (s.setCtx c k).fv = s.fv := rfl
@[simp] theorem State.onCtx_fetch (s : State) (c : Nat) (f : Context → Context) : (s.onCtx c f).fetch = s.fetch := rfl
@[simp] theorem State.onCtx_arg (s : State) (c : Nat) (f : Context → Context) : (s.onCtx c f).arg = s.arg := rfl
@[simp] theorem State.onCtx_cur (s : State) (c : Nat) (f : Context → Context) : (s.onCtx c f).cur = s.cur := rfl
@[simp] theorem State.onCtx_now (s : State) (c : Nat) (f : Context → Context) : (s.onCtx c f).now = s.now := rfl
@[simp] theorem State.onCtx_agenda (s : State) (c : Nat) (f : Context → Context) : (s.onCtx c f).agenda = s.agenda := rfl
@[simp] theorem State.onCtx_tiles (s : State) (c : Nat) (f : Context → Context) : (s.onCtx c f).tiles = s.tiles := rfl
@[simp] theorem State.onCtx_mode (s : State) (c : Nat) (f : Context → Context) : (s.onCtx c f).mode = s.mode := rfl
@[simp] theorem State.onCtx_testing (s : State) (c : Nat) (f : Context → Context) : (s.onCtx c f).testing = s.testing := rfl
@[simp] theorem State.onCtx_fullTest (s : State) (c : Nat) (f : Context → Context) : (s.onCtx c f).fullTest = s.fullTest := rfl
@[simp] theorem State.onCtx_vexKey (s : State) (c : Nat) (f : Context → Context) : (s.onCtx c f).vexKey = s.vexKey := rfl
@[simp] theorem State.onCtx_devKey (s : State) (c : Nat) (f : Context → Context) : (s.onCtx c f).devKey = s.devKey := rfl
@[simp] theorem State.onCtx_rom (s : State) (c : Nat) (f : Context → Context) : (s.onCtx c f).rom = s.rom := rfl
@[simp] theorem State.onCtx_fw (s : State) (c : Nat) (f : Context → Context) : (s.onCtx c f).fw = s.fw := rfl
@[simp] theorem State.onCtx_map (s : State) (c : Nat) (f : Context → Context) : (s.onCtx c f).map = s.map := rfl
@[simp] theorem State.onCtx_remap (s : State) (c : Nat) (f : Context → Context) : (s.onCtx c f).remap = s.remap := rfl
@[simp] theorem State.onCtx_remapSig (s : State) (c : Nat) (f : Context → Context) : (s.onCtx c f).remapSig = s.remapSig := rfl
@[simp] theorem State.onCtx_meas (s : State) (c : Nat) (f : Context → Context) : (s.onCtx c f).meas = s.meas := rfl
@[simp] theorem State.onCtx_exported (s : State) (c : Nat) (f : Context → Context) : (s.onCtx c f).exported = s.exported := rfl
@[simp] theorem State.onCtx_mgmt (s : State) (c : Nat) (f : Context → Context) : (s.onCtx c f).mgmt = s.mgmt := rfl
@[simp] theorem State.onCtx_n (s : State) (c : Nat) (f : Context → Context) : (s.onCtx c f).n = s.n := rfl
@[simp] theorem State.onCtx_nAt (s : State) (c : Nat) (f : Context → Context) : (s.onCtx c f).nAt = s.nAt := rfl
@[simp] theorem State.onCtx_nNext (s : State) (c : Nat) (f : Context → Context) : (s.onCtx c f).nNext = s.nNext := rfl
@[simp] theorem State.onCtx_nDue (s : State) (c : Nat) (f : Context → Context) : (s.onCtx c f).nDue = s.nDue := rfl
@[simp] theorem State.onCtx_overAt (s : State) (c : Nat) (f : Context → Context) : (s.onCtx c f).overAt = s.overAt := rfl
@[simp] theorem State.onCtx_group (s : State) (c : Nat) (f : Context → Context) : (s.onCtx c f).group = s.group := rfl
@[simp] theorem State.onCtx_groupMembers (s : State) (c : Nat) (f : Context → Context) : (s.onCtx c f).groupMembers = s.groupMembers := rfl
@[simp] theorem State.onCtx_ptpOffset (s : State) (c : Nat) (f : Context → Context) : (s.onCtx c f).ptpOffset = s.ptpOffset := rfl
@[simp] theorem State.onCtx_ptpPpm (s : State) (c : Nat) (f : Context → Context) : (s.onCtx c f).ptpPpm = s.ptpPpm := rfl
@[simp] theorem State.onCtx_ports (s : State) (c : Nat) (f : Context → Context) : (s.onCtx c f).ports = s.ports := rfl
@[simp] theorem State.onCtx_allow (s : State) (c : Nat) (f : Context → Context) : (s.onCtx c f).allow = s.allow := rfl
@[simp] theorem State.onCtx_tx (s : State) (c : Nat) (f : Context → Context) : (s.onCtx c f).tx = s.tx := rfl
@[simp] theorem State.onCtx_sessions (s : State) (c : Nat) (f : Context → Context) : (s.onCtx c f).sessions = s.sessions := rfl
@[simp] theorem State.onCtx_nextSid (s : State) (c : Nat) (f : Context → Context) : (s.onCtx c f).nextSid = s.nextSid := rfl
@[simp] theorem State.onCtx_outbox (s : State) (c : Nat) (f : Context → Context) : (s.onCtx c f).outbox = s.outbox := rfl
@[simp] theorem State.onCtx_openings (s : State) (c : Nat) (f : Context → Context) : (s.onCtx c f).openings = s.openings := rfl
@[simp] theorem State.onCtx_pointers (s : State) (c : Nat) (f : Context → Context) : (s.onCtx c f).pointers = s.pointers := rfl
@[simp] theorem State.onCtx_runs (s : State) (c : Nat) (f : Context → Context) : (s.onCtx c f).runs = s.runs := rfl
@[simp] theorem State.onCtx_launches (s : State) (c : Nat) (f : Context → Context) : (s.onCtx c f).launches = s.launches := rfl
@[simp] theorem State.onCtx_nextId (s : State) (c : Nat) (f : Context → Context) : (s.onCtx c f).nextId = s.nextId := rfl
@[simp] theorem State.onCtx_picked (s : State) (c : Nat) (f : Context → Context) : (s.onCtx c f).picked = s.picked := rfl
@[simp] theorem State.onCtx_ending (s : State) (c : Nat) (f : Context → Context) : (s.onCtx c f).ending = s.ending := rfl
@[simp] theorem State.onCtx_decidedAt (s : State) (c : Nat) (f : Context → Context) : (s.onCtx c f).decidedAt = s.decidedAt := rfl
@[simp] theorem State.onCtx_jobs (s : State) (c : Nat) (f : Context → Context) : (s.onCtx c f).jobs = s.jobs := rfl
@[simp] theorem State.onCtx_loads (s : State) (c : Nat) (f : Context → Context) : (s.onCtx c f).loads = s.loads := rfl
@[simp] theorem State.onCtx_preempts (s : State) (c : Nat) (f : Context → Context) : (s.onCtx c f).preempts = s.preempts := rfl
@[simp] theorem State.onCtx_halts (s : State) (c : Nat) (f : Context → Context) : (s.onCtx c f).halts = s.halts := rfl
@[simp] theorem State.onCtx_halted (s : State) (c : Nat) (f : Context → Context) : (s.onCtx c f).halted = s.halted := rfl
@[simp] theorem State.onCtx_noDispatch (s : State) (c : Nat) (f : Context → Context) : (s.onCtx c f).noDispatch = s.noDispatch := rfl
@[simp] theorem State.onCtx_engines (s : State) (c : Nat) (f : Context → Context) : (s.onCtx c f).engines = s.engines := rfl
@[simp] theorem State.onCtx_reads (s : State) (c : Nat) (f : Context → Context) : (s.onCtx c f).reads = s.reads := rfl
@[simp] theorem State.onCtx_commits (s : State) (c : Nat) (f : Context → Context) : (s.onCtx c f).commits = s.commits := rfl
@[simp] theorem State.onCtx_gone (s : State) (c : Nat) (f : Context → Context) : (s.onCtx c f).gone = s.gone := rfl
@[simp] theorem State.onCtx_bridges (s : State) (c : Nat) (f : Context → Context) : (s.onCtx c f).bridges = s.bridges := rfl
@[simp] theorem State.onCtx_up (s : State) (c : Nat) (f : Context → Context) : (s.onCtx c f).up = s.up := rfl
@[simp] theorem State.onCtx_segs (s : State) (c : Nat) (f : Context → Context) : (s.onCtx c f).segs = s.segs := rfl
@[simp] theorem State.onCtx_roving (s : State) (c : Nat) (f : Context → Context) : (s.onCtx c f).roving = s.roving := rfl
@[simp] theorem State.onCtx_dram (s : State) (c : Nat) (f : Context → Context) : (s.onCtx c f).dram = s.dram := rfl
@[simp] theorem State.onCtx_fv (s : State) (c : Nat) (f : Context → Context) : (s.onCtx c f).fv = s.fv := rfl
@[simp] theorem State.setLaunch_fetch (s : State) (l : Launch) : (s.setLaunch l).fetch = s.fetch := rfl
@[simp] theorem State.setLaunch_arg (s : State) (l : Launch) : (s.setLaunch l).arg = s.arg := rfl
@[simp] theorem State.setLaunch_cur (s : State) (l : Launch) : (s.setLaunch l).cur = s.cur := rfl
@[simp] theorem State.setLaunch_now (s : State) (l : Launch) : (s.setLaunch l).now = s.now := rfl
@[simp] theorem State.setLaunch_agenda (s : State) (l : Launch) : (s.setLaunch l).agenda = s.agenda := rfl
@[simp] theorem State.setLaunch_tiles (s : State) (l : Launch) : (s.setLaunch l).tiles = s.tiles := rfl
@[simp] theorem State.setLaunch_mode (s : State) (l : Launch) : (s.setLaunch l).mode = s.mode := rfl
@[simp] theorem State.setLaunch_testing (s : State) (l : Launch) : (s.setLaunch l).testing = s.testing := rfl
@[simp] theorem State.setLaunch_fullTest (s : State) (l : Launch) : (s.setLaunch l).fullTest = s.fullTest := rfl
@[simp] theorem State.setLaunch_vexKey (s : State) (l : Launch) : (s.setLaunch l).vexKey = s.vexKey := rfl
@[simp] theorem State.setLaunch_devKey (s : State) (l : Launch) : (s.setLaunch l).devKey = s.devKey := rfl
@[simp] theorem State.setLaunch_rom (s : State) (l : Launch) : (s.setLaunch l).rom = s.rom := rfl
@[simp] theorem State.setLaunch_fw (s : State) (l : Launch) : (s.setLaunch l).fw = s.fw := rfl
@[simp] theorem State.setLaunch_map (s : State) (l : Launch) : (s.setLaunch l).map = s.map := rfl
@[simp] theorem State.setLaunch_remap (s : State) (l : Launch) : (s.setLaunch l).remap = s.remap := rfl
@[simp] theorem State.setLaunch_remapSig (s : State) (l : Launch) : (s.setLaunch l).remapSig = s.remapSig := rfl
@[simp] theorem State.setLaunch_meas (s : State) (l : Launch) : (s.setLaunch l).meas = s.meas := rfl
@[simp] theorem State.setLaunch_exported (s : State) (l : Launch) : (s.setLaunch l).exported = s.exported := rfl
@[simp] theorem State.setLaunch_mgmt (s : State) (l : Launch) : (s.setLaunch l).mgmt = s.mgmt := rfl
@[simp] theorem State.setLaunch_n (s : State) (l : Launch) : (s.setLaunch l).n = s.n := rfl
@[simp] theorem State.setLaunch_nAt (s : State) (l : Launch) : (s.setLaunch l).nAt = s.nAt := rfl
@[simp] theorem State.setLaunch_nNext (s : State) (l : Launch) : (s.setLaunch l).nNext = s.nNext := rfl
@[simp] theorem State.setLaunch_nDue (s : State) (l : Launch) : (s.setLaunch l).nDue = s.nDue := rfl
@[simp] theorem State.setLaunch_overAt (s : State) (l : Launch) : (s.setLaunch l).overAt = s.overAt := rfl
@[simp] theorem State.setLaunch_group (s : State) (l : Launch) : (s.setLaunch l).group = s.group := rfl
@[simp] theorem State.setLaunch_groupMembers (s : State) (l : Launch) : (s.setLaunch l).groupMembers = s.groupMembers := rfl
@[simp] theorem State.setLaunch_ptpOffset (s : State) (l : Launch) : (s.setLaunch l).ptpOffset = s.ptpOffset := rfl
@[simp] theorem State.setLaunch_ptpPpm (s : State) (l : Launch) : (s.setLaunch l).ptpPpm = s.ptpPpm := rfl
@[simp] theorem State.setLaunch_ports (s : State) (l : Launch) : (s.setLaunch l).ports = s.ports := rfl
@[simp] theorem State.setLaunch_allow (s : State) (l : Launch) : (s.setLaunch l).allow = s.allow := rfl
@[simp] theorem State.setLaunch_tx (s : State) (l : Launch) : (s.setLaunch l).tx = s.tx := rfl
@[simp] theorem State.setLaunch_sessions (s : State) (l : Launch) : (s.setLaunch l).sessions = s.sessions := rfl
@[simp] theorem State.setLaunch_nextSid (s : State) (l : Launch) : (s.setLaunch l).nextSid = s.nextSid := rfl
@[simp] theorem State.setLaunch_outbox (s : State) (l : Launch) : (s.setLaunch l).outbox = s.outbox := rfl
@[simp] theorem State.setLaunch_contexts (s : State) (l : Launch) : (s.setLaunch l).contexts = s.contexts := rfl
@[simp] theorem State.setLaunch_openings (s : State) (l : Launch) : (s.setLaunch l).openings = s.openings := rfl
@[simp] theorem State.setLaunch_pointers (s : State) (l : Launch) : (s.setLaunch l).pointers = s.pointers := rfl
@[simp] theorem State.setLaunch_runs (s : State) (l : Launch) : (s.setLaunch l).runs = s.runs := rfl
@[simp] theorem State.setLaunch_nextId (s : State) (l : Launch) : (s.setLaunch l).nextId = s.nextId := rfl
@[simp] theorem State.setLaunch_picked (s : State) (l : Launch) : (s.setLaunch l).picked = s.picked := rfl
@[simp] theorem State.setLaunch_ending (s : State) (l : Launch) : (s.setLaunch l).ending = s.ending := rfl
@[simp] theorem State.setLaunch_decidedAt (s : State) (l : Launch) : (s.setLaunch l).decidedAt = s.decidedAt := rfl
@[simp] theorem State.setLaunch_jobs (s : State) (l : Launch) : (s.setLaunch l).jobs = s.jobs := rfl
@[simp] theorem State.setLaunch_loads (s : State) (l : Launch) : (s.setLaunch l).loads = s.loads := rfl
@[simp] theorem State.setLaunch_preempts (s : State) (l : Launch) : (s.setLaunch l).preempts = s.preempts := rfl
@[simp] theorem State.setLaunch_halts (s : State) (l : Launch) : (s.setLaunch l).halts = s.halts := rfl
@[simp] theorem State.setLaunch_halted (s : State) (l : Launch) : (s.setLaunch l).halted = s.halted := rfl
@[simp] theorem State.setLaunch_noDispatch (s : State) (l : Launch) : (s.setLaunch l).noDispatch = s.noDispatch := rfl
@[simp] theorem State.setLaunch_engines (s : State) (l : Launch) : (s.setLaunch l).engines = s.engines := rfl
@[simp] theorem State.setLaunch_reads (s : State) (l : Launch) : (s.setLaunch l).reads = s.reads := rfl
@[simp] theorem State.setLaunch_commits (s : State) (l : Launch) : (s.setLaunch l).commits = s.commits := rfl
@[simp] theorem State.setLaunch_gone (s : State) (l : Launch) : (s.setLaunch l).gone = s.gone := rfl
@[simp] theorem State.setLaunch_bridges (s : State) (l : Launch) : (s.setLaunch l).bridges = s.bridges := rfl
@[simp] theorem State.setLaunch_up (s : State) (l : Launch) : (s.setLaunch l).up = s.up := rfl
@[simp] theorem State.setLaunch_segs (s : State) (l : Launch) : (s.setLaunch l).segs = s.segs := rfl
@[simp] theorem State.setLaunch_roving (s : State) (l : Launch) : (s.setLaunch l).roving = s.roving := rfl
@[simp] theorem State.setLaunch_dram (s : State) (l : Launch) : (s.setLaunch l).dram = s.dram := rfl
@[simp] theorem State.setLaunch_fv (s : State) (l : Launch) : (s.setLaunch l).fv = s.fv := rfl
@[simp] theorem State.onLaunch_fetch (s : State) (i : Nat) (f : Launch → Launch) : (s.onLaunch i f).fetch = s.fetch := rfl
@[simp] theorem State.onLaunch_arg (s : State) (i : Nat) (f : Launch → Launch) : (s.onLaunch i f).arg = s.arg := rfl
@[simp] theorem State.onLaunch_cur (s : State) (i : Nat) (f : Launch → Launch) : (s.onLaunch i f).cur = s.cur := rfl
@[simp] theorem State.onLaunch_now (s : State) (i : Nat) (f : Launch → Launch) : (s.onLaunch i f).now = s.now := rfl
@[simp] theorem State.onLaunch_agenda (s : State) (i : Nat) (f : Launch → Launch) : (s.onLaunch i f).agenda = s.agenda := rfl
@[simp] theorem State.onLaunch_tiles (s : State) (i : Nat) (f : Launch → Launch) : (s.onLaunch i f).tiles = s.tiles := rfl
@[simp] theorem State.onLaunch_mode (s : State) (i : Nat) (f : Launch → Launch) : (s.onLaunch i f).mode = s.mode := rfl
@[simp] theorem State.onLaunch_testing (s : State) (i : Nat) (f : Launch → Launch) : (s.onLaunch i f).testing = s.testing := rfl
@[simp] theorem State.onLaunch_fullTest (s : State) (i : Nat) (f : Launch → Launch) : (s.onLaunch i f).fullTest = s.fullTest := rfl
@[simp] theorem State.onLaunch_vexKey (s : State) (i : Nat) (f : Launch → Launch) : (s.onLaunch i f).vexKey = s.vexKey := rfl
@[simp] theorem State.onLaunch_devKey (s : State) (i : Nat) (f : Launch → Launch) : (s.onLaunch i f).devKey = s.devKey := rfl
@[simp] theorem State.onLaunch_rom (s : State) (i : Nat) (f : Launch → Launch) : (s.onLaunch i f).rom = s.rom := rfl
@[simp] theorem State.onLaunch_fw (s : State) (i : Nat) (f : Launch → Launch) : (s.onLaunch i f).fw = s.fw := rfl
@[simp] theorem State.onLaunch_map (s : State) (i : Nat) (f : Launch → Launch) : (s.onLaunch i f).map = s.map := rfl
@[simp] theorem State.onLaunch_remap (s : State) (i : Nat) (f : Launch → Launch) : (s.onLaunch i f).remap = s.remap := rfl
@[simp] theorem State.onLaunch_remapSig (s : State) (i : Nat) (f : Launch → Launch) : (s.onLaunch i f).remapSig = s.remapSig := rfl
@[simp] theorem State.onLaunch_meas (s : State) (i : Nat) (f : Launch → Launch) : (s.onLaunch i f).meas = s.meas := rfl
@[simp] theorem State.onLaunch_exported (s : State) (i : Nat) (f : Launch → Launch) : (s.onLaunch i f).exported = s.exported := rfl
@[simp] theorem State.onLaunch_mgmt (s : State) (i : Nat) (f : Launch → Launch) : (s.onLaunch i f).mgmt = s.mgmt := rfl
@[simp] theorem State.onLaunch_n (s : State) (i : Nat) (f : Launch → Launch) : (s.onLaunch i f).n = s.n := rfl
@[simp] theorem State.onLaunch_nAt (s : State) (i : Nat) (f : Launch → Launch) : (s.onLaunch i f).nAt = s.nAt := rfl
@[simp] theorem State.onLaunch_nNext (s : State) (i : Nat) (f : Launch → Launch) : (s.onLaunch i f).nNext = s.nNext := rfl
@[simp] theorem State.onLaunch_nDue (s : State) (i : Nat) (f : Launch → Launch) : (s.onLaunch i f).nDue = s.nDue := rfl
@[simp] theorem State.onLaunch_overAt (s : State) (i : Nat) (f : Launch → Launch) : (s.onLaunch i f).overAt = s.overAt := rfl
@[simp] theorem State.onLaunch_group (s : State) (i : Nat) (f : Launch → Launch) : (s.onLaunch i f).group = s.group := rfl
@[simp] theorem State.onLaunch_groupMembers (s : State) (i : Nat) (f : Launch → Launch) : (s.onLaunch i f).groupMembers = s.groupMembers := rfl
@[simp] theorem State.onLaunch_ptpOffset (s : State) (i : Nat) (f : Launch → Launch) : (s.onLaunch i f).ptpOffset = s.ptpOffset := rfl
@[simp] theorem State.onLaunch_ptpPpm (s : State) (i : Nat) (f : Launch → Launch) : (s.onLaunch i f).ptpPpm = s.ptpPpm := rfl
@[simp] theorem State.onLaunch_ports (s : State) (i : Nat) (f : Launch → Launch) : (s.onLaunch i f).ports = s.ports := rfl
@[simp] theorem State.onLaunch_allow (s : State) (i : Nat) (f : Launch → Launch) : (s.onLaunch i f).allow = s.allow := rfl
@[simp] theorem State.onLaunch_tx (s : State) (i : Nat) (f : Launch → Launch) : (s.onLaunch i f).tx = s.tx := rfl
@[simp] theorem State.onLaunch_sessions (s : State) (i : Nat) (f : Launch → Launch) : (s.onLaunch i f).sessions = s.sessions := rfl
@[simp] theorem State.onLaunch_nextSid (s : State) (i : Nat) (f : Launch → Launch) : (s.onLaunch i f).nextSid = s.nextSid := rfl
@[simp] theorem State.onLaunch_outbox (s : State) (i : Nat) (f : Launch → Launch) : (s.onLaunch i f).outbox = s.outbox := rfl
@[simp] theorem State.onLaunch_contexts (s : State) (i : Nat) (f : Launch → Launch) : (s.onLaunch i f).contexts = s.contexts := rfl
@[simp] theorem State.onLaunch_openings (s : State) (i : Nat) (f : Launch → Launch) : (s.onLaunch i f).openings = s.openings := rfl
@[simp] theorem State.onLaunch_pointers (s : State) (i : Nat) (f : Launch → Launch) : (s.onLaunch i f).pointers = s.pointers := rfl
@[simp] theorem State.onLaunch_runs (s : State) (i : Nat) (f : Launch → Launch) : (s.onLaunch i f).runs = s.runs := rfl
@[simp] theorem State.onLaunch_nextId (s : State) (i : Nat) (f : Launch → Launch) : (s.onLaunch i f).nextId = s.nextId := rfl
@[simp] theorem State.onLaunch_picked (s : State) (i : Nat) (f : Launch → Launch) : (s.onLaunch i f).picked = s.picked := rfl
@[simp] theorem State.onLaunch_ending (s : State) (i : Nat) (f : Launch → Launch) : (s.onLaunch i f).ending = s.ending := rfl
@[simp] theorem State.onLaunch_decidedAt (s : State) (i : Nat) (f : Launch → Launch) : (s.onLaunch i f).decidedAt = s.decidedAt := rfl
@[simp] theorem State.onLaunch_jobs (s : State) (i : Nat) (f : Launch → Launch) : (s.onLaunch i f).jobs = s.jobs := rfl
@[simp] theorem State.onLaunch_loads (s : State) (i : Nat) (f : Launch → Launch) : (s.onLaunch i f).loads = s.loads := rfl
@[simp] theorem State.onLaunch_preempts (s : State) (i : Nat) (f : Launch → Launch) : (s.onLaunch i f).preempts = s.preempts := rfl
@[simp] theorem State.onLaunch_halts (s : State) (i : Nat) (f : Launch → Launch) : (s.onLaunch i f).halts = s.halts := rfl
@[simp] theorem State.onLaunch_halted (s : State) (i : Nat) (f : Launch → Launch) : (s.onLaunch i f).halted = s.halted := rfl
@[simp] theorem State.onLaunch_noDispatch (s : State) (i : Nat) (f : Launch → Launch) : (s.onLaunch i f).noDispatch = s.noDispatch := rfl
@[simp] theorem State.onLaunch_engines (s : State) (i : Nat) (f : Launch → Launch) : (s.onLaunch i f).engines = s.engines := rfl
@[simp] theorem State.onLaunch_reads (s : State) (i : Nat) (f : Launch → Launch) : (s.onLaunch i f).reads = s.reads := rfl
@[simp] theorem State.onLaunch_commits (s : State) (i : Nat) (f : Launch → Launch) : (s.onLaunch i f).commits = s.commits := rfl
@[simp] theorem State.onLaunch_gone (s : State) (i : Nat) (f : Launch → Launch) : (s.onLaunch i f).gone = s.gone := rfl
@[simp] theorem State.onLaunch_bridges (s : State) (i : Nat) (f : Launch → Launch) : (s.onLaunch i f).bridges = s.bridges := rfl
@[simp] theorem State.onLaunch_up (s : State) (i : Nat) (f : Launch → Launch) : (s.onLaunch i f).up = s.up := rfl
@[simp] theorem State.onLaunch_segs (s : State) (i : Nat) (f : Launch → Launch) : (s.onLaunch i f).segs = s.segs := rfl
@[simp] theorem State.onLaunch_roving (s : State) (i : Nat) (f : Launch → Launch) : (s.onLaunch i f).roving = s.roving := rfl
@[simp] theorem State.onLaunch_dram (s : State) (i : Nat) (f : Launch → Launch) : (s.onLaunch i f).dram = s.dram := rfl
@[simp] theorem State.onLaunch_fv (s : State) (i : Nat) (f : Launch → Launch) : (s.onLaunch i f).fv = s.fv := rfl
@[simp] theorem State.rove_fetch (s : State) (fx fy k : Nat) (m : RovMsg) : (s.rove fx fy k m).fetch = s.fetch := rfl
@[simp] theorem State.rove_arg (s : State) (fx fy k : Nat) (m : RovMsg) : (s.rove fx fy k m).arg = s.arg := rfl
@[simp] theorem State.rove_cur (s : State) (fx fy k : Nat) (m : RovMsg) : (s.rove fx fy k m).cur = s.cur := rfl
@[simp] theorem State.rove_now (s : State) (fx fy k : Nat) (m : RovMsg) : (s.rove fx fy k m).now = s.now := rfl
@[simp] theorem State.rove_agenda (s : State) (fx fy k : Nat) (m : RovMsg) : (s.rove fx fy k m).agenda = s.agenda := rfl
@[simp] theorem State.rove_tiles (s : State) (fx fy k : Nat) (m : RovMsg) : (s.rove fx fy k m).tiles = s.tiles := rfl
@[simp] theorem State.rove_mode (s : State) (fx fy k : Nat) (m : RovMsg) : (s.rove fx fy k m).mode = s.mode := rfl
@[simp] theorem State.rove_testing (s : State) (fx fy k : Nat) (m : RovMsg) : (s.rove fx fy k m).testing = s.testing := rfl
@[simp] theorem State.rove_fullTest (s : State) (fx fy k : Nat) (m : RovMsg) : (s.rove fx fy k m).fullTest = s.fullTest := rfl
@[simp] theorem State.rove_vexKey (s : State) (fx fy k : Nat) (m : RovMsg) : (s.rove fx fy k m).vexKey = s.vexKey := rfl
@[simp] theorem State.rove_devKey (s : State) (fx fy k : Nat) (m : RovMsg) : (s.rove fx fy k m).devKey = s.devKey := rfl
@[simp] theorem State.rove_rom (s : State) (fx fy k : Nat) (m : RovMsg) : (s.rove fx fy k m).rom = s.rom := rfl
@[simp] theorem State.rove_fw (s : State) (fx fy k : Nat) (m : RovMsg) : (s.rove fx fy k m).fw = s.fw := rfl
@[simp] theorem State.rove_map (s : State) (fx fy k : Nat) (m : RovMsg) : (s.rove fx fy k m).map = s.map := rfl
@[simp] theorem State.rove_remap (s : State) (fx fy k : Nat) (m : RovMsg) : (s.rove fx fy k m).remap = s.remap := rfl
@[simp] theorem State.rove_remapSig (s : State) (fx fy k : Nat) (m : RovMsg) : (s.rove fx fy k m).remapSig = s.remapSig := rfl
@[simp] theorem State.rove_meas (s : State) (fx fy k : Nat) (m : RovMsg) : (s.rove fx fy k m).meas = s.meas := rfl
@[simp] theorem State.rove_exported (s : State) (fx fy k : Nat) (m : RovMsg) : (s.rove fx fy k m).exported = s.exported := rfl
@[simp] theorem State.rove_mgmt (s : State) (fx fy k : Nat) (m : RovMsg) : (s.rove fx fy k m).mgmt = s.mgmt := rfl
@[simp] theorem State.rove_n (s : State) (fx fy k : Nat) (m : RovMsg) : (s.rove fx fy k m).n = s.n := rfl
@[simp] theorem State.rove_nAt (s : State) (fx fy k : Nat) (m : RovMsg) : (s.rove fx fy k m).nAt = s.nAt := rfl
@[simp] theorem State.rove_nNext (s : State) (fx fy k : Nat) (m : RovMsg) : (s.rove fx fy k m).nNext = s.nNext := rfl
@[simp] theorem State.rove_nDue (s : State) (fx fy k : Nat) (m : RovMsg) : (s.rove fx fy k m).nDue = s.nDue := rfl
@[simp] theorem State.rove_overAt (s : State) (fx fy k : Nat) (m : RovMsg) : (s.rove fx fy k m).overAt = s.overAt := rfl
@[simp] theorem State.rove_group (s : State) (fx fy k : Nat) (m : RovMsg) : (s.rove fx fy k m).group = s.group := rfl
@[simp] theorem State.rove_groupMembers (s : State) (fx fy k : Nat) (m : RovMsg) : (s.rove fx fy k m).groupMembers = s.groupMembers := rfl
@[simp] theorem State.rove_ptpOffset (s : State) (fx fy k : Nat) (m : RovMsg) : (s.rove fx fy k m).ptpOffset = s.ptpOffset := rfl
@[simp] theorem State.rove_ptpPpm (s : State) (fx fy k : Nat) (m : RovMsg) : (s.rove fx fy k m).ptpPpm = s.ptpPpm := rfl
@[simp] theorem State.rove_ports (s : State) (fx fy k : Nat) (m : RovMsg) : (s.rove fx fy k m).ports = s.ports := rfl
@[simp] theorem State.rove_allow (s : State) (fx fy k : Nat) (m : RovMsg) : (s.rove fx fy k m).allow = s.allow := rfl
@[simp] theorem State.rove_tx (s : State) (fx fy k : Nat) (m : RovMsg) : (s.rove fx fy k m).tx = s.tx := rfl
@[simp] theorem State.rove_sessions (s : State) (fx fy k : Nat) (m : RovMsg) : (s.rove fx fy k m).sessions = s.sessions := rfl
@[simp] theorem State.rove_nextSid (s : State) (fx fy k : Nat) (m : RovMsg) : (s.rove fx fy k m).nextSid = s.nextSid := rfl
@[simp] theorem State.rove_outbox (s : State) (fx fy k : Nat) (m : RovMsg) : (s.rove fx fy k m).outbox = s.outbox := rfl
@[simp] theorem State.rove_contexts (s : State) (fx fy k : Nat) (m : RovMsg) : (s.rove fx fy k m).contexts = s.contexts := rfl
@[simp] theorem State.rove_openings (s : State) (fx fy k : Nat) (m : RovMsg) : (s.rove fx fy k m).openings = s.openings := rfl
@[simp] theorem State.rove_pointers (s : State) (fx fy k : Nat) (m : RovMsg) : (s.rove fx fy k m).pointers = s.pointers := rfl
@[simp] theorem State.rove_runs (s : State) (fx fy k : Nat) (m : RovMsg) : (s.rove fx fy k m).runs = s.runs := rfl
@[simp] theorem State.rove_launches (s : State) (fx fy k : Nat) (m : RovMsg) : (s.rove fx fy k m).launches = s.launches := rfl
@[simp] theorem State.rove_nextId (s : State) (fx fy k : Nat) (m : RovMsg) : (s.rove fx fy k m).nextId = s.nextId := rfl
@[simp] theorem State.rove_picked (s : State) (fx fy k : Nat) (m : RovMsg) : (s.rove fx fy k m).picked = s.picked := rfl
@[simp] theorem State.rove_ending (s : State) (fx fy k : Nat) (m : RovMsg) : (s.rove fx fy k m).ending = s.ending := rfl
@[simp] theorem State.rove_decidedAt (s : State) (fx fy k : Nat) (m : RovMsg) : (s.rove fx fy k m).decidedAt = s.decidedAt := rfl
@[simp] theorem State.rove_jobs (s : State) (fx fy k : Nat) (m : RovMsg) : (s.rove fx fy k m).jobs = s.jobs := rfl
@[simp] theorem State.rove_loads (s : State) (fx fy k : Nat) (m : RovMsg) : (s.rove fx fy k m).loads = s.loads := rfl
@[simp] theorem State.rove_preempts (s : State) (fx fy k : Nat) (m : RovMsg) : (s.rove fx fy k m).preempts = s.preempts := rfl
@[simp] theorem State.rove_halts (s : State) (fx fy k : Nat) (m : RovMsg) : (s.rove fx fy k m).halts = s.halts := rfl
@[simp] theorem State.rove_halted (s : State) (fx fy k : Nat) (m : RovMsg) : (s.rove fx fy k m).halted = s.halted := rfl
@[simp] theorem State.rove_noDispatch (s : State) (fx fy k : Nat) (m : RovMsg) : (s.rove fx fy k m).noDispatch = s.noDispatch := rfl
@[simp] theorem State.rove_engines (s : State) (fx fy k : Nat) (m : RovMsg) : (s.rove fx fy k m).engines = s.engines := rfl
@[simp] theorem State.rove_reads (s : State) (fx fy k : Nat) (m : RovMsg) : (s.rove fx fy k m).reads = s.reads := rfl
@[simp] theorem State.rove_commits (s : State) (fx fy k : Nat) (m : RovMsg) : (s.rove fx fy k m).commits = s.commits := rfl
@[simp] theorem State.rove_gone (s : State) (fx fy k : Nat) (m : RovMsg) : (s.rove fx fy k m).gone = s.gone := rfl
@[simp] theorem State.rove_bridges (s : State) (fx fy k : Nat) (m : RovMsg) : (s.rove fx fy k m).bridges = s.bridges := rfl
@[simp] theorem State.rove_up (s : State) (fx fy k : Nat) (m : RovMsg) : (s.rove fx fy k m).up = s.up := rfl
@[simp] theorem State.rove_segs (s : State) (fx fy k : Nat) (m : RovMsg) : (s.rove fx fy k m).segs = s.segs := rfl
@[simp] theorem State.rove_dram (s : State) (fx fy k : Nat) (m : RovMsg) : (s.rove fx fy k m).dram = s.dram := rfl
@[simp] theorem State.rove_fv (s : State) (fx fy k : Nat) (m : RovMsg) : (s.rove fx fy k m).fv = s.fv := rfl
@[simp] theorem State.latch_fetch (s : State) (f : FetchItem) (r : List FetchItem) : (s.latch f r).fetch = r := rfl
@[simp] theorem State.latch_arg (s : State) (f : FetchItem) (r : List FetchItem) : (s.latch f r).arg = f.arg := rfl
@[simp] theorem State.rove_roving (s : State) (fx fy k : Nat) (m : RovMsg) : (s.rove fx fy k m).roving = s.roving ++ [⟨fx, fy, k, m⟩] := rfl
@[simp] theorem State.send_tx (s : State) (p : TxPkt) : (s.send p).tx = s.tx ++ [p] := rfl
@[simp] theorem State.nowEv_fetch (s : State) (row : Nat) (n : List Nat) : (s.nowEv row n).fetch = s.fetch ++ [eventItem row ⟨n, []⟩] := rfl

/-! Updates of a tile: every other field is as before. -/

@[simp] theorem Tile.sched_launch (t : Tile) (a ph iss slot : Nat) (chk : Bool) (k : ActKind) : (t.sched a ph iss slot chk k).launch = t.launch := rfl
@[simp] theorem Tile.sched_seq (t : Tile) (a ph iss slot : Nat) (chk : Bool) (k : ActKind) : (t.sched a ph iss slot chk k).seq = t.seq := rfl
@[simp] theorem Tile.sched_gofs (t : Tile) (a ph iss slot : Nat) (chk : Bool) (k : ActKind) : (t.sched a ph iss slot chk k).gofs = t.gofs := rfl
@[simp] theorem Tile.sched_s (t : Tile) (a ph iss slot : Nat) (chk : Bool) (k : ActKind) : (t.sched a ph iss slot chk k).s = t.s := rfl
@[simp] theorem Tile.sched_p (t : Tile) (a ph iss slot : Nat) (chk : Bool) (k : ActKind) : (t.sched a ph iss slot chk k).p = t.p := rfl
@[simp] theorem Tile.sched_m (t : Tile) (a ph iss slot : Nat) (chk : Bool) (k : ActKind) : (t.sched a ph iss slot chk k).m = t.m := rfl
@[simp] theorem Tile.sched_q (t : Tile) (a ph iss slot : Nat) (chk : Bool) (k : ActKind) : (t.sched a ph iss slot chk k).q = t.q := rfl
@[simp] theorem Tile.sched_sp (t : Tile) (a ph iss slot : Nat) (chk : Bool) (k : ActKind) : (t.sched a ph iss slot chk k).sp = t.sp := rfl
@[simp] theorem Tile.sched_vp (t : Tile) (a ph iss slot : Nat) (chk : Bool) (k : ActKind) : (t.sched a ph iss slot chk k).vp = t.vp := rfl
@[simp] theorem Tile.sched_fp (t : Tile) (a ph iss slot : Nat) (chk : Bool) (k : ActKind) : (t.sched a ph iss slot chk k).fp = t.fp := rfl
@[simp] theorem Tile.sched_cycLatch (t : Tile) (a ph iss slot : Nat) (chk : Bool) (k : ActKind) : (t.sched a ph iss slot chk k).cycLatch = t.cycLatch := rfl
@[simp] theorem Tile.sched_allot (t : Tile) (a ph iss slot : Nat) (chk : Bool) (k : ActKind) : (t.sched a ph iss slot chk k).allot = t.allot := rfl
@[simp] theorem Tile.sched_shrink (t : Tile) (a ph iss slot : Nat) (chk : Bool) (k : ActKind) : (t.sched a ph iss slot chk k).shrink = t.shrink := rfl
@[simp] theorem Tile.sched_pool (t : Tile) (a ph iss slot : Nat) (chk : Bool) (k : ActKind) : (t.sched a ph iss slot chk k).pool = t.pool := rfl
@[simp] theorem Tile.sched_opm (t : Tile) (a ph iss slot : Nat) (chk : Bool) (k : ActKind) : (t.sched a ph iss slot chk k).opm = t.opm := rfl
@[simp] theorem Tile.sched_cfg0 (t : Tile) (a ph iss slot : Nat) (chk : Bool) (k : ActKind) : (t.sched a ph iss slot chk k).cfg0 = t.cfg0 := rfl
@[simp] theorem Tile.sched_cfg1 (t : Tile) (a ph iss slot : Nat) (chk : Bool) (k : ActKind) : (t.sched a ph iss slot chk k).cfg1 = t.cfg1 := rfl
@[simp] theorem Tile.sched_second (t : Tile) (a ph iss slot : Nat) (chk : Bool) (k : ActKind) : (t.sched a ph iss slot chk k).second = t.second := rfl
@[simp] theorem Tile.sched_sel (t : Tile) (a ph iss slot : Nat) (chk : Bool) (k : ActKind) : (t.sched a ph iss slot chk k).sel = t.sel := rfl
@[simp] theorem Tile.sched_wrt (t : Tile) (a ph iss slot : Nat) (chk : Bool) (k : ActKind) : (t.sched a ph iss slot chk k).wrt = t.wrt := rfl
@[simp] theorem Tile.sched_rules (t : Tile) (a ph iss slot : Nat) (chk : Bool) (k : ActKind) : (t.sched a ph iss slot chk k).rules = t.rules := rfl
@[simp] theorem Tile.sched_claims (t : Tile) (a ph iss slot : Nat) (chk : Bool) (k : ActKind) : (t.sched a ph iss slot chk k).claims = t.claims := rfl
@[simp] theorem Tile.sched_copies (t : Tile) (a ph iss slot : Nat) (chk : Bool) (k : ActKind) : (t.sched a ph iss slot chk k).copies = t.copies := rfl
@[simp] theorem Tile.sched_chains (t : Tile) (a ph iss slot : Nat) (chk : Bool) (k : ActKind) : (t.sched a ph iss slot chk k).chains = t.chains := rfl
@[simp] theorem Tile.sched_msq (t : Tile) (a ph iss slot : Nat) (chk : Bool) (k : ActKind) : (t.sched a ph iss slot chk k).msq = t.msq := rfl
@[simp] theorem Tile.sched_mxFree (t : Tile) (a ph iss slot : Nat) (chk : Bool) (k : ActKind) : (t.sched a ph iss slot chk k).mxFree = t.mxFree := rfl
@[simp] theorem Tile.sched_vxFree (t : Tile) (a ph iss slot : Nat) (chk : Bool) (k : ActKind) : (t.sched a ph iss slot chk k).vxFree = t.vxFree := rfl
@[simp] theorem Tile.sched_mxSlots (t : Tile) (a ph iss slot : Nat) (chk : Bool) (k : ActKind) : (t.sched a ph iss slot chk k).mxSlots = t.mxSlots := rfl
@[simp] theorem Tile.sched_mxReadTo (t : Tile) (a ph iss slot : Nat) (chk : Bool) (k : ActKind) : (t.sched a ph iss slot chk k).mxReadTo = t.mxReadTo := rfl
@[simp] theorem Tile.sched_tags (t : Tile) (a ph iss slot : Nat) (chk : Bool) (k : ActKind) : (t.sched a ph iss slot chk k).tags = t.tags := rfl
@[simp] theorem Tile.sched_scl (t : Tile) (a ph iss slot : Nat) (chk : Bool) (k : ActKind) : (t.sched a ph iss slot chk k).scl = t.scl := rfl
@[simp] theorem Tile.sched_sclGen (t : Tile) (a ph iss slot : Nat) (chk : Bool) (k : ActKind) : (t.sched a ph iss slot chk k).sclGen = t.sclGen := rfl
@[simp] theorem Tile.sched_mst (t : Tile) (a ph iss slot : Nat) (chk : Bool) (k : ActKind) : (t.sched a ph iss slot chk k).mst = t.mst := rfl
@[simp] theorem Tile.sched_clsAny (t : Tile) (a ph iss slot : Nat) (chk : Bool) (k : ActKind) : (t.sched a ph iss slot chk k).clsAny = t.clsAny := rfl
@[simp] theorem Tile.sched_clsWr (t : Tile) (a ph iss slot : Nat) (chk : Bool) (k : ActKind) : (t.sched a ph iss slot chk k).clsWr = t.clsWr := rfl
@[simp] theorem Tile.sched_pendc (t : Tile) (a ph iss slot : Nat) (chk : Bool) (k : ActKind) : (t.sched a ph iss slot chk k).pendc = t.pendc := rfl
@[simp] theorem Tile.sched_mult (t : Tile) (a ph iss slot : Nat) (chk : Bool) (k : ActKind) : (t.sched a ph iss slot chk k).mult = t.mult := rfl
@[simp] theorem Tile.sched_svc (t : Tile) (a ph iss slot : Nat) (chk : Bool) (k : ActKind) : (t.sched a ph iss slot chk k).svc = t.svc := rfl
@[simp] theorem Tile.sched_base (t : Tile) (a ph iss slot : Nat) (chk : Bool) (k : ActKind) : (t.sched a ph iss slot chk k).base = t.base := rfl
@[simp] theorem Tile.sched_rx (t : Tile) (a ph iss slot : Nat) (chk : Bool) (k : ActKind) : (t.sched a ph iss slot chk k).rx = t.rx := rfl
@[simp] theorem Tile.sched_ry (t : Tile) (a ph iss slot : Nat) (chk : Bool) (k : ActKind) : (t.sched a ph iss slot chk k).ry = t.ry := rfl
@[simp] theorem Tile.sched_startG (t : Tile) (a ph iss slot : Nat) (chk : Bool) (k : ActKind) : (t.sched a ph iss slot chk k).startG = t.startG := rfl
@[simp] theorem Tile.sched_arr (t : Tile) (a ph iss slot : Nat) (chk : Bool) (k : ActKind) : (t.sched a ph iss slot chk k).arr = t.arr := rfl
@[simp] theorem Tile.sched_latch (t : Tile) (a ph iss slot : Nat) (chk : Bool) (k : ActKind) : (t.sched a ph iss slot chk k).latch = t.latch := rfl
@[simp] theorem Tile.sched_upsets (t : Tile) (a ph iss slot : Nat) (chk : Bool) (k : ActKind) : (t.sched a ph iss slot chk k).upsets = t.upsets := rfl
@[simp] theorem Tile.sched_frz (t : Tile) (a ph iss slot : Nat) (chk : Bool) (k : ActKind) : (t.sched a ph iss slot chk k).frz = t.frz := rfl
@[simp] theorem Tile.sched_landing (t : Tile) (a ph iss slot : Nat) (chk : Bool) (k : ActKind) : (t.sched a ph iss slot chk k).landing = t.landing := rfl
@[simp] theorem Tile.sched_localIn (t : Tile) (a ph iss slot : Nat) (chk : Bool) (k : ActKind) : (t.sched a ph iss slot chk k).localIn = t.localIn := rfl
@[simp] theorem Tile.sched_router (t : Tile) (a ph iss slot : Nat) (chk : Bool) (k : ActKind) : (t.sched a ph iss slot chk k).router = t.router := rfl
@[simp] theorem Tile.sched_align (t : Tile) (a ph iss slot : Nat) (chk : Bool) (k : ActKind) : (t.sched a ph iss slot chk k).align = t.align := rfl
@[simp] theorem Tile.sched_earlyDeltas (t : Tile) (a ph iss slot : Nat) (chk : Bool) (k : ActKind) : (t.sched a ph iss slot chk k).earlyDeltas = t.earlyDeltas := rfl
@[simp] theorem Tile.sched_reload (t : Tile) (a ph iss slot : Nat) (chk : Bool) (k : ActKind) : (t.sched a ph iss slot chk k).reload = t.reload := rfl
@[simp] theorem Tile.sched_reloadSet (t : Tile) (a ph iss slot : Nat) (chk : Bool) (k : ActKind) : (t.sched a ph iss slot chk k).reloadSet = t.reloadSet := rfl
@[simp] theorem Tile.sched_astat (t : Tile) (a ph iss slot : Nat) (chk : Bool) (k : ActKind) : (t.sched a ph iss slot chk k).astat = t.astat := rfl
@[simp] theorem Tile.sched_log (t : Tile) (a ph iss slot : Nat) (chk : Bool) (k : ActKind) : (t.sched a ph iss slot chk k).log = t.log := rfl
@[simp] theorem Tile.sched_logCount (t : Tile) (a ph iss slot : Nat) (chk : Bool) (k : ActKind) : (t.sched a ph iss slot chk k).logCount = t.logCount := rfl
@[simp] theorem Tile.sched_logLost (t : Tile) (a ph iss slot : Nat) (chk : Bool) (k : ActKind) : (t.sched a ph iss slot chk k).logLost = t.logLost := rfl
@[simp] theorem Tile.sched_openTraps (t : Tile) (a ph iss slot : Nat) (chk : Bool) (k : ActKind) : (t.sched a ph iss slot chk k).openTraps = t.openTraps := rfl
@[simp] theorem Tile.sched_returned (t : Tile) (a ph iss slot : Nat) (chk : Bool) (k : ActKind) : (t.sched a ph iss slot chk k).returned = t.returned := rfl
@[simp] theorem Tile.sched_iter (t : Tile) (a ph iss slot : Nat) (chk : Bool) (k : ActKind) : (t.sched a ph iss slot chk k).iter = t.iter := rfl
@[simp] theorem Tile.sched_iterLeft (t : Tile) (a ph iss slot : Nat) (chk : Bool) (k : ActKind) : (t.sched a ph iss slot chk k).iterLeft = t.iterLeft := rfl
@[simp] theorem Tile.sched_draining (t : Tile) (a ph iss slot : Nat) (chk : Bool) (k : ActKind) : (t.sched a ph iss slot chk k).draining = t.draining := rfl
@[simp] theorem Tile.sched_finalEnd (t : Tile) (a ph iss slot : Nat) (chk : Bool) (k : ActKind) : (t.sched a ph iss slot chk k).finalEnd = t.finalEnd := rfl
@[simp] theorem Tile.sched_drainedAt (t : Tile) (a ph iss slot : Nat) (chk : Bool) (k : ActKind) : (t.sched a ph iss slot chk k).drainedAt = t.drainedAt := rfl
@[simp] theorem Tile.sched_ckpts (t : Tile) (a ph iss slot : Nat) (chk : Bool) (k : ActKind) : (t.sched a ph iss slot chk k).ckpts = t.ckpts := rfl
@[simp] theorem Tile.sched_dbg (t : Tile) (a ph iss slot : Nat) (chk : Bool) (k : ActKind) : (t.sched a ph iss slot chk k).dbg = t.dbg := rfl
@[simp] theorem Tile.sched_filt (t : Tile) (a ph iss slot : Nat) (chk : Bool) (k : ActKind) : (t.sched a ph iss slot chk k).filt = t.filt := rfl
@[simp] theorem Tile.sched_ring (t : Tile) (a ph iss slot : Nat) (chk : Bool) (k : ActKind) : (t.sched a ph iss slot chk k).ring = t.ring := rfl
@[simp] theorem Tile.sched_captureTo (t : Tile) (a ph iss slot : Nat) (chk : Bool) (k : ActKind) : (t.sched a ph iss slot chk k).captureTo = t.captureTo := rfl
@[simp] theorem Tile.sched_stopReq (t : Tile) (a ph iss slot : Nat) (chk : Bool) (k : ActKind) : (t.sched a ph iss slot chk k).stopReq = t.stopReq := rfl
@[simp] theorem Tile.sched_stopRec (t : Tile) (a ph iss slot : Nat) (chk : Bool) (k : ActKind) : (t.sched a ph iss slot chk k).stopRec = t.stopRec := rfl
@[simp] theorem Tile.sched_stopAt (t : Tile) (a ph iss slot : Nat) (chk : Bool) (k : ActKind) : (t.sched a ph iss slot chk k).stopAt = t.stopAt := rfl
@[simp] theorem Tile.sched_stopSlot (t : Tile) (a ph iss slot : Nat) (chk : Bool) (k : ActKind) : (t.sched a ph iss slot chk k).stopSlot = t.stopSlot := rfl
@[simp] theorem Tile.sched_fill (t : Tile) (a ph iss slot : Nat) (chk : Bool) (k : ActKind) : (t.sched a ph iss slot chk k).fill = t.fill := rfl
@[simp] theorem Tile.sched_loaded (t : Tile) (a ph iss slot : Nat) (chk : Bool) (k : ActKind) : (t.sched a ph iss slot chk k).loaded = t.loaded := rfl
@[simp] theorem Tile.sched_loadedB (t : Tile) (a ph iss slot : Nat) (chk : Bool) (k : ActKind) : (t.sched a ph iss slot chk k).loadedB = t.loadedB := rfl
@[simp] theorem Tile.sched_saved (t : Tile) (a ph iss slot : Nat) (chk : Bool) (k : ActKind) : (t.sched a ph iss slot chk k).saved = t.saved := rfl
@[simp] theorem Tile.sched_restd (t : Tile) (a ph iss slot : Nat) (chk : Bool) (k : ActKind) : (t.sched a ph iss slot chk k).restd = t.restd := rfl
@[simp] theorem Tile.sched_tbl (t : Tile) (a ph iss slot : Nat) (chk : Bool) (k : ActKind) : (t.sched a ph iss slot chk k).tbl = t.tbl := rfl
@[simp] theorem Tile.sched_svcIn (t : Tile) (a ph iss slot : Nat) (chk : Bool) (k : ActKind) : (t.sched a ph iss slot chk k).svcIn = t.svcIn := rfl
@[simp] theorem Tile.sched_upAt (t : Tile) (a ph iss slot : Nat) (chk : Bool) (k : ActKind) : (t.sched a ph iss slot chk k).upAt = t.upAt := rfl
@[simp] theorem Tile.sched_downAt (t : Tile) (a ph iss slot : Nat) (chk : Bool) (k : ActKind) : (t.sched a ph iss slot chk k).downAt = t.downAt := rfl
@[simp] theorem Tile.sched_lastCtx (t : Tile) (a ph iss slot : Nat) (chk : Bool) (k : ActKind) : (t.sched a ph iss slot chk k).lastCtx = t.lastCtx := rfl
@[simp] theorem Tile.sched_freeAt (t : Tile) (a ph iss slot : Nat) (chk : Bool) (k : ActKind) : (t.sched a ph iss slot chk k).freeAt = t.freeAt := rfl
@[simp] theorem Tile.sched_fv (t : Tile) (a ph iss slot : Nat) (chk : Bool) (k : ActKind) : (t.sched a ph iss slot chk k).fv = t.fv := rfl
@[simp] theorem Tile.sched_out (t : Tile) (a ph iss slot : Nat) (chk : Bool) (k : ActKind) : (t.sched a ph iss slot chk k).out = t.out := rfl
@[simp] theorem Tile.setMst_launch (t : Tile) (f : Flags) : (t.setMst f).launch = t.launch := rfl
@[simp] theorem Tile.setMst_seq (t : Tile) (f : Flags) : (t.setMst f).seq = t.seq := rfl
@[simp] theorem Tile.setMst_gofs (t : Tile) (f : Flags) : (t.setMst f).gofs = t.gofs := rfl
@[simp] theorem Tile.setMst_s (t : Tile) (f : Flags) : (t.setMst f).s = t.s := rfl
@[simp] theorem Tile.setMst_p (t : Tile) (f : Flags) : (t.setMst f).p = t.p := rfl
@[simp] theorem Tile.setMst_m (t : Tile) (f : Flags) : (t.setMst f).m = t.m := rfl
@[simp] theorem Tile.setMst_q (t : Tile) (f : Flags) : (t.setMst f).q = t.q := rfl
@[simp] theorem Tile.setMst_sp (t : Tile) (f : Flags) : (t.setMst f).sp = t.sp := rfl
@[simp] theorem Tile.setMst_vp (t : Tile) (f : Flags) : (t.setMst f).vp = t.vp := rfl
@[simp] theorem Tile.setMst_fp (t : Tile) (f : Flags) : (t.setMst f).fp = t.fp := rfl
@[simp] theorem Tile.setMst_cycLatch (t : Tile) (f : Flags) : (t.setMst f).cycLatch = t.cycLatch := rfl
@[simp] theorem Tile.setMst_allot (t : Tile) (f : Flags) : (t.setMst f).allot = t.allot := rfl
@[simp] theorem Tile.setMst_shrink (t : Tile) (f : Flags) : (t.setMst f).shrink = t.shrink := rfl
@[simp] theorem Tile.setMst_pool (t : Tile) (f : Flags) : (t.setMst f).pool = t.pool := rfl
@[simp] theorem Tile.setMst_opm (t : Tile) (f : Flags) : (t.setMst f).opm = t.opm := rfl
@[simp] theorem Tile.setMst_cfg0 (t : Tile) (f : Flags) : (t.setMst f).cfg0 = t.cfg0 := rfl
@[simp] theorem Tile.setMst_cfg1 (t : Tile) (f : Flags) : (t.setMst f).cfg1 = t.cfg1 := rfl
@[simp] theorem Tile.setMst_second (t : Tile) (f : Flags) : (t.setMst f).second = t.second := rfl
@[simp] theorem Tile.setMst_sel (t : Tile) (f : Flags) : (t.setMst f).sel = t.sel := rfl
@[simp] theorem Tile.setMst_wrt (t : Tile) (f : Flags) : (t.setMst f).wrt = t.wrt := rfl
@[simp] theorem Tile.setMst_rules (t : Tile) (f : Flags) : (t.setMst f).rules = t.rules := rfl
@[simp] theorem Tile.setMst_claims (t : Tile) (f : Flags) : (t.setMst f).claims = t.claims := rfl
@[simp] theorem Tile.setMst_acts (t : Tile) (f : Flags) : (t.setMst f).acts = t.acts := rfl
@[simp] theorem Tile.setMst_copies (t : Tile) (f : Flags) : (t.setMst f).copies = t.copies := rfl
@[simp] theorem Tile.setMst_chains (t : Tile) (f : Flags) : (t.setMst f).chains = t.chains := rfl
@[simp] theorem Tile.setMst_msq (t : Tile) (f : Flags) : (t.setMst f).msq = t.msq := rfl
@[simp] theorem Tile.setMst_mxFree (t : Tile) (f : Flags) : (t.setMst f).mxFree = t.mxFree := rfl
@[simp] theorem Tile.setMst_vxFree (t : Tile) (f : Flags) : (t.setMst f).vxFree = t.vxFree := rfl
@[simp] theorem Tile.setMst_mxSlots (t : Tile) (f : Flags) : (t.setMst f).mxSlots = t.mxSlots := rfl
@[simp] theorem Tile.setMst_mxReadTo (t : Tile) (f : Flags) : (t.setMst f).mxReadTo = t.mxReadTo := rfl
@[simp] theorem Tile.setMst_tags (t : Tile) (f : Flags) : (t.setMst f).tags = t.tags := rfl
@[simp] theorem Tile.setMst_scl (t : Tile) (f : Flags) : (t.setMst f).scl = t.scl := rfl
@[simp] theorem Tile.setMst_sclGen (t : Tile) (f : Flags) : (t.setMst f).sclGen = t.sclGen := rfl
@[simp] theorem Tile.setMst_clsAny (t : Tile) (f : Flags) : (t.setMst f).clsAny = t.clsAny := rfl
@[simp] theorem Tile.setMst_clsWr (t : Tile) (f : Flags) : (t.setMst f).clsWr = t.clsWr := rfl
@[simp] theorem Tile.setMst_pendc (t : Tile) (f : Flags) : (t.setMst f).pendc = t.pendc := rfl
@[simp] theorem Tile.setMst_mult (t : Tile) (f : Flags) : (t.setMst f).mult = t.mult := rfl
@[simp] theorem Tile.setMst_svc (t : Tile) (f : Flags) : (t.setMst f).svc = t.svc := rfl
@[simp] theorem Tile.setMst_base (t : Tile) (f : Flags) : (t.setMst f).base = t.base := rfl
@[simp] theorem Tile.setMst_rx (t : Tile) (f : Flags) : (t.setMst f).rx = t.rx := rfl
@[simp] theorem Tile.setMst_ry (t : Tile) (f : Flags) : (t.setMst f).ry = t.ry := rfl
@[simp] theorem Tile.setMst_startG (t : Tile) (f : Flags) : (t.setMst f).startG = t.startG := rfl
@[simp] theorem Tile.setMst_arr (t : Tile) (f : Flags) : (t.setMst f).arr = t.arr := rfl
@[simp] theorem Tile.setMst_latch (t : Tile) (f : Flags) : (t.setMst f).latch = t.latch := rfl
@[simp] theorem Tile.setMst_upsets (t : Tile) (f : Flags) : (t.setMst f).upsets = t.upsets := rfl
@[simp] theorem Tile.setMst_frz (t : Tile) (f : Flags) : (t.setMst f).frz = t.frz := rfl
@[simp] theorem Tile.setMst_landing (t : Tile) (f : Flags) : (t.setMst f).landing = t.landing := rfl
@[simp] theorem Tile.setMst_localIn (t : Tile) (f : Flags) : (t.setMst f).localIn = t.localIn := rfl
@[simp] theorem Tile.setMst_router (t : Tile) (f : Flags) : (t.setMst f).router = t.router := rfl
@[simp] theorem Tile.setMst_align (t : Tile) (f : Flags) : (t.setMst f).align = t.align := rfl
@[simp] theorem Tile.setMst_earlyDeltas (t : Tile) (f : Flags) : (t.setMst f).earlyDeltas = t.earlyDeltas := rfl
@[simp] theorem Tile.setMst_reload (t : Tile) (f : Flags) : (t.setMst f).reload = t.reload := rfl
@[simp] theorem Tile.setMst_reloadSet (t : Tile) (f : Flags) : (t.setMst f).reloadSet = t.reloadSet := rfl
@[simp] theorem Tile.setMst_astat (t : Tile) (f : Flags) : (t.setMst f).astat = t.astat := rfl
@[simp] theorem Tile.setMst_log (t : Tile) (f : Flags) : (t.setMst f).log = t.log := rfl
@[simp] theorem Tile.setMst_logCount (t : Tile) (f : Flags) : (t.setMst f).logCount = t.logCount := rfl
@[simp] theorem Tile.setMst_logLost (t : Tile) (f : Flags) : (t.setMst f).logLost = t.logLost := rfl
@[simp] theorem Tile.setMst_openTraps (t : Tile) (f : Flags) : (t.setMst f).openTraps = t.openTraps := rfl
@[simp] theorem Tile.setMst_returned (t : Tile) (f : Flags) : (t.setMst f).returned = t.returned := rfl
@[simp] theorem Tile.setMst_iter (t : Tile) (f : Flags) : (t.setMst f).iter = t.iter := rfl
@[simp] theorem Tile.setMst_iterLeft (t : Tile) (f : Flags) : (t.setMst f).iterLeft = t.iterLeft := rfl
@[simp] theorem Tile.setMst_draining (t : Tile) (f : Flags) : (t.setMst f).draining = t.draining := rfl
@[simp] theorem Tile.setMst_finalEnd (t : Tile) (f : Flags) : (t.setMst f).finalEnd = t.finalEnd := rfl
@[simp] theorem Tile.setMst_drainedAt (t : Tile) (f : Flags) : (t.setMst f).drainedAt = t.drainedAt := rfl
@[simp] theorem Tile.setMst_ckpts (t : Tile) (f : Flags) : (t.setMst f).ckpts = t.ckpts := rfl
@[simp] theorem Tile.setMst_dbg (t : Tile) (f : Flags) : (t.setMst f).dbg = t.dbg := rfl
@[simp] theorem Tile.setMst_filt (t : Tile) (f : Flags) : (t.setMst f).filt = t.filt := rfl
@[simp] theorem Tile.setMst_ring (t : Tile) (f : Flags) : (t.setMst f).ring = t.ring := rfl
@[simp] theorem Tile.setMst_captureTo (t : Tile) (f : Flags) : (t.setMst f).captureTo = t.captureTo := rfl
@[simp] theorem Tile.setMst_stopReq (t : Tile) (f : Flags) : (t.setMst f).stopReq = t.stopReq := rfl
@[simp] theorem Tile.setMst_stopRec (t : Tile) (f : Flags) : (t.setMst f).stopRec = t.stopRec := rfl
@[simp] theorem Tile.setMst_stopAt (t : Tile) (f : Flags) : (t.setMst f).stopAt = t.stopAt := rfl
@[simp] theorem Tile.setMst_stopSlot (t : Tile) (f : Flags) : (t.setMst f).stopSlot = t.stopSlot := rfl
@[simp] theorem Tile.setMst_fill (t : Tile) (f : Flags) : (t.setMst f).fill = t.fill := rfl
@[simp] theorem Tile.setMst_loaded (t : Tile) (f : Flags) : (t.setMst f).loaded = t.loaded := rfl
@[simp] theorem Tile.setMst_loadedB (t : Tile) (f : Flags) : (t.setMst f).loadedB = t.loadedB := rfl
@[simp] theorem Tile.setMst_saved (t : Tile) (f : Flags) : (t.setMst f).saved = t.saved := rfl
@[simp] theorem Tile.setMst_restd (t : Tile) (f : Flags) : (t.setMst f).restd = t.restd := rfl
@[simp] theorem Tile.setMst_tbl (t : Tile) (f : Flags) : (t.setMst f).tbl = t.tbl := rfl
@[simp] theorem Tile.setMst_svcIn (t : Tile) (f : Flags) : (t.setMst f).svcIn = t.svcIn := rfl
@[simp] theorem Tile.setMst_upAt (t : Tile) (f : Flags) : (t.setMst f).upAt = t.upAt := rfl
@[simp] theorem Tile.setMst_downAt (t : Tile) (f : Flags) : (t.setMst f).downAt = t.downAt := rfl
@[simp] theorem Tile.setMst_lastCtx (t : Tile) (f : Flags) : (t.setMst f).lastCtx = t.lastCtx := rfl
@[simp] theorem Tile.setMst_freeAt (t : Tile) (f : Flags) : (t.setMst f).freeAt = t.freeAt := rfl
@[simp] theorem Tile.setMst_fv (t : Tile) (f : Flags) : (t.setMst f).fv = t.fv := rfl
@[simp] theorem Tile.setMst_out (t : Tile) (f : Flags) : (t.setMst f).out = t.out := rfl
@[simp] theorem Tile.setClaim_launch (t : Tile) (k c : Nat) (v : Bool) : (t.setClaim k c v).launch = t.launch := rfl
@[simp] theorem Tile.setClaim_seq (t : Tile) (k c : Nat) (v : Bool) : (t.setClaim k c v).seq = t.seq := rfl
@[simp] theorem Tile.setClaim_gofs (t : Tile) (k c : Nat) (v : Bool) : (t.setClaim k c v).gofs = t.gofs := rfl
@[simp] theorem Tile.setClaim_s (t : Tile) (k c : Nat) (v : Bool) : (t.setClaim k c v).s = t.s := rfl
@[simp] theorem Tile.setClaim_p (t : Tile) (k c : Nat) (v : Bool) : (t.setClaim k c v).p = t.p := rfl
@[simp] theorem Tile.setClaim_m (t : Tile) (k c : Nat) (v : Bool) : (t.setClaim k c v).m = t.m := rfl
@[simp] theorem Tile.setClaim_q (t : Tile) (k c : Nat) (v : Bool) : (t.setClaim k c v).q = t.q := rfl
@[simp] theorem Tile.setClaim_sp (t : Tile) (k c : Nat) (v : Bool) : (t.setClaim k c v).sp = t.sp := rfl
@[simp] theorem Tile.setClaim_vp (t : Tile) (k c : Nat) (v : Bool) : (t.setClaim k c v).vp = t.vp := rfl
@[simp] theorem Tile.setClaim_fp (t : Tile) (k c : Nat) (v : Bool) : (t.setClaim k c v).fp = t.fp := rfl
@[simp] theorem Tile.setClaim_cycLatch (t : Tile) (k c : Nat) (v : Bool) : (t.setClaim k c v).cycLatch = t.cycLatch := rfl
@[simp] theorem Tile.setClaim_allot (t : Tile) (k c : Nat) (v : Bool) : (t.setClaim k c v).allot = t.allot := rfl
@[simp] theorem Tile.setClaim_shrink (t : Tile) (k c : Nat) (v : Bool) : (t.setClaim k c v).shrink = t.shrink := rfl
@[simp] theorem Tile.setClaim_pool (t : Tile) (k c : Nat) (v : Bool) : (t.setClaim k c v).pool = t.pool := rfl
@[simp] theorem Tile.setClaim_opm (t : Tile) (k c : Nat) (v : Bool) : (t.setClaim k c v).opm = t.opm := rfl
@[simp] theorem Tile.setClaim_cfg0 (t : Tile) (k c : Nat) (v : Bool) : (t.setClaim k c v).cfg0 = t.cfg0 := rfl
@[simp] theorem Tile.setClaim_cfg1 (t : Tile) (k c : Nat) (v : Bool) : (t.setClaim k c v).cfg1 = t.cfg1 := rfl
@[simp] theorem Tile.setClaim_second (t : Tile) (k c : Nat) (v : Bool) : (t.setClaim k c v).second = t.second := rfl
@[simp] theorem Tile.setClaim_sel (t : Tile) (k c : Nat) (v : Bool) : (t.setClaim k c v).sel = t.sel := rfl
@[simp] theorem Tile.setClaim_wrt (t : Tile) (k c : Nat) (v : Bool) : (t.setClaim k c v).wrt = t.wrt := rfl
@[simp] theorem Tile.setClaim_rules (t : Tile) (k c : Nat) (v : Bool) : (t.setClaim k c v).rules = t.rules := rfl
@[simp] theorem Tile.setClaim_acts (t : Tile) (k c : Nat) (v : Bool) : (t.setClaim k c v).acts = t.acts := rfl
@[simp] theorem Tile.setClaim_copies (t : Tile) (k c : Nat) (v : Bool) : (t.setClaim k c v).copies = t.copies := rfl
@[simp] theorem Tile.setClaim_chains (t : Tile) (k c : Nat) (v : Bool) : (t.setClaim k c v).chains = t.chains := rfl
@[simp] theorem Tile.setClaim_msq (t : Tile) (k c : Nat) (v : Bool) : (t.setClaim k c v).msq = t.msq := rfl
@[simp] theorem Tile.setClaim_mxFree (t : Tile) (k c : Nat) (v : Bool) : (t.setClaim k c v).mxFree = t.mxFree := rfl
@[simp] theorem Tile.setClaim_vxFree (t : Tile) (k c : Nat) (v : Bool) : (t.setClaim k c v).vxFree = t.vxFree := rfl
@[simp] theorem Tile.setClaim_mxSlots (t : Tile) (k c : Nat) (v : Bool) : (t.setClaim k c v).mxSlots = t.mxSlots := rfl
@[simp] theorem Tile.setClaim_mxReadTo (t : Tile) (k c : Nat) (v : Bool) : (t.setClaim k c v).mxReadTo = t.mxReadTo := rfl
@[simp] theorem Tile.setClaim_tags (t : Tile) (k c : Nat) (v : Bool) : (t.setClaim k c v).tags = t.tags := rfl
@[simp] theorem Tile.setClaim_scl (t : Tile) (k c : Nat) (v : Bool) : (t.setClaim k c v).scl = t.scl := rfl
@[simp] theorem Tile.setClaim_sclGen (t : Tile) (k c : Nat) (v : Bool) : (t.setClaim k c v).sclGen = t.sclGen := rfl
@[simp] theorem Tile.setClaim_mst (t : Tile) (k c : Nat) (v : Bool) : (t.setClaim k c v).mst = t.mst := rfl
@[simp] theorem Tile.setClaim_clsAny (t : Tile) (k c : Nat) (v : Bool) : (t.setClaim k c v).clsAny = t.clsAny := rfl
@[simp] theorem Tile.setClaim_clsWr (t : Tile) (k c : Nat) (v : Bool) : (t.setClaim k c v).clsWr = t.clsWr := rfl
@[simp] theorem Tile.setClaim_pendc (t : Tile) (k c : Nat) (v : Bool) : (t.setClaim k c v).pendc = t.pendc := rfl
@[simp] theorem Tile.setClaim_mult (t : Tile) (k c : Nat) (v : Bool) : (t.setClaim k c v).mult = t.mult := rfl
@[simp] theorem Tile.setClaim_svc (t : Tile) (k c : Nat) (v : Bool) : (t.setClaim k c v).svc = t.svc := rfl
@[simp] theorem Tile.setClaim_base (t : Tile) (k c : Nat) (v : Bool) : (t.setClaim k c v).base = t.base := rfl
@[simp] theorem Tile.setClaim_rx (t : Tile) (k c : Nat) (v : Bool) : (t.setClaim k c v).rx = t.rx := rfl
@[simp] theorem Tile.setClaim_ry (t : Tile) (k c : Nat) (v : Bool) : (t.setClaim k c v).ry = t.ry := rfl
@[simp] theorem Tile.setClaim_startG (t : Tile) (k c : Nat) (v : Bool) : (t.setClaim k c v).startG = t.startG := rfl
@[simp] theorem Tile.setClaim_arr (t : Tile) (k c : Nat) (v : Bool) : (t.setClaim k c v).arr = t.arr := rfl
@[simp] theorem Tile.setClaim_latch (t : Tile) (k c : Nat) (v : Bool) : (t.setClaim k c v).latch = t.latch := rfl
@[simp] theorem Tile.setClaim_upsets (t : Tile) (k c : Nat) (v : Bool) : (t.setClaim k c v).upsets = t.upsets := rfl
@[simp] theorem Tile.setClaim_frz (t : Tile) (k c : Nat) (v : Bool) : (t.setClaim k c v).frz = t.frz := rfl
@[simp] theorem Tile.setClaim_landing (t : Tile) (k c : Nat) (v : Bool) : (t.setClaim k c v).landing = t.landing := rfl
@[simp] theorem Tile.setClaim_localIn (t : Tile) (k c : Nat) (v : Bool) : (t.setClaim k c v).localIn = t.localIn := rfl
@[simp] theorem Tile.setClaim_router (t : Tile) (k c : Nat) (v : Bool) : (t.setClaim k c v).router = t.router := rfl
@[simp] theorem Tile.setClaim_align (t : Tile) (k c : Nat) (v : Bool) : (t.setClaim k c v).align = t.align := rfl
@[simp] theorem Tile.setClaim_earlyDeltas (t : Tile) (k c : Nat) (v : Bool) : (t.setClaim k c v).earlyDeltas = t.earlyDeltas := rfl
@[simp] theorem Tile.setClaim_reload (t : Tile) (k c : Nat) (v : Bool) : (t.setClaim k c v).reload = t.reload := rfl
@[simp] theorem Tile.setClaim_reloadSet (t : Tile) (k c : Nat) (v : Bool) : (t.setClaim k c v).reloadSet = t.reloadSet := rfl
@[simp] theorem Tile.setClaim_astat (t : Tile) (k c : Nat) (v : Bool) : (t.setClaim k c v).astat = t.astat := rfl
@[simp] theorem Tile.setClaim_log (t : Tile) (k c : Nat) (v : Bool) : (t.setClaim k c v).log = t.log := rfl
@[simp] theorem Tile.setClaim_logCount (t : Tile) (k c : Nat) (v : Bool) : (t.setClaim k c v).logCount = t.logCount := rfl
@[simp] theorem Tile.setClaim_logLost (t : Tile) (k c : Nat) (v : Bool) : (t.setClaim k c v).logLost = t.logLost := rfl
@[simp] theorem Tile.setClaim_openTraps (t : Tile) (k c : Nat) (v : Bool) : (t.setClaim k c v).openTraps = t.openTraps := rfl
@[simp] theorem Tile.setClaim_returned (t : Tile) (k c : Nat) (v : Bool) : (t.setClaim k c v).returned = t.returned := rfl
@[simp] theorem Tile.setClaim_iter (t : Tile) (k c : Nat) (v : Bool) : (t.setClaim k c v).iter = t.iter := rfl
@[simp] theorem Tile.setClaim_iterLeft (t : Tile) (k c : Nat) (v : Bool) : (t.setClaim k c v).iterLeft = t.iterLeft := rfl
@[simp] theorem Tile.setClaim_draining (t : Tile) (k c : Nat) (v : Bool) : (t.setClaim k c v).draining = t.draining := rfl
@[simp] theorem Tile.setClaim_finalEnd (t : Tile) (k c : Nat) (v : Bool) : (t.setClaim k c v).finalEnd = t.finalEnd := rfl
@[simp] theorem Tile.setClaim_drainedAt (t : Tile) (k c : Nat) (v : Bool) : (t.setClaim k c v).drainedAt = t.drainedAt := rfl
@[simp] theorem Tile.setClaim_ckpts (t : Tile) (k c : Nat) (v : Bool) : (t.setClaim k c v).ckpts = t.ckpts := rfl
@[simp] theorem Tile.setClaim_dbg (t : Tile) (k c : Nat) (v : Bool) : (t.setClaim k c v).dbg = t.dbg := rfl
@[simp] theorem Tile.setClaim_filt (t : Tile) (k c : Nat) (v : Bool) : (t.setClaim k c v).filt = t.filt := rfl
@[simp] theorem Tile.setClaim_ring (t : Tile) (k c : Nat) (v : Bool) : (t.setClaim k c v).ring = t.ring := rfl
@[simp] theorem Tile.setClaim_captureTo (t : Tile) (k c : Nat) (v : Bool) : (t.setClaim k c v).captureTo = t.captureTo := rfl
@[simp] theorem Tile.setClaim_stopReq (t : Tile) (k c : Nat) (v : Bool) : (t.setClaim k c v).stopReq = t.stopReq := rfl
@[simp] theorem Tile.setClaim_stopRec (t : Tile) (k c : Nat) (v : Bool) : (t.setClaim k c v).stopRec = t.stopRec := rfl
@[simp] theorem Tile.setClaim_stopAt (t : Tile) (k c : Nat) (v : Bool) : (t.setClaim k c v).stopAt = t.stopAt := rfl
@[simp] theorem Tile.setClaim_stopSlot (t : Tile) (k c : Nat) (v : Bool) : (t.setClaim k c v).stopSlot = t.stopSlot := rfl
@[simp] theorem Tile.setClaim_fill (t : Tile) (k c : Nat) (v : Bool) : (t.setClaim k c v).fill = t.fill := rfl
@[simp] theorem Tile.setClaim_loaded (t : Tile) (k c : Nat) (v : Bool) : (t.setClaim k c v).loaded = t.loaded := rfl
@[simp] theorem Tile.setClaim_loadedB (t : Tile) (k c : Nat) (v : Bool) : (t.setClaim k c v).loadedB = t.loadedB := rfl
@[simp] theorem Tile.setClaim_saved (t : Tile) (k c : Nat) (v : Bool) : (t.setClaim k c v).saved = t.saved := rfl
@[simp] theorem Tile.setClaim_restd (t : Tile) (k c : Nat) (v : Bool) : (t.setClaim k c v).restd = t.restd := rfl
@[simp] theorem Tile.setClaim_tbl (t : Tile) (k c : Nat) (v : Bool) : (t.setClaim k c v).tbl = t.tbl := rfl
@[simp] theorem Tile.setClaim_svcIn (t : Tile) (k c : Nat) (v : Bool) : (t.setClaim k c v).svcIn = t.svcIn := rfl
@[simp] theorem Tile.setClaim_upAt (t : Tile) (k c : Nat) (v : Bool) : (t.setClaim k c v).upAt = t.upAt := rfl
@[simp] theorem Tile.setClaim_downAt (t : Tile) (k c : Nat) (v : Bool) : (t.setClaim k c v).downAt = t.downAt := rfl
@[simp] theorem Tile.setClaim_lastCtx (t : Tile) (k c : Nat) (v : Bool) : (t.setClaim k c v).lastCtx = t.lastCtx := rfl
@[simp] theorem Tile.setClaim_freeAt (t : Tile) (k c : Nat) (v : Bool) : (t.setClaim k c v).freeAt = t.freeAt := rfl
@[simp] theorem Tile.setClaim_fv (t : Tile) (k c : Nat) (v : Bool) : (t.setClaim k c v).fv = t.fv := rfl
@[simp] theorem Tile.setClaim_out (t : Tile) (k c : Nat) (v : Bool) : (t.setClaim k c v).out = t.out := rfl
@[simp] theorem Tile.pokeSp_launch (t : Tile) (n c v : Nat) : (t.pokeSp n c v).launch = t.launch := rfl
@[simp] theorem Tile.pokeSp_seq (t : Tile) (n c v : Nat) : (t.pokeSp n c v).seq = t.seq := rfl
@[simp] theorem Tile.pokeSp_gofs (t : Tile) (n c v : Nat) : (t.pokeSp n c v).gofs = t.gofs := rfl
@[simp] theorem Tile.pokeSp_s (t : Tile) (n c v : Nat) : (t.pokeSp n c v).s = t.s := rfl
@[simp] theorem Tile.pokeSp_p (t : Tile) (n c v : Nat) : (t.pokeSp n c v).p = t.p := rfl
@[simp] theorem Tile.pokeSp_m (t : Tile) (n c v : Nat) : (t.pokeSp n c v).m = t.m := rfl
@[simp] theorem Tile.pokeSp_q (t : Tile) (n c v : Nat) : (t.pokeSp n c v).q = t.q := rfl
@[simp] theorem Tile.pokeSp_vp (t : Tile) (n c v : Nat) : (t.pokeSp n c v).vp = t.vp := rfl
@[simp] theorem Tile.pokeSp_fp (t : Tile) (n c v : Nat) : (t.pokeSp n c v).fp = t.fp := rfl
@[simp] theorem Tile.pokeSp_cycLatch (t : Tile) (n c v : Nat) : (t.pokeSp n c v).cycLatch = t.cycLatch := rfl
@[simp] theorem Tile.pokeSp_allot (t : Tile) (n c v : Nat) : (t.pokeSp n c v).allot = t.allot := rfl
@[simp] theorem Tile.pokeSp_shrink (t : Tile) (n c v : Nat) : (t.pokeSp n c v).shrink = t.shrink := rfl
@[simp] theorem Tile.pokeSp_pool (t : Tile) (n c v : Nat) : (t.pokeSp n c v).pool = t.pool := rfl
@[simp] theorem Tile.pokeSp_opm (t : Tile) (n c v : Nat) : (t.pokeSp n c v).opm = t.opm := rfl
@[simp] theorem Tile.pokeSp_cfg0 (t : Tile) (n c v : Nat) : (t.pokeSp n c v).cfg0 = t.cfg0 := rfl
@[simp] theorem Tile.pokeSp_cfg1 (t : Tile) (n c v : Nat) : (t.pokeSp n c v).cfg1 = t.cfg1 := rfl
@[simp] theorem Tile.pokeSp_second (t : Tile) (n c v : Nat) : (t.pokeSp n c v).second = t.second := rfl
@[simp] theorem Tile.pokeSp_sel (t : Tile) (n c v : Nat) : (t.pokeSp n c v).sel = t.sel := rfl
@[simp] theorem Tile.pokeSp_wrt (t : Tile) (n c v : Nat) : (t.pokeSp n c v).wrt = t.wrt := rfl
@[simp] theorem Tile.pokeSp_rules (t : Tile) (n c v : Nat) : (t.pokeSp n c v).rules = t.rules := rfl
@[simp] theorem Tile.pokeSp_claims (t : Tile) (n c v : Nat) : (t.pokeSp n c v).claims = t.claims := rfl
@[simp] theorem Tile.pokeSp_acts (t : Tile) (n c v : Nat) : (t.pokeSp n c v).acts = t.acts := rfl
@[simp] theorem Tile.pokeSp_copies (t : Tile) (n c v : Nat) : (t.pokeSp n c v).copies = t.copies := rfl
@[simp] theorem Tile.pokeSp_chains (t : Tile) (n c v : Nat) : (t.pokeSp n c v).chains = t.chains := rfl
@[simp] theorem Tile.pokeSp_msq (t : Tile) (n c v : Nat) : (t.pokeSp n c v).msq = t.msq := rfl
@[simp] theorem Tile.pokeSp_mxFree (t : Tile) (n c v : Nat) : (t.pokeSp n c v).mxFree = t.mxFree := rfl
@[simp] theorem Tile.pokeSp_vxFree (t : Tile) (n c v : Nat) : (t.pokeSp n c v).vxFree = t.vxFree := rfl
@[simp] theorem Tile.pokeSp_mxSlots (t : Tile) (n c v : Nat) : (t.pokeSp n c v).mxSlots = t.mxSlots := rfl
@[simp] theorem Tile.pokeSp_mxReadTo (t : Tile) (n c v : Nat) : (t.pokeSp n c v).mxReadTo = t.mxReadTo := rfl
@[simp] theorem Tile.pokeSp_tags (t : Tile) (n c v : Nat) : (t.pokeSp n c v).tags = t.tags := rfl
@[simp] theorem Tile.pokeSp_scl (t : Tile) (n c v : Nat) : (t.pokeSp n c v).scl = t.scl := rfl
@[simp] theorem Tile.pokeSp_sclGen (t : Tile) (n c v : Nat) : (t.pokeSp n c v).sclGen = t.sclGen := rfl
@[simp] theorem Tile.pokeSp_mst (t : Tile) (n c v : Nat) : (t.pokeSp n c v).mst = t.mst := rfl
@[simp] theorem Tile.pokeSp_clsAny (t : Tile) (n c v : Nat) : (t.pokeSp n c v).clsAny = t.clsAny := rfl
@[simp] theorem Tile.pokeSp_clsWr (t : Tile) (n c v : Nat) : (t.pokeSp n c v).clsWr = t.clsWr := rfl
@[simp] theorem Tile.pokeSp_pendc (t : Tile) (n c v : Nat) : (t.pokeSp n c v).pendc = t.pendc := rfl
@[simp] theorem Tile.pokeSp_mult (t : Tile) (n c v : Nat) : (t.pokeSp n c v).mult = t.mult := rfl
@[simp] theorem Tile.pokeSp_svc (t : Tile) (n c v : Nat) : (t.pokeSp n c v).svc = t.svc := rfl
@[simp] theorem Tile.pokeSp_base (t : Tile) (n c v : Nat) : (t.pokeSp n c v).base = t.base := rfl
@[simp] theorem Tile.pokeSp_rx (t : Tile) (n c v : Nat) : (t.pokeSp n c v).rx = t.rx := rfl
@[simp] theorem Tile.pokeSp_ry (t : Tile) (n c v : Nat) : (t.pokeSp n c v).ry = t.ry := rfl
@[simp] theorem Tile.pokeSp_startG (t : Tile) (n c v : Nat) : (t.pokeSp n c v).startG = t.startG := rfl
@[simp] theorem Tile.pokeSp_arr (t : Tile) (n c v : Nat) : (t.pokeSp n c v).arr = t.arr := rfl
@[simp] theorem Tile.pokeSp_latch (t : Tile) (n c v : Nat) : (t.pokeSp n c v).latch = t.latch := rfl
@[simp] theorem Tile.pokeSp_upsets (t : Tile) (n c v : Nat) : (t.pokeSp n c v).upsets = t.upsets := rfl
@[simp] theorem Tile.pokeSp_frz (t : Tile) (n c v : Nat) : (t.pokeSp n c v).frz = t.frz := rfl
@[simp] theorem Tile.pokeSp_landing (t : Tile) (n c v : Nat) : (t.pokeSp n c v).landing = t.landing := rfl
@[simp] theorem Tile.pokeSp_localIn (t : Tile) (n c v : Nat) : (t.pokeSp n c v).localIn = t.localIn := rfl
@[simp] theorem Tile.pokeSp_router (t : Tile) (n c v : Nat) : (t.pokeSp n c v).router = t.router := rfl
@[simp] theorem Tile.pokeSp_align (t : Tile) (n c v : Nat) : (t.pokeSp n c v).align = t.align := rfl
@[simp] theorem Tile.pokeSp_earlyDeltas (t : Tile) (n c v : Nat) : (t.pokeSp n c v).earlyDeltas = t.earlyDeltas := rfl
@[simp] theorem Tile.pokeSp_reload (t : Tile) (n c v : Nat) : (t.pokeSp n c v).reload = t.reload := rfl
@[simp] theorem Tile.pokeSp_reloadSet (t : Tile) (n c v : Nat) : (t.pokeSp n c v).reloadSet = t.reloadSet := rfl
@[simp] theorem Tile.pokeSp_astat (t : Tile) (n c v : Nat) : (t.pokeSp n c v).astat = t.astat := rfl
@[simp] theorem Tile.pokeSp_log (t : Tile) (n c v : Nat) : (t.pokeSp n c v).log = t.log := rfl
@[simp] theorem Tile.pokeSp_logCount (t : Tile) (n c v : Nat) : (t.pokeSp n c v).logCount = t.logCount := rfl
@[simp] theorem Tile.pokeSp_logLost (t : Tile) (n c v : Nat) : (t.pokeSp n c v).logLost = t.logLost := rfl
@[simp] theorem Tile.pokeSp_openTraps (t : Tile) (n c v : Nat) : (t.pokeSp n c v).openTraps = t.openTraps := rfl
@[simp] theorem Tile.pokeSp_returned (t : Tile) (n c v : Nat) : (t.pokeSp n c v).returned = t.returned := rfl
@[simp] theorem Tile.pokeSp_iter (t : Tile) (n c v : Nat) : (t.pokeSp n c v).iter = t.iter := rfl
@[simp] theorem Tile.pokeSp_iterLeft (t : Tile) (n c v : Nat) : (t.pokeSp n c v).iterLeft = t.iterLeft := rfl
@[simp] theorem Tile.pokeSp_draining (t : Tile) (n c v : Nat) : (t.pokeSp n c v).draining = t.draining := rfl
@[simp] theorem Tile.pokeSp_finalEnd (t : Tile) (n c v : Nat) : (t.pokeSp n c v).finalEnd = t.finalEnd := rfl
@[simp] theorem Tile.pokeSp_drainedAt (t : Tile) (n c v : Nat) : (t.pokeSp n c v).drainedAt = t.drainedAt := rfl
@[simp] theorem Tile.pokeSp_ckpts (t : Tile) (n c v : Nat) : (t.pokeSp n c v).ckpts = t.ckpts := rfl
@[simp] theorem Tile.pokeSp_dbg (t : Tile) (n c v : Nat) : (t.pokeSp n c v).dbg = t.dbg := rfl
@[simp] theorem Tile.pokeSp_filt (t : Tile) (n c v : Nat) : (t.pokeSp n c v).filt = t.filt := rfl
@[simp] theorem Tile.pokeSp_ring (t : Tile) (n c v : Nat) : (t.pokeSp n c v).ring = t.ring := rfl
@[simp] theorem Tile.pokeSp_captureTo (t : Tile) (n c v : Nat) : (t.pokeSp n c v).captureTo = t.captureTo := rfl
@[simp] theorem Tile.pokeSp_stopReq (t : Tile) (n c v : Nat) : (t.pokeSp n c v).stopReq = t.stopReq := rfl
@[simp] theorem Tile.pokeSp_stopRec (t : Tile) (n c v : Nat) : (t.pokeSp n c v).stopRec = t.stopRec := rfl
@[simp] theorem Tile.pokeSp_stopAt (t : Tile) (n c v : Nat) : (t.pokeSp n c v).stopAt = t.stopAt := rfl
@[simp] theorem Tile.pokeSp_stopSlot (t : Tile) (n c v : Nat) : (t.pokeSp n c v).stopSlot = t.stopSlot := rfl
@[simp] theorem Tile.pokeSp_fill (t : Tile) (n c v : Nat) : (t.pokeSp n c v).fill = t.fill := rfl
@[simp] theorem Tile.pokeSp_loaded (t : Tile) (n c v : Nat) : (t.pokeSp n c v).loaded = t.loaded := rfl
@[simp] theorem Tile.pokeSp_loadedB (t : Tile) (n c v : Nat) : (t.pokeSp n c v).loadedB = t.loadedB := rfl
@[simp] theorem Tile.pokeSp_saved (t : Tile) (n c v : Nat) : (t.pokeSp n c v).saved = t.saved := rfl
@[simp] theorem Tile.pokeSp_restd (t : Tile) (n c v : Nat) : (t.pokeSp n c v).restd = t.restd := rfl
@[simp] theorem Tile.pokeSp_tbl (t : Tile) (n c v : Nat) : (t.pokeSp n c v).tbl = t.tbl := rfl
@[simp] theorem Tile.pokeSp_svcIn (t : Tile) (n c v : Nat) : (t.pokeSp n c v).svcIn = t.svcIn := rfl
@[simp] theorem Tile.pokeSp_upAt (t : Tile) (n c v : Nat) : (t.pokeSp n c v).upAt = t.upAt := rfl
@[simp] theorem Tile.pokeSp_downAt (t : Tile) (n c v : Nat) : (t.pokeSp n c v).downAt = t.downAt := rfl
@[simp] theorem Tile.pokeSp_lastCtx (t : Tile) (n c v : Nat) : (t.pokeSp n c v).lastCtx = t.lastCtx := rfl
@[simp] theorem Tile.pokeSp_freeAt (t : Tile) (n c v : Nat) : (t.pokeSp n c v).freeAt = t.freeAt := rfl
@[simp] theorem Tile.pokeSp_fv (t : Tile) (n c v : Nat) : (t.pokeSp n c v).fv = t.fv := rfl
@[simp] theorem Tile.pokeSp_out (t : Tile) (n c v : Nat) : (t.pokeSp n c v).out = t.out := rfl
@[simp] theorem Tile.addLog_launch (t : Tile) (c pc cause kind lost : Nat) : (t.addLog c pc cause kind lost).launch = t.launch := rfl
@[simp] theorem Tile.addLog_seq (t : Tile) (c pc cause kind lost : Nat) : (t.addLog c pc cause kind lost).seq = t.seq := rfl
@[simp] theorem Tile.addLog_gofs (t : Tile) (c pc cause kind lost : Nat) : (t.addLog c pc cause kind lost).gofs = t.gofs := rfl
@[simp] theorem Tile.addLog_s (t : Tile) (c pc cause kind lost : Nat) : (t.addLog c pc cause kind lost).s = t.s := rfl
@[simp] theorem Tile.addLog_p (t : Tile) (c pc cause kind lost : Nat) : (t.addLog c pc cause kind lost).p = t.p := rfl
@[simp] theorem Tile.addLog_m (t : Tile) (c pc cause kind lost : Nat) : (t.addLog c pc cause kind lost).m = t.m := rfl
@[simp] theorem Tile.addLog_q (t : Tile) (c pc cause kind lost : Nat) : (t.addLog c pc cause kind lost).q = t.q := rfl
@[simp] theorem Tile.addLog_sp (t : Tile) (c pc cause kind lost : Nat) : (t.addLog c pc cause kind lost).sp = t.sp := rfl
@[simp] theorem Tile.addLog_vp (t : Tile) (c pc cause kind lost : Nat) : (t.addLog c pc cause kind lost).vp = t.vp := rfl
@[simp] theorem Tile.addLog_fp (t : Tile) (c pc cause kind lost : Nat) : (t.addLog c pc cause kind lost).fp = t.fp := rfl
@[simp] theorem Tile.addLog_cycLatch (t : Tile) (c pc cause kind lost : Nat) : (t.addLog c pc cause kind lost).cycLatch = t.cycLatch := rfl
@[simp] theorem Tile.addLog_allot (t : Tile) (c pc cause kind lost : Nat) : (t.addLog c pc cause kind lost).allot = t.allot := rfl
@[simp] theorem Tile.addLog_shrink (t : Tile) (c pc cause kind lost : Nat) : (t.addLog c pc cause kind lost).shrink = t.shrink := rfl
@[simp] theorem Tile.addLog_pool (t : Tile) (c pc cause kind lost : Nat) : (t.addLog c pc cause kind lost).pool = t.pool := rfl
@[simp] theorem Tile.addLog_opm (t : Tile) (c pc cause kind lost : Nat) : (t.addLog c pc cause kind lost).opm = t.opm := rfl
@[simp] theorem Tile.addLog_cfg0 (t : Tile) (c pc cause kind lost : Nat) : (t.addLog c pc cause kind lost).cfg0 = t.cfg0 := rfl
@[simp] theorem Tile.addLog_cfg1 (t : Tile) (c pc cause kind lost : Nat) : (t.addLog c pc cause kind lost).cfg1 = t.cfg1 := rfl
@[simp] theorem Tile.addLog_second (t : Tile) (c pc cause kind lost : Nat) : (t.addLog c pc cause kind lost).second = t.second := rfl
@[simp] theorem Tile.addLog_sel (t : Tile) (c pc cause kind lost : Nat) : (t.addLog c pc cause kind lost).sel = t.sel := rfl
@[simp] theorem Tile.addLog_wrt (t : Tile) (c pc cause kind lost : Nat) : (t.addLog c pc cause kind lost).wrt = t.wrt := rfl
@[simp] theorem Tile.addLog_rules (t : Tile) (c pc cause kind lost : Nat) : (t.addLog c pc cause kind lost).rules = t.rules := rfl
@[simp] theorem Tile.addLog_claims (t : Tile) (c pc cause kind lost : Nat) : (t.addLog c pc cause kind lost).claims = t.claims := rfl
@[simp] theorem Tile.addLog_acts (t : Tile) (c pc cause kind lost : Nat) : (t.addLog c pc cause kind lost).acts = t.acts := rfl
@[simp] theorem Tile.addLog_copies (t : Tile) (c pc cause kind lost : Nat) : (t.addLog c pc cause kind lost).copies = t.copies := rfl
@[simp] theorem Tile.addLog_chains (t : Tile) (c pc cause kind lost : Nat) : (t.addLog c pc cause kind lost).chains = t.chains := rfl
@[simp] theorem Tile.addLog_msq (t : Tile) (c pc cause kind lost : Nat) : (t.addLog c pc cause kind lost).msq = t.msq := rfl
@[simp] theorem Tile.addLog_mxFree (t : Tile) (c pc cause kind lost : Nat) : (t.addLog c pc cause kind lost).mxFree = t.mxFree := rfl
@[simp] theorem Tile.addLog_vxFree (t : Tile) (c pc cause kind lost : Nat) : (t.addLog c pc cause kind lost).vxFree = t.vxFree := rfl
@[simp] theorem Tile.addLog_mxSlots (t : Tile) (c pc cause kind lost : Nat) : (t.addLog c pc cause kind lost).mxSlots = t.mxSlots := rfl
@[simp] theorem Tile.addLog_mxReadTo (t : Tile) (c pc cause kind lost : Nat) : (t.addLog c pc cause kind lost).mxReadTo = t.mxReadTo := rfl
@[simp] theorem Tile.addLog_tags (t : Tile) (c pc cause kind lost : Nat) : (t.addLog c pc cause kind lost).tags = t.tags := rfl
@[simp] theorem Tile.addLog_scl (t : Tile) (c pc cause kind lost : Nat) : (t.addLog c pc cause kind lost).scl = t.scl := rfl
@[simp] theorem Tile.addLog_sclGen (t : Tile) (c pc cause kind lost : Nat) : (t.addLog c pc cause kind lost).sclGen = t.sclGen := rfl
@[simp] theorem Tile.addLog_mst (t : Tile) (c pc cause kind lost : Nat) : (t.addLog c pc cause kind lost).mst = t.mst := rfl
@[simp] theorem Tile.addLog_clsAny (t : Tile) (c pc cause kind lost : Nat) : (t.addLog c pc cause kind lost).clsAny = t.clsAny := rfl
@[simp] theorem Tile.addLog_clsWr (t : Tile) (c pc cause kind lost : Nat) : (t.addLog c pc cause kind lost).clsWr = t.clsWr := rfl
@[simp] theorem Tile.addLog_pendc (t : Tile) (c pc cause kind lost : Nat) : (t.addLog c pc cause kind lost).pendc = t.pendc := rfl
@[simp] theorem Tile.addLog_mult (t : Tile) (c pc cause kind lost : Nat) : (t.addLog c pc cause kind lost).mult = t.mult := rfl
@[simp] theorem Tile.addLog_svc (t : Tile) (c pc cause kind lost : Nat) : (t.addLog c pc cause kind lost).svc = t.svc := rfl
@[simp] theorem Tile.addLog_base (t : Tile) (c pc cause kind lost : Nat) : (t.addLog c pc cause kind lost).base = t.base := rfl
@[simp] theorem Tile.addLog_rx (t : Tile) (c pc cause kind lost : Nat) : (t.addLog c pc cause kind lost).rx = t.rx := rfl
@[simp] theorem Tile.addLog_ry (t : Tile) (c pc cause kind lost : Nat) : (t.addLog c pc cause kind lost).ry = t.ry := rfl
@[simp] theorem Tile.addLog_startG (t : Tile) (c pc cause kind lost : Nat) : (t.addLog c pc cause kind lost).startG = t.startG := rfl
@[simp] theorem Tile.addLog_arr (t : Tile) (c pc cause kind lost : Nat) : (t.addLog c pc cause kind lost).arr = t.arr := rfl
@[simp] theorem Tile.addLog_latch (t : Tile) (c pc cause kind lost : Nat) : (t.addLog c pc cause kind lost).latch = t.latch := rfl
@[simp] theorem Tile.addLog_upsets (t : Tile) (c pc cause kind lost : Nat) : (t.addLog c pc cause kind lost).upsets = t.upsets := rfl
@[simp] theorem Tile.addLog_frz (t : Tile) (c pc cause kind lost : Nat) : (t.addLog c pc cause kind lost).frz = t.frz := rfl
@[simp] theorem Tile.addLog_landing (t : Tile) (c pc cause kind lost : Nat) : (t.addLog c pc cause kind lost).landing = t.landing := rfl
@[simp] theorem Tile.addLog_localIn (t : Tile) (c pc cause kind lost : Nat) : (t.addLog c pc cause kind lost).localIn = t.localIn := rfl
@[simp] theorem Tile.addLog_router (t : Tile) (c pc cause kind lost : Nat) : (t.addLog c pc cause kind lost).router = t.router := rfl
@[simp] theorem Tile.addLog_align (t : Tile) (c pc cause kind lost : Nat) : (t.addLog c pc cause kind lost).align = t.align := rfl
@[simp] theorem Tile.addLog_earlyDeltas (t : Tile) (c pc cause kind lost : Nat) : (t.addLog c pc cause kind lost).earlyDeltas = t.earlyDeltas := rfl
@[simp] theorem Tile.addLog_reload (t : Tile) (c pc cause kind lost : Nat) : (t.addLog c pc cause kind lost).reload = t.reload := rfl
@[simp] theorem Tile.addLog_reloadSet (t : Tile) (c pc cause kind lost : Nat) : (t.addLog c pc cause kind lost).reloadSet = t.reloadSet := rfl
@[simp] theorem Tile.addLog_astat (t : Tile) (c pc cause kind lost : Nat) : (t.addLog c pc cause kind lost).astat = t.astat := rfl
@[simp] theorem Tile.addLog_openTraps (t : Tile) (c pc cause kind lost : Nat) : (t.addLog c pc cause kind lost).openTraps = t.openTraps := rfl
@[simp] theorem Tile.addLog_returned (t : Tile) (c pc cause kind lost : Nat) : (t.addLog c pc cause kind lost).returned = t.returned := rfl
@[simp] theorem Tile.addLog_iter (t : Tile) (c pc cause kind lost : Nat) : (t.addLog c pc cause kind lost).iter = t.iter := rfl
@[simp] theorem Tile.addLog_iterLeft (t : Tile) (c pc cause kind lost : Nat) : (t.addLog c pc cause kind lost).iterLeft = t.iterLeft := rfl
@[simp] theorem Tile.addLog_draining (t : Tile) (c pc cause kind lost : Nat) : (t.addLog c pc cause kind lost).draining = t.draining := rfl
@[simp] theorem Tile.addLog_finalEnd (t : Tile) (c pc cause kind lost : Nat) : (t.addLog c pc cause kind lost).finalEnd = t.finalEnd := rfl
@[simp] theorem Tile.addLog_drainedAt (t : Tile) (c pc cause kind lost : Nat) : (t.addLog c pc cause kind lost).drainedAt = t.drainedAt := rfl
@[simp] theorem Tile.addLog_ckpts (t : Tile) (c pc cause kind lost : Nat) : (t.addLog c pc cause kind lost).ckpts = t.ckpts := rfl
@[simp] theorem Tile.addLog_dbg (t : Tile) (c pc cause kind lost : Nat) : (t.addLog c pc cause kind lost).dbg = t.dbg := rfl
@[simp] theorem Tile.addLog_filt (t : Tile) (c pc cause kind lost : Nat) : (t.addLog c pc cause kind lost).filt = t.filt := rfl
@[simp] theorem Tile.addLog_ring (t : Tile) (c pc cause kind lost : Nat) : (t.addLog c pc cause kind lost).ring = t.ring := rfl
@[simp] theorem Tile.addLog_captureTo (t : Tile) (c pc cause kind lost : Nat) : (t.addLog c pc cause kind lost).captureTo = t.captureTo := rfl
@[simp] theorem Tile.addLog_stopReq (t : Tile) (c pc cause kind lost : Nat) : (t.addLog c pc cause kind lost).stopReq = t.stopReq := rfl
@[simp] theorem Tile.addLog_stopRec (t : Tile) (c pc cause kind lost : Nat) : (t.addLog c pc cause kind lost).stopRec = t.stopRec := rfl
@[simp] theorem Tile.addLog_stopAt (t : Tile) (c pc cause kind lost : Nat) : (t.addLog c pc cause kind lost).stopAt = t.stopAt := rfl
@[simp] theorem Tile.addLog_stopSlot (t : Tile) (c pc cause kind lost : Nat) : (t.addLog c pc cause kind lost).stopSlot = t.stopSlot := rfl
@[simp] theorem Tile.addLog_fill (t : Tile) (c pc cause kind lost : Nat) : (t.addLog c pc cause kind lost).fill = t.fill := rfl
@[simp] theorem Tile.addLog_loaded (t : Tile) (c pc cause kind lost : Nat) : (t.addLog c pc cause kind lost).loaded = t.loaded := rfl
@[simp] theorem Tile.addLog_loadedB (t : Tile) (c pc cause kind lost : Nat) : (t.addLog c pc cause kind lost).loadedB = t.loadedB := rfl
@[simp] theorem Tile.addLog_saved (t : Tile) (c pc cause kind lost : Nat) : (t.addLog c pc cause kind lost).saved = t.saved := rfl
@[simp] theorem Tile.addLog_restd (t : Tile) (c pc cause kind lost : Nat) : (t.addLog c pc cause kind lost).restd = t.restd := rfl
@[simp] theorem Tile.addLog_tbl (t : Tile) (c pc cause kind lost : Nat) : (t.addLog c pc cause kind lost).tbl = t.tbl := rfl
@[simp] theorem Tile.addLog_svcIn (t : Tile) (c pc cause kind lost : Nat) : (t.addLog c pc cause kind lost).svcIn = t.svcIn := rfl
@[simp] theorem Tile.addLog_upAt (t : Tile) (c pc cause kind lost : Nat) : (t.addLog c pc cause kind lost).upAt = t.upAt := rfl
@[simp] theorem Tile.addLog_downAt (t : Tile) (c pc cause kind lost : Nat) : (t.addLog c pc cause kind lost).downAt = t.downAt := rfl
@[simp] theorem Tile.addLog_lastCtx (t : Tile) (c pc cause kind lost : Nat) : (t.addLog c pc cause kind lost).lastCtx = t.lastCtx := rfl
@[simp] theorem Tile.addLog_freeAt (t : Tile) (c pc cause kind lost : Nat) : (t.addLog c pc cause kind lost).freeAt = t.freeAt := rfl
@[simp] theorem Tile.addLog_fv (t : Tile) (c pc cause kind lost : Nat) : (t.addLog c pc cause kind lost).fv = t.fv := rfl
@[simp] theorem Tile.addLog_out (t : Tile) (c pc cause kind lost : Nat) : (t.addLog c pc cause kind lost).out = t.out := rfl
@[simp] theorem Tile.setFlags_launch (t : Tile) (c : Nat) (f : Flags) : (t.setFlags c f).launch = t.launch := by unfold Tile.setFlags; split <;> rfl
@[simp] theorem Tile.setFlags_seq (t : Tile) (c : Nat) (f : Flags) : (t.setFlags c f).seq = t.seq := by unfold Tile.setFlags; split <;> rfl
@[simp] theorem Tile.setFlags_gofs (t : Tile) (c : Nat) (f : Flags) : (t.setFlags c f).gofs = t.gofs := by unfold Tile.setFlags; split <;> rfl
@[simp] theorem Tile.setFlags_s (t : Tile) (c : Nat) (f : Flags) : (t.setFlags c f).s = t.s := by unfold Tile.setFlags; split <;> rfl
@[simp] theorem Tile.setFlags_p (t : Tile) (c : Nat) (f : Flags) : (t.setFlags c f).p = t.p := by unfold Tile.setFlags; split <;> rfl
@[simp] theorem Tile.setFlags_m (t : Tile) (c : Nat) (f : Flags) : (t.setFlags c f).m = t.m := by unfold Tile.setFlags; split <;> rfl
@[simp] theorem Tile.setFlags_q (t : Tile) (c : Nat) (f : Flags) : (t.setFlags c f).q = t.q := by unfold Tile.setFlags; split <;> rfl
@[simp] theorem Tile.setFlags_sp (t : Tile) (c : Nat) (f : Flags) : (t.setFlags c f).sp = t.sp := by unfold Tile.setFlags; split <;> rfl
@[simp] theorem Tile.setFlags_vp (t : Tile) (c : Nat) (f : Flags) : (t.setFlags c f).vp = t.vp := by unfold Tile.setFlags; split <;> rfl
@[simp] theorem Tile.setFlags_cycLatch (t : Tile) (c : Nat) (f : Flags) : (t.setFlags c f).cycLatch = t.cycLatch := by unfold Tile.setFlags; split <;> rfl
@[simp] theorem Tile.setFlags_allot (t : Tile) (c : Nat) (f : Flags) : (t.setFlags c f).allot = t.allot := by unfold Tile.setFlags; split <;> rfl
@[simp] theorem Tile.setFlags_shrink (t : Tile) (c : Nat) (f : Flags) : (t.setFlags c f).shrink = t.shrink := by unfold Tile.setFlags; split <;> rfl
@[simp] theorem Tile.setFlags_pool (t : Tile) (c : Nat) (f : Flags) : (t.setFlags c f).pool = t.pool := by unfold Tile.setFlags; split <;> rfl
@[simp] theorem Tile.setFlags_opm (t : Tile) (c : Nat) (f : Flags) : (t.setFlags c f).opm = t.opm := by unfold Tile.setFlags; split <;> rfl
@[simp] theorem Tile.setFlags_cfg0 (t : Tile) (c : Nat) (f : Flags) : (t.setFlags c f).cfg0 = t.cfg0 := by unfold Tile.setFlags; split <;> rfl
@[simp] theorem Tile.setFlags_cfg1 (t : Tile) (c : Nat) (f : Flags) : (t.setFlags c f).cfg1 = t.cfg1 := by unfold Tile.setFlags; split <;> rfl
@[simp] theorem Tile.setFlags_second (t : Tile) (c : Nat) (f : Flags) : (t.setFlags c f).second = t.second := by unfold Tile.setFlags; split <;> rfl
@[simp] theorem Tile.setFlags_sel (t : Tile) (c : Nat) (f : Flags) : (t.setFlags c f).sel = t.sel := by unfold Tile.setFlags; split <;> rfl
@[simp] theorem Tile.setFlags_wrt (t : Tile) (c : Nat) (f : Flags) : (t.setFlags c f).wrt = t.wrt := by unfold Tile.setFlags; split <;> rfl
@[simp] theorem Tile.setFlags_rules (t : Tile) (c : Nat) (f : Flags) : (t.setFlags c f).rules = t.rules := by unfold Tile.setFlags; split <;> rfl
@[simp] theorem Tile.setFlags_claims (t : Tile) (c : Nat) (f : Flags) : (t.setFlags c f).claims = t.claims := by unfold Tile.setFlags; split <;> rfl
@[simp] theorem Tile.setFlags_acts (t : Tile) (c : Nat) (f : Flags) : (t.setFlags c f).acts = t.acts := by unfold Tile.setFlags; split <;> rfl
@[simp] theorem Tile.setFlags_copies (t : Tile) (c : Nat) (f : Flags) : (t.setFlags c f).copies = t.copies := by unfold Tile.setFlags; split <;> rfl
@[simp] theorem Tile.setFlags_chains (t : Tile) (c : Nat) (f : Flags) : (t.setFlags c f).chains = t.chains := by unfold Tile.setFlags; split <;> rfl
@[simp] theorem Tile.setFlags_msq (t : Tile) (c : Nat) (f : Flags) : (t.setFlags c f).msq = t.msq := by unfold Tile.setFlags; split <;> rfl
@[simp] theorem Tile.setFlags_mxFree (t : Tile) (c : Nat) (f : Flags) : (t.setFlags c f).mxFree = t.mxFree := by unfold Tile.setFlags; split <;> rfl
@[simp] theorem Tile.setFlags_vxFree (t : Tile) (c : Nat) (f : Flags) : (t.setFlags c f).vxFree = t.vxFree := by unfold Tile.setFlags; split <;> rfl
@[simp] theorem Tile.setFlags_mxSlots (t : Tile) (c : Nat) (f : Flags) : (t.setFlags c f).mxSlots = t.mxSlots := by unfold Tile.setFlags; split <;> rfl
@[simp] theorem Tile.setFlags_mxReadTo (t : Tile) (c : Nat) (f : Flags) : (t.setFlags c f).mxReadTo = t.mxReadTo := by unfold Tile.setFlags; split <;> rfl
@[simp] theorem Tile.setFlags_tags (t : Tile) (c : Nat) (f : Flags) : (t.setFlags c f).tags = t.tags := by unfold Tile.setFlags; split <;> rfl
@[simp] theorem Tile.setFlags_scl (t : Tile) (c : Nat) (f : Flags) : (t.setFlags c f).scl = t.scl := by unfold Tile.setFlags; split <;> rfl
@[simp] theorem Tile.setFlags_sclGen (t : Tile) (c : Nat) (f : Flags) : (t.setFlags c f).sclGen = t.sclGen := by unfold Tile.setFlags; split <;> rfl
@[simp] theorem Tile.setFlags_mst (t : Tile) (c : Nat) (f : Flags) : (t.setFlags c f).mst = t.mst := by unfold Tile.setFlags; split <;> rfl
@[simp] theorem Tile.setFlags_clsAny (t : Tile) (c : Nat) (f : Flags) : (t.setFlags c f).clsAny = t.clsAny := by unfold Tile.setFlags; split <;> rfl
@[simp] theorem Tile.setFlags_clsWr (t : Tile) (c : Nat) (f : Flags) : (t.setFlags c f).clsWr = t.clsWr := by unfold Tile.setFlags; split <;> rfl
@[simp] theorem Tile.setFlags_pendc (t : Tile) (c : Nat) (f : Flags) : (t.setFlags c f).pendc = t.pendc := by unfold Tile.setFlags; split <;> rfl
@[simp] theorem Tile.setFlags_mult (t : Tile) (c : Nat) (f : Flags) : (t.setFlags c f).mult = t.mult := by unfold Tile.setFlags; split <;> rfl
@[simp] theorem Tile.setFlags_svc (t : Tile) (c : Nat) (f : Flags) : (t.setFlags c f).svc = t.svc := by unfold Tile.setFlags; split <;> rfl
@[simp] theorem Tile.setFlags_arr (t : Tile) (c : Nat) (f : Flags) : (t.setFlags c f).arr = t.arr := by unfold Tile.setFlags; split <;> rfl
@[simp] theorem Tile.setFlags_latch (t : Tile) (c : Nat) (f : Flags) : (t.setFlags c f).latch = t.latch := by unfold Tile.setFlags; split <;> rfl
@[simp] theorem Tile.setFlags_upsets (t : Tile) (c : Nat) (f : Flags) : (t.setFlags c f).upsets = t.upsets := by unfold Tile.setFlags; split <;> rfl
@[simp] theorem Tile.setFlags_frz (t : Tile) (c : Nat) (f : Flags) : (t.setFlags c f).frz = t.frz := by unfold Tile.setFlags; split <;> rfl
@[simp] theorem Tile.setFlags_landing (t : Tile) (c : Nat) (f : Flags) : (t.setFlags c f).landing = t.landing := by unfold Tile.setFlags; split <;> rfl
@[simp] theorem Tile.setFlags_localIn (t : Tile) (c : Nat) (f : Flags) : (t.setFlags c f).localIn = t.localIn := by unfold Tile.setFlags; split <;> rfl
@[simp] theorem Tile.setFlags_router (t : Tile) (c : Nat) (f : Flags) : (t.setFlags c f).router = t.router := by unfold Tile.setFlags; split <;> rfl
@[simp] theorem Tile.setFlags_align (t : Tile) (c : Nat) (f : Flags) : (t.setFlags c f).align = t.align := by unfold Tile.setFlags; split <;> rfl
@[simp] theorem Tile.setFlags_earlyDeltas (t : Tile) (c : Nat) (f : Flags) : (t.setFlags c f).earlyDeltas = t.earlyDeltas := by unfold Tile.setFlags; split <;> rfl
@[simp] theorem Tile.setFlags_reload (t : Tile) (c : Nat) (f : Flags) : (t.setFlags c f).reload = t.reload := by unfold Tile.setFlags; split <;> rfl
@[simp] theorem Tile.setFlags_reloadSet (t : Tile) (c : Nat) (f : Flags) : (t.setFlags c f).reloadSet = t.reloadSet := by unfold Tile.setFlags; split <;> rfl
@[simp] theorem Tile.setFlags_astat (t : Tile) (c : Nat) (f : Flags) : (t.setFlags c f).astat = t.astat := by unfold Tile.setFlags; split <;> rfl
@[simp] theorem Tile.setFlags_log (t : Tile) (c : Nat) (f : Flags) : (t.setFlags c f).log = t.log := by unfold Tile.setFlags; split <;> rfl
@[simp] theorem Tile.setFlags_logCount (t : Tile) (c : Nat) (f : Flags) : (t.setFlags c f).logCount = t.logCount := by unfold Tile.setFlags; split <;> rfl
@[simp] theorem Tile.setFlags_logLost (t : Tile) (c : Nat) (f : Flags) : (t.setFlags c f).logLost = t.logLost := by unfold Tile.setFlags; split <;> rfl
@[simp] theorem Tile.setFlags_openTraps (t : Tile) (c : Nat) (f : Flags) : (t.setFlags c f).openTraps = t.openTraps := by unfold Tile.setFlags; split <;> rfl
@[simp] theorem Tile.setFlags_iter (t : Tile) (c : Nat) (f : Flags) : (t.setFlags c f).iter = t.iter := by unfold Tile.setFlags; split <;> rfl
@[simp] theorem Tile.setFlags_iterLeft (t : Tile) (c : Nat) (f : Flags) : (t.setFlags c f).iterLeft = t.iterLeft := by unfold Tile.setFlags; split <;> rfl
@[simp] theorem Tile.setFlags_draining (t : Tile) (c : Nat) (f : Flags) : (t.setFlags c f).draining = t.draining := by unfold Tile.setFlags; split <;> rfl
@[simp] theorem Tile.setFlags_finalEnd (t : Tile) (c : Nat) (f : Flags) : (t.setFlags c f).finalEnd = t.finalEnd := by unfold Tile.setFlags; split <;> rfl
@[simp] theorem Tile.setFlags_drainedAt (t : Tile) (c : Nat) (f : Flags) : (t.setFlags c f).drainedAt = t.drainedAt := by unfold Tile.setFlags; split <;> rfl
@[simp] theorem Tile.setFlags_ckpts (t : Tile) (c : Nat) (f : Flags) : (t.setFlags c f).ckpts = t.ckpts := by unfold Tile.setFlags; split <;> rfl
@[simp] theorem Tile.setFlags_dbg (t : Tile) (c : Nat) (f : Flags) : (t.setFlags c f).dbg = t.dbg := by unfold Tile.setFlags; split <;> rfl
@[simp] theorem Tile.setFlags_filt (t : Tile) (c : Nat) (f : Flags) : (t.setFlags c f).filt = t.filt := by unfold Tile.setFlags; split <;> rfl
@[simp] theorem Tile.setFlags_ring (t : Tile) (c : Nat) (f : Flags) : (t.setFlags c f).ring = t.ring := by unfold Tile.setFlags; split <;> rfl
@[simp] theorem Tile.setFlags_captureTo (t : Tile) (c : Nat) (f : Flags) : (t.setFlags c f).captureTo = t.captureTo := by unfold Tile.setFlags; split <;> rfl
@[simp] theorem Tile.setFlags_stopReq (t : Tile) (c : Nat) (f : Flags) : (t.setFlags c f).stopReq = t.stopReq := by unfold Tile.setFlags; split <;> rfl
@[simp] theorem Tile.setFlags_stopRec (t : Tile) (c : Nat) (f : Flags) : (t.setFlags c f).stopRec = t.stopRec := by unfold Tile.setFlags; split <;> rfl
@[simp] theorem Tile.setFlags_stopSlot (t : Tile) (c : Nat) (f : Flags) : (t.setFlags c f).stopSlot = t.stopSlot := by unfold Tile.setFlags; split <;> rfl
@[simp] theorem Tile.setFlags_stopAt (t : Tile) (c : Nat) (f : Flags) : (t.setFlags c f).stopAt = t.stopAt := by unfold Tile.setFlags; split <;> rfl
@[simp] theorem Tile.setFlags_loaded (t : Tile) (c : Nat) (f : Flags) : (t.setFlags c f).loaded = t.loaded := by unfold Tile.setFlags; split <;> rfl
@[simp] theorem Tile.setFlags_loadedB (t : Tile) (c : Nat) (f : Flags) : (t.setFlags c f).loadedB = t.loadedB := by unfold Tile.setFlags; split <;> rfl
@[simp] theorem Tile.setFlags_saved (t : Tile) (c : Nat) (f : Flags) : (t.setFlags c f).saved = t.saved := by unfold Tile.setFlags; split <;> rfl
@[simp] theorem Tile.setFlags_lastCtx (t : Tile) (c : Nat) (f : Flags) : (t.setFlags c f).lastCtx = t.lastCtx := by unfold Tile.setFlags; split <;> rfl
@[simp] theorem Tile.setFlags_freeAt (t : Tile) (c : Nat) (f : Flags) : (t.setFlags c f).freeAt = t.freeAt := by unfold Tile.setFlags; split <;> rfl
@[simp] theorem Tile.setFlags_fv (t : Tile) (c : Nat) (f : Flags) : (t.setFlags c f).fv = t.fv := by unfold Tile.setFlags; split <;> rfl
@[simp] theorem Tile.setFlags_out (t : Tile) (c : Nat) (f : Flags) : (t.setFlags c f).out = t.out := by unfold Tile.setFlags; split <;> rfl
@[simp] theorem Tile.sched_acts (t : Tile) (a ph iss slot : Nat) (chk : Bool) (k : ActKind) : (t.sched a ph iss slot chk k).acts = t.acts ++ [⟨a, ph, iss, slot, chk, k⟩] := rfl
@[simp] theorem Tile.setMst_mst (t : Tile) (f : Flags) : (t.setMst f).mst = t.mst ||| f := rfl

/-! The tile list. -/

@[simp] theorem findTile_insert (k : Nat) (t : Tile) (l : List (Nat × Tile)) : findTile k (insertTile k t l) = some t := by
  induction l with
  | nil => simp [insertTile, findTile]
  | cons h r ih =>
    obtain ⟨i, u⟩ := h
    simp only [insertTile]
    split
    · simp [findTile]
    · split
      · simp [findTile]
      · rename_i hne
        simp [findTile, Ne.symm hne, ih]

theorem findTile_insert_ne {k j : Nat} (h : j ≠ k) (t : Tile) (l : List (Nat × Tile)) : findTile j (insertTile k t l) = findTile j l := by
  induction l with
  | nil => simp [insertTile, findTile, Ne.symm h]
  | cons e r ih =>
    obtain ⟨i, u⟩ := e
    simp only [insertTile]
    split
    · simp [findTile, Ne.symm h]
    · split
      · rename_i hk; subst hk; simp [findTile, Ne.symm h]
      · simp only [findTile, ih]

@[simp] theorem State.tile_setTile (s : State) (x y : Nat) (t : Tile) : (s.setTile x y t).tile x y = t := by
  simp [State.tile, State.setTile]

theorem State.tile_setTile_ne {s : State} {x y x' y' : Nat} (h : tileKey x' y' ≠ tileKey x y) (t : Tile) :
    (s.setTile x y t).tile x' y' = s.tile x' y' := by
  simp [State.tile, State.setTile, findTile_insert_ne h]

@[simp] theorem State.curTile_setCur (s : State) (t : Tile) : (s.setCur t).curTile = t := by
  simp [State.curTile, State.setCur]

theorem onlyTile_setCur (s : State) (t : Tile) : OnlyTile s (s.setCur t) :=
  ⟨rfl, fun _ h => findTile_insert_ne h t s.tiles⟩

/-! Answers. -/

theorem gives_next {q : State → Prop} {t : State} (h : q t) : Gives (.next t) q := ⟨t, rfl, h⟩

end Sys2Proof.Machine
end

