-- ==== Sys2Proof/Laws/Events.lean ====
section
/-! SUPPORT. What the shared operations of the module's events do: entering what falls due, notifications, the dispatch decision, messages from Markhor, alignment points, commits. -/

namespace Sys2Proof.Machine

/-! What falls due. -/

@[simp] theorem mem_insertDue {d x : Due} {l : List Due} : x ∈ insertDue d l ↔ x = d ∨ x ∈ l := by
  induction l with
  | nil => simp [insertDue]
  | cons h r ih =>
    simp only [insertDue]
    split
    · simp
    · simp only [List.mem_cons, ih]; exact or_left_comm

theorem KeepsDue.refl (s : State) : KeepsDue s s := fun _ h => h
theorem KeepsDue.trans {s t u : State} (h : KeepsDue s t) (k : KeepsDue t u) : KeepsDue s u := fun d hd => k d (h d hd)
theorem keepsDue_post (s : State) (a p : Nat) (f : FetchItem) : KeepsDue s (s.post a p f) := fun _ h => by simp [State.post, h]
theorem keepsDue_postEv (s : State) (a p r : Nat) (n : List Nat) : KeepsDue s (s.postEv a p r n) := keepsDue_post s a p _
theorem State.owes.mono {s t : State} {a : Nat} {i : Instr} {n : List Nat} (h : s.owes a i n) (k : KeepsDue s t) : t.owes a i n := by
  obtain ⟨d, hd, h⟩ := h; exact ⟨d, k d hd, h⟩
theorem owes_postEv {s : State} {a p r : Nat} {n : List Nat} {i : Instr} (h : (encode i).bits = r) : (s.postEv a p r n).owes a i n :=
  ⟨⟨a, p, eventItem r ⟨n, []⟩⟩, by simp [State.postEv, State.post], rfl, by rw [h]⟩
/-- Entering an event changes the agenda alone. -/
@[simp] theorem postEv_frame (s : State) (a p r : Nat) (n : List Nat) : { s.postEv a p r n with agenda := s.agenda } = s := rfl

/-- Entering events one after another keeps what was due, changes the agenda alone, and owes each of them. -/
theorem foldl_postEv {α : Type} (f : State → α → State) (at_ : State → α → Nat) (ph row : Nat) (args : State → α → List Nat)
    (hf : ∀ s x, f s x = s.postEv (at_ s x) ph row (args s x)) (ha : ∀ (s : State) a p r n x, at_ (s.postEv a p r n) x = at_ s x)
    (hn : ∀ (s : State) a p r n x, args (s.postEv a p r n) x = args s x) (l : List α) (s : State) :
    KeepsDue s (l.foldl f s) ∧ { l.foldl f s with agenda := s.agenda } = s
      ∧ ∀ x ∈ l, ∀ i, (encode i).bits = row → (l.foldl f s).owes (at_ s x) i (args s x) := by
  induction l generalizing s with
  | nil => exact ⟨KeepsDue.refl s, rfl, by simp⟩
  | cons h r ih =>
    simp only [List.foldl_cons, hf]
    obtain ⟨h1, h2, h3⟩ := ih (s.postEv (at_ s h) ph row (args s h))
    refine ⟨(keepsDue_postEv s _ _ _ _).trans h1, ?_, ?_⟩
    · have := congrArg (fun u : State => { u with agenda := s.agenda }) h2
      exact this
    · intro x hx i hi
      rcases List.mem_cons.mp hx with rfl | hx
      · exact (owes_postEv hi).mono h1
      · have := h3 x hx i hi
        rwa [ha, hn] at this

/-- A message from Markhor is due in every field, and nothing else changes (R69). -/
theorem roveMarkhor_spec (s : State) (kind cause : Nat) :
    FromMarkhor s (s.roveMarkhor kind cause) kind cause ∧ { s.roveMarkhor kind cause with agenda := s.agenda } = s := by
  unfold State.roveMarkhor
  obtain ⟨h1, h2, h3⟩ := foldl_postEv (fun s f => postRove s (s.now + 6) f.1 f.2 ⟨s.now, kind, cause, 0xFF, 0xFF⟩)
    (fun s _ => s.now + 6) phModule rowRoving (fun s (f : Nat × Nat) => [f.1, f.2, s.now, kind, cause, 0xFF, 0xFF])
    (fun _ _ => by simp only [postRove]) (fun _ _ _ _ _ _ => rfl) (fun _ _ _ _ _ _ => rfl) (allFields) s
  refine ⟨⟨h1, fun fx hx fy hy => ?_⟩, h2⟩
  have hb : (encode .rovingMessage).bits = rowRoving := by simp only [encode, eventRow, rowRoving]
  have hm : (fx, fy) ∈ allFields := List.mem_map.mpr ⟨fx + 12 * fy, List.mem_range.mpr (by omega), by simp only [Prod.mk.injEq]; omega⟩
  exact h3 (fx, fy) hm .rovingMessage hb

/-- The dispatch unit looks again on the next cycle at the latest, and nothing else changes (R107). -/
theorem wake_spec (s : State) : Wakes s s.wake ∧ { s.wake with agenda := s.agenda } = s := by
  unfold State.wake
  split
  · rename_i h
    simp only [List.any_eq_true, Bool.and_eq_true, decide_eq_true_eq, beq_iff_eq] at h
    obtain ⟨d, hd, ⟨h1, h2⟩, h3⟩ := h
    exact ⟨⟨KeepsDue.refl s, d, hd, h2, h3, h1⟩, rfl⟩
  · exact ⟨⟨keepsDue_postEv _ _ _ _ _, ⟨s.now + 1, phDispatch, eventItem rowDispatch ⟨[], []⟩⟩, by simp [State.postEv, State.post], by simp, by simp, rfl⟩, rfl⟩

/-! Little-endian fields of byte lists. -/

@[simp] theorem length_leBytes (n v : Nat) : (leBytes n v).length = n := by
  induction n generalizing v with
  | zero => rfl
  | succ n ih => simp [leBytes, ih]
theorem leNat_leBytes (n v : Nat) : leNat (leBytes n v) = v % 256 ^ n := by
  induction n generalizing v with
  | zero => simp [leBytes, leNat, Nat.mod_one]
  | succ n ih =>
    have e : 256 ^ (n + 1) = 256 * 256 ^ n := by rw [Nat.pow_succ, Nat.mul_comm]
    rw [leBytes, leNat, ih, e, Nat.mod_mul, BitVec.toNat_ofNat]
/-- The first field of a list. -/
theorem leAt_head (n v : Nat) (r : List Byte) : leAt (leBytes n v ++ r) 0 n = v % 256 ^ n := by
  simp [leAt, slice, leNat_leBytes]
/-- A field behind the first. -/
theorem leAt_skip (n v k m : Nat) (r : List Byte) : leAt (leBytes n v ++ r) (n + k) m = leAt r k m := by
  rw [leAt, leAt, slice, slice, List.drop_append, List.drop_eq_nil_of_le (by simp), List.nil_append, length_leBytes, Nat.add_sub_cancel_left]

/-! Notifications. -/

@[simp] theorem mem_insertNote {n x : Note} {l : List Note} : x ∈ insertNote n l ↔ x = n ∨ x ∈ l := by
  induction l with
  | nil => simp [insertNote]
  | cons h r ih =>
    simp only [insertNote]
    split
    · simp
    · simp only [List.mem_cons, ih]; exact or_left_comm

/-- The bytes of a notification are its header and its body (R110). -/
theorem notify_says (s : State) (r : Report) (body : List Byte) (dests : List Nat) :
    Note.says { event := s.now, ctx := r.ctx, queue := r.queue, dests := dests, bytes := leBytes 1 r.kind ++ leBytes 1 r.ctx ++ leBytes 1 r.queue ++ leBytes 1 r.status ++ leBytes 1 r.cause ++ leBytes 3 0
      ++ leBytes 4 (48 + body.length) ++ leBytes 4 0 ++ leBytes 8 r.tag ++ leBytes 8 s.now ++ leBytes 8 r.w0 ++ leBytes 8 r.w1 ++ body } r body := by
  simp only [List.append_assoc]
  refine ⟨rfl, rfl, by simp; omega, ?_, leAt_head 1 _ _, ?_, ?_, ?_, ?_, ?_, ?_, ?_, ?_, ?_, ?_, ?_⟩
  · simp [leBytes]
  · rw [show (1 : Nat) = 1 + 0 from rfl, leAt_skip]; exact leAt_head 1 _ _
  · rw [show (2 : Nat) = 1 + (1 + 0) from rfl, leAt_skip, leAt_skip]; exact leAt_head 1 _ _
  · rw [show (3 : Nat) = 1 + (1 + (1 + 0)) from rfl, leAt_skip, leAt_skip, leAt_skip]; exact leAt_head 1 _ _
  · rw [show (4 : Nat) = 1 + (1 + (1 + (1 + 0))) from rfl, leAt_skip, leAt_skip, leAt_skip, leAt_skip]; exact leAt_head 1 _ _
  · rw [show (5 : Nat) = 1 + (1 + (1 + (1 + (1 + 0)))) from rfl, leAt_skip, leAt_skip, leAt_skip, leAt_skip, leAt_skip]; exact leAt_head 3 _ _
  · rw [show (8 : Nat) = 1 + (1 + (1 + (1 + (1 + (3 + 0))))) from rfl, leAt_skip, leAt_skip, leAt_skip, leAt_skip, leAt_skip, leAt_skip]; exact leAt_head 4 _ _
  · rw [show (12 : Nat) = 1 + (1 + (1 + (1 + (1 + (3 + (4 + 0)))))) from rfl, leAt_skip, leAt_skip, leAt_skip, leAt_skip, leAt_skip, leAt_skip, leAt_skip]; exact leAt_head 4 _ _
  · rw [show (16 : Nat) = 1 + (1 + (1 + (1 + (1 + (3 + (4 + (4 + 0))))))) from rfl]; simp only [leAt_skip]; exact leAt_head 8 _ _
  · rw [show (24 : Nat) = 1 + (1 + (1 + (1 + (1 + (3 + (4 + (4 + (8 + 0)))))))) from rfl]; simp only [leAt_skip]; exact leAt_head 8 _ _
  · rw [show (32 : Nat) = 1 + (1 + (1 + (1 + (1 + (3 + (4 + (4 + (8 + (8 + 0))))))))) from rfl]; simp only [leAt_skip]; exact leAt_head 8 _ _
  · rw [show (40 : Nat) = 1 + (1 + (1 + (1 + (1 + (3 + (4 + (4 + (8 + (8 + (8 + 0)))))))))) from rfl]; simp only [leAt_skip]; exact leAt_head 8 _ _

/-- The sessions that a notification goes to (R112, R126). -/
theorem mem_recipients (s : State) (owner : Option Nat) (ctx kind sid : Nat) : sid ∈ s.recipients owner ctx kind ↔ s.hears owner ctx kind sid := by
  have sub : ∀ x, (x ∈ (s.sessions.filter fun e => e.subs.any fun u => u.1 == ctx && bitAt u.2 (kind - 0x81)).map (·.sid)) ↔
      ∃ e ∈ s.sessions, e.sid = x ∧ ∃ u ∈ e.subs, u.1 = ctx ∧ u.2 / 2 ^ (kind - 0x81) % 2 = 1 := by
    intro x
    simp only [List.mem_map, List.mem_filter, List.any_eq_true, Bool.and_eq_true, beq_iff_eq, bitAt]
    constructor
    · rintro ⟨e, ⟨he, u, hu, h⟩, rfl⟩; exact ⟨e, he, rfl, u, hu, h⟩
    · rintro ⟨e, he, rfl, u, hu, h⟩; exact ⟨e, ⟨he, u, hu, h⟩, rfl⟩
  unfold State.recipients State.hears State.lostCtx
  simp only [Option.isNone_iff_eq_none]
  split
  · rename_i h; simp [h]
  rename_i h
  simp only [h, not_false_eq_true, true_and]
  cases owner with
  | none => simp only [sub, reduceCtorEq, false_or]
  | some o =>
    simp only [List.mem_cons, List.mem_filter, sub, bne_iff_ne, Option.some.injEq]
    constructor
    · rintro (rfl | ⟨h, -⟩)
      · exact .inl rfl
      · exact .inr h
    · rintro (rfl | h)
      · exact .inl rfl
      · by_cases hs : sid = o
        · exact .inl hs
        · exact .inr ⟨h, hs⟩

/-- One notification joins those of the cycle, and nothing else changes. -/
theorem notify_spec (s : State) (r : Report) (owner : Option Nat) (body : List Byte) :
    Notifies s (s.notify r.kind r.ctx r.queue r.status r.cause r.tag r.w0 r.w1 body owner) r owner body
      ∧ { s.notify r.kind r.ctx r.queue r.status r.cause r.tag r.w0 r.w1 body owner with outbox := s.outbox } = s :=
  ⟨⟨_, fun _ => by simp only [State.notify, mem_insertNote]; exact Iff.rfl, rfl, fun sid => mem_recipients s owner r.ctx r.kind sid, notify_says s r body _⟩, rfl⟩

/-- A MODULE_EVENT goes out, and nothing else changes (R110). -/
theorem moduleEvent_spec (s : State) (ev : Nat) : EventOut s (s.moduleEvent ev) ev ∧ { s.moduleEvent ev with outbox := s.outbox } = s :=
  notify_spec s ⟨0x85, 0xFF, 0, 0, 0, 0, s.now, 0⟩ none _

/-! Alignment points, and the engines' decisions and commits. -/

/-- The exchanges of a tile and its neighbours are entered, and nothing else changes (R49). -/
theorem postPoints_spec (s : State) (x y : Nat) : KeepsDue s (s.postPoints x y) ∧ { s.postPoints x y with agenda := s.agenda } = s := by
  unfold State.postPoints
  generalize (x, y) :: _ = ts
  suffices h : ∀ u : State, KeepsDue s u → { u with agenda := s.agenda } = s → let v := ts.foldl _ u; KeepsDue s v ∧ { v with agenda := s.agenda } = s from h s (KeepsDue.refl s) rfl
  induction ts with
  | nil => exact fun _ h k => ⟨h, k⟩
  | cons p r ih =>
    intro u h k
    refine ih _ ?_ ?_
    · dsimp only; split
      · exact h
      · exact h.trans (keepsDue_post _ _ _ _)
    · dsimp only; split
      · exact k
      · exact k
/-- A write of DRAM changes the memory, and which accesses in progress it is seen by (R236). -/
theorem writeDram_frame (s : State) (pa : Nat) (bs : List Byte) : { s.writeDram pa bs with dram := s.dram, jobs := s.jobs, reads := s.reads, fv := s.fv } = s := by
  unfold State.writeDram
  dsimp only
  split <;> split <;> rfl
/-- The end of commits changes DRAM and what is in progress on it, and nothing else (R88). -/
theorem performCommits_frame (s : State) (id b : Nat) : { s.performCommits id b with commits := s.commits, dram := s.dram, jobs := s.jobs, reads := s.reads, fv := s.fv } = s := by
  unfold State.performCommits
  dsimp only
  have one (l : List (Nat × BitVec 512)) (u : State) : { l.foldl (fun s f => s.writeDram f.1 (leBytes 64 f.2.toNat)) u with dram := u.dram, jobs := u.jobs, reads := u.reads, fv := u.fv } = u := by
    induction l generalizing u with
    | nil => rfl
    | cons f r ih =>
      have h := congrArg (fun v : State => { v with dram := u.dram, jobs := u.jobs, reads := u.reads, fv := u.fv }) (ih (u.writeDram f.1 (leBytes 64 f.2.toNat)))
      exact h.trans (writeDram_frame u _ _)
  have all (l : List CommitJob) (u : State) : { l.foldl (fun s j => j.pend.foldl (fun s f => s.writeDram f.1 (leBytes 64 f.2.toNat)) s) u with dram := u.dram, jobs := u.jobs, reads := u.reads, fv := u.fv } = u := by
    induction l generalizing u with
    | nil => rfl
    | cons j r ih =>
      have h := congrArg (fun v : State => { v with dram := u.dram, jobs := u.jobs, reads := u.reads, fv := u.fv }) (ih (j.pend.foldl (fun s f => s.writeDram f.1 (leBytes 64 f.2.toNat)) u))
      exact h.trans (one j.pend u)
  have h := congrArg (fun v : State => { v with commits := s.commits }) (all (s.commits.filter fun j => j.launch == id && decide (j.bound ≤ b)) { s with commits := s.commits.filter fun j => !(j.launch == id && decide (j.bound ≤ b)) })
  exact h
/-- The last decision on an ended launch leaves every engine's bank as it is, and nothing else changes but its taints (R88). -/
theorem settleGone_spec (s : State) (id : Nat) :
    { s.settleGone id with gone := s.gone, engines := s.engines } = s ∧ ∀ k : Nat, ((s.settleGone id).engines[k]?).map (·.bank) = (s.engines[k]?).map (·.bank) := by
  unfold State.settleGone
  split
  · refine ⟨rfl, fun k => ?_⟩
    simp only [List.getElem?_map, Option.map_map, Function.comp_def]
  · exact ⟨rfl, fun _ => rfl⟩

/-! The alignment exchange (R49, R53). -/

/-- A crossing's retiming stage makes up what its wire lacks, so that a transfer takes its rule's cycles (R13, R21). -/
@[simp] theorem retimed_eq (s : State) (x0 y0 x1 y1 n : Nat) : s.retimed x0 y0 x1 y1 n = n := by
  simp only [State.retimed, State.wireTime]; omega
/-- A sample on its way changes the agenda alone, and is owed where the neighbour is present (R49). -/
theorem sendSample_spec (s : State) (x y d a : Nat) :
    KeepsDue s (s.sendSample x y d a) ∧ { s.sendSample x y d a with agenda := s.agenda } = s
      ∧ ∀ n, s.present x y d = some n →
          (s.sendSample x y d a).owes (s.now + sampleLat x y n.1 n.2) .alignmentSample [n.1, n.2, opposite d, (a + sampleLat x y n.1 n.2) % 2 ^ 64] := by
  unfold State.sendSample
  split
  · rename_i n hn
    refine ⟨keepsDue_postEv _ _ _ _ _, rfl, fun m hm => ?_⟩
    obtain rfl : n = m := Option.some.inj (hn.symm.trans hm)
    dsimp only
    rw [retimed_eq]
    exact owes_postEv (by simp only [encode, eventRow, rowAlignSample])
  · rename_i hn
    exact ⟨KeepsDue.refl s, rfl, fun m hm => absurd (hn.symm.trans hm) (by simp)⟩
/-- An alignment point takes up a change of n, and no more (R31). -/
theorem takeClock_frame (s : State) : { s.takeClock with nNext := s.nNext, nDue := s.nDue } = s := by
  unfold State.takeClock
  split
  · split <;> rfl
  · rfl
/-- The change of n that was taken up takes effect and is reported, and no more (R53). -/
theorem changeClock_frame (s : State) : { s.changeClock with n := s.n, nAt := s.nAt, nDue := s.nDue, outbox := s.outbox } = s ∧ s.changeClock.nDue = none := by
  unfold State.changeClock
  split
  · exact ⟨rfl, rfl⟩
  · exact ⟨rfl, ‹_›⟩
/-- An early sample changes what the tile holds of its neighbours' deltas alone (R49). -/
theorem keepEarly_frame (t : Tile) (c side : Nat) (k : Int) : { t.keepEarly c side k with earlyDeltas := t.earlyDeltas } = t := by
  unfold Tile.keepEarly; dsimp only; split <;> rfl

end Sys2Proof.Machine
end

