-- ==== Sys2Proof/Laws/Mem.lean ====
section
/-! SUPPORT. Byte memories: every operation keeps the canonical form, what each read finds after each write, and equal reads make equal memories. -/

namespace Sys2Proof.Machine

/-! The canonical form. -/

theorem Mem.risingFrom_mono {lo hi : Nat} {m : Mem} (h : lo ≤ hi) (hm : m.risingFrom hi = true) : m.risingFrom lo = true := by
  cases m with
  | nil => rfl
  | cons c r =>
    simp only [Mem.risingFrom, Bool.and_eq_true, decide_eq_true_eq] at hm ⊢
    exact ⟨⟨Nat.le_trans h hm.1.1, hm.1.2⟩, hm.2⟩
theorem Mem.risingFrom_filter {lo : Nat} {m : Mem} (p : Host.Cell → Bool) (h : m.risingFrom lo = true) : Mem.risingFrom lo (m.filter p) = true := by
  induction m generalizing lo with
  | nil => rfl
  | cons c r ih =>
    simp only [Mem.risingFrom, Bool.and_eq_true, decide_eq_true_eq] at h
    rw [List.filter_cons]
    split
    · simp only [Mem.risingFrom, Bool.and_eq_true, decide_eq_true_eq]; exact ⟨h.1, ih h.2⟩
    · exact ih (Mem.risingFrom_mono (by omega) h.2)
/-- Two rising lists join when the first lies below the second. -/
theorem Mem.risingFrom_append {lo mid : Nat} {a b : Mem} (ha : a.risingFrom lo = true) (hlt : ∀ c ∈ a, c.1 < mid) (hb : b.risingFrom mid = true)
    (h : lo ≤ mid) : Mem.risingFrom lo (a ++ b) = true := by
  induction a generalizing lo with
  | nil => exact Mem.risingFrom_mono h hb
  | cons c r ih =>
    simp only [Mem.risingFrom, List.cons_append, Bool.and_eq_true, decide_eq_true_eq] at ha ⊢
    exact ⟨ha.1, ih ha.2 (fun d hd => hlt d (List.mem_cons_of_mem _ hd)) (hlt c (List.mem_cons_self))⟩
theorem cellsOf_rising (a : Nat) (bs : List Byte) : Mem.risingFrom a (cellsOf a bs) = true := by
  induction bs generalizing a with
  | nil => rfl
  | cons b r ih =>
    rw [cellsOf]
    split
    · exact Mem.risingFrom_mono (Nat.le_succ a) (ih _)
    · rename_i h
      simp only [Mem.risingFrom, Bool.and_eq_true, decide_eq_true_eq, bne_iff_ne]; exact ⟨⟨Nat.le_refl a, h⟩, ih _⟩
theorem cellsOf_lt {a : Nat} {bs : List Byte} {c : Host.Cell} (h : c ∈ cellsOf a bs) : a ≤ c.1 ∧ c.1 < a + bs.length := by
  induction bs generalizing a with
  | nil => simp [cellsOf] at h
  | cons b r ih =>
    rw [cellsOf] at h
    split at h
    · have := ih h; simp only [List.length_cons]; omega
    · rcases List.mem_cons.mp h with rfl | h
      · simp
      · have := ih h; simp only [List.length_cons]; omega
/-- Cells at or above an address rise from it. -/
theorem Mem.risingFrom_above {m : Mem} (a : Nat) (h : m.wf = true) : Mem.risingFrom a (m.above a) = true := by
  have key : ∀ (l : Mem) (lo : Nat), l.risingFrom lo = true → Mem.risingFrom a (l.above a) = true := by
    intro l
    induction l with
    | nil => intro _ _; rfl
    | cons c r ih =>
      intro lo h
      simp only [Mem.risingFrom, Bool.and_eq_true, decide_eq_true_eq] at h
      by_cases hc : a ≤ c.1
      · have e : Mem.above (c :: r) a = c :: Mem.above r a := by simp [Mem.above, hc]
        rw [e]; simp only [Mem.risingFrom, Bool.and_eq_true, decide_eq_true_eq]
        exact ⟨⟨hc, h.1.2⟩, Mem.risingFrom_filter _ h.2⟩
      · have e : Mem.above (c :: r) a = Mem.above r a := by simp [Mem.above, hc]
        rw [e]; exact ih _ h.2
  exact key m 0 h
theorem Mem.below_lt {m : Mem} {a : Nat} {c : Host.Cell} (h : c ∈ m.below a) : c.1 < a := by
  simpa using (List.mem_filter.mp h).2
@[simp] theorem Mem.wf_nil : Mem.wf [] = true := rfl
/-- A write keeps the canonical form. -/
theorem Mem.wf_write {m : Mem} (a : Nat) (bs : List Byte) (h : m.wf = true) : (m.write a bs).wf = true := by
  rw [Mem.write, List.append_assoc]
  refine Mem.risingFrom_append (mid := a) (Mem.risingFrom_filter _ h) (fun c hc => Mem.below_lt hc) ?_ (Nat.zero_le a)
  exact Mem.risingFrom_append (mid := a + bs.length) (cellsOf_rising a bs) (fun c hc => (cellsOf_lt hc).2) (Mem.risingFrom_above _ h) (Nat.le_add_right _ _)
/-- Clearing keeps the canonical form. -/
theorem Mem.wf_clear {m : Mem} (a n : Nat) (h : m.wf = true) : (m.clear a n).wf = true :=
  Mem.risingFrom_append (mid := a + n) (Mem.risingFrom_filter _ h) (fun _ hc => Nat.lt_of_lt_of_le (Mem.below_lt hc) (Nat.le_add_right _ _)) (Mem.risingFrom_above _ h) (Nat.zero_le _)
/-- Writing a number keeps the canonical form. -/
theorem Mem.wf_put {m : Mem} (a n v : Nat) (h : m.wf = true) : (m.put a n v).wf = true := Mem.wf_write a _ h
/-- A memory written from nothing is canonical. -/
theorem Mem.wf_write_nil (a : Nat) (bs : List Byte) : (Mem.write [] a bs).wf = true := Mem.wf_write a bs rfl
/-- Writing in turn keeps the canonical form. -/
theorem Mem.wf_foldl_write {α : Type} (at_ : α → Nat) (bs : α → List Byte) (l : List α) {m : Mem} (h : m.wf = true) :
    (l.foldl (fun m x => m.write (at_ x) (bs x)) m).wf = true := by
  induction l generalizing m with
  | nil => exact h
  | cons x r ih => exact ih (Mem.wf_write _ _ h)

/-! Reading one byte. -/

@[simp] theorem Mem.get_nil (x : Nat) : Mem.get [] x = 0 := rfl
theorem Mem.get_eq_zero {m : Mem} {x : Nat} (h : ∀ c ∈ m, c.1 ≠ x) : m.get x = 0 := by
  induction m with
  | nil => rfl
  | cons c r ih =>
    rw [Mem.get, if_neg (h c List.mem_cons_self)]; exact ih fun d hd => h d (List.mem_cons_of_mem _ hd)
theorem Mem.get_append_left {a b : Mem} {x : Nat} (h : ∀ c ∈ a, c.1 ≠ x) : Mem.get (a ++ b) x = b.get x := by
  induction a with
  | nil => rfl
  | cons c r ih =>
    rw [List.cons_append, Mem.get, if_neg (h c List.mem_cons_self)]; exact ih fun d hd => h d (List.mem_cons_of_mem _ hd)
theorem Mem.get_append_right {a b : Mem} {x : Nat} (h : ∀ c ∈ b, c.1 ≠ x) : Mem.get (a ++ b) x = a.get x := by
  induction a with
  | nil => exact Mem.get_eq_zero h
  | cons c r ih => rw [List.cons_append, Mem.get, Mem.get, ih]
theorem Mem.get_filter {m : Mem} {x : Nat} {p : Nat → Bool} (h : p x = true) : Mem.get (m.filter fun c => p c.1) x = m.get x := by
  induction m with
  | nil => rfl
  | cons c r ih =>
    rw [List.filter_cons]
    by_cases hc : c.1 = x
    · subst hc; simp [h, Mem.get]
    · split
      · simp only [Mem.get, if_neg hc]; exact ih
      · rw [Mem.get, if_neg hc]; exact ih
theorem get_cellsOf (a : Nat) (bs : List Byte) (x : Nat) : Mem.get (cellsOf a bs) x = if a ≤ x ∧ x < a + bs.length then bs.getD (x - a) 0 else 0 := by
  induction bs generalizing a with
  | nil => rw [if_neg (by simp only [List.length_nil]; omega)]; rfl
  | cons b r ih =>
    have step : Mem.get (cellsOf a (b :: r)) x = if a = x then b else Mem.get (cellsOf (a + 1) r) x := by
      rw [cellsOf]
      split
      · split
        · rename_i h hx
          rw [Mem.get_eq_zero fun c hc => by have := (cellsOf_lt hc).1; omega]; exact h.symm
        · rfl
      · rfl
    rw [step, ih]
    by_cases hx : a = x
    · subst hx; simp
    · by_cases h2 : a + 1 ≤ x ∧ x < a + 1 + r.length
      · have e : x - a = (x - (a + 1)) + 1 := by omega
        rw [if_neg hx, if_pos h2, if_pos (by simp only [List.length_cons]; omega), e, List.getD_cons_succ]
      · rw [if_neg hx, if_neg h2, if_neg (by simp only [List.length_cons]; omega)]
/-- A read after a write: the bytes written, and every other byte as before. -/
theorem Mem.get_write (m : Mem) (a : Nat) (bs : List Byte) (x : Nat) :
    (m.write a bs).get x = if a ≤ x ∧ x < a + bs.length then bs.getD (x - a) 0 else m.get x := by
  rw [Mem.write]
  by_cases hb : x < a
  · rw [if_neg (by omega), List.append_assoc, Mem.get_append_right, Mem.below, Mem.get_filter (p := fun k => decide (k < a)) (by simpa using hb)]
    intro c hc
    rcases List.mem_append.mp hc with h | h
    · have := (cellsOf_lt h).1; omega
    · have : a + bs.length ≤ c.1 := by simpa using (List.mem_filter.mp h).2
      omega
  · by_cases hc : x < a + bs.length
    · rw [if_pos ⟨by omega, hc⟩, List.append_assoc, Mem.get_append_left (fun c h => by have := Mem.below_lt h; omega),
        Mem.get_append_right, get_cellsOf, if_pos ⟨by omega, hc⟩]
      intro c h
      have : a + bs.length ≤ c.1 := by simpa using (List.mem_filter.mp h).2
      omega
    · rw [if_neg (by omega), Mem.get_append_left, Mem.above, Mem.get_filter (p := fun k => decide (a + bs.length ≤ k)) (by simp; omega)]
      intro c h
      rcases List.mem_append.mp h with h | h
      · have := Mem.below_lt h; omega
      · have := (cellsOf_lt h).2; omega
/-- A cleared range reads as zero, and every other byte as before. -/
theorem Mem.get_clear (m : Mem) (a n x : Nat) : (m.clear a n).get x = if a ≤ x ∧ x < a + n then 0 else m.get x := by
  rw [Mem.clear]
  by_cases hb : x < a
  · rw [if_neg (by omega), Mem.get_append_right, Mem.below, Mem.get_filter (p := fun k => decide (k < a)) (by simpa using hb)]
    intro c h
    have : a + n ≤ c.1 := by simpa using (List.mem_filter.mp h).2
    omega
  · rw [Mem.get_append_left fun c h => by have := Mem.below_lt h; omega]
    by_cases hc : x < a + n
    · rw [if_pos ⟨by omega, hc⟩]
      exact Mem.get_eq_zero fun c h => by
        have : a + n ≤ c.1 := by simpa using (List.mem_filter.mp h).2
        omega
    · rw [if_neg (by omega), Mem.above, Mem.get_filter (p := fun k => decide (a + n ≤ k)) (by simp; omega)]

/-! Equal reads, equal memories. -/

theorem Mem.get_of_rising {lo x : Nat} {m : Mem} (h : m.risingFrom lo = true) (hx : x < lo) : m.get x = 0 := by
  induction m generalizing lo with
  | nil => rfl
  | cons c r ih =>
    simp only [Mem.risingFrom, Bool.and_eq_true, decide_eq_true_eq] at h
    rw [Mem.get, if_neg (by omega)]; exact ih h.2 (by omega)
/-- Two canonical memories that read alike are the same list. -/
theorem Mem.ext_get {a b : Mem} (ha : a.wf = true) (hb : b.wf = true) (h : ∀ x, a.get x = b.get x) : a = b := by
  have key : ∀ (a b : Mem) (lo : Nat), a.risingFrom lo = true → b.risingFrom lo = true → (∀ x, a.get x = b.get x) → a = b := by
    intro a
    induction a with
    | nil =>
      intro b lo _ hb h
      cases b with
      | nil => rfl
      | cons c r =>
        simp only [Mem.risingFrom, Bool.and_eq_true, decide_eq_true_eq, bne_iff_ne] at hb
        have := h c.1; simp only [Mem.get, if_true] at this; exact absurd this.symm hb.1.2
    | cons c r ih =>
      intro b lo ha hb h
      cases b with
      | nil =>
        simp only [Mem.risingFrom, Bool.and_eq_true, decide_eq_true_eq, bne_iff_ne] at ha
        have := h c.1; simp only [Mem.get, if_true] at this; exact absurd this ha.1.2
      | cons d q =>
        simp only [Mem.risingFrom, Bool.and_eq_true, decide_eq_true_eq, bne_iff_ne] at ha hb
        have hk : c.1 = d.1 := by
          rcases Nat.lt_trichotomy c.1 d.1 with hlt | he | hgt
          · have := h c.1
            rw [Mem.get, if_pos rfl, Mem.get, if_neg (by omega), Mem.get_of_rising hb.2 (by omega)] at this
            exact absurd this ha.1.2
          · exact he
          · have := h d.1
            rw [Mem.get, if_neg (by omega), Mem.get_of_rising ha.2 (by omega), Mem.get, if_pos rfl] at this
            exact absurd this.symm hb.1.2
        have hv : c.2 = d.2 := by
          have := h c.1
          rwa [Mem.get, if_pos rfl, Mem.get, if_pos hk.symm] at this
        have hcd : c = d := Prod.ext hk hv
        subst hcd
        rw [ih q (c.1 + 1) ha.2 hb.2]
        intro x
        by_cases hx : x ≤ c.1
        · rw [Mem.get_of_rising ha.2 (by omega), Mem.get_of_rising hb.2 (by omega)]
        · have := h x; rwa [Mem.get, if_neg (by omega), Mem.get, if_neg (by omega)] at this
  exact key a b 0 ha hb h

/-! Runs of bytes. -/

theorem Mem.take_get {m : Mem} {lo a : Nat} (n : Nat) (h : m.risingFrom lo = true) (hl : a ≤ lo) : Mem.take n a m = (List.range n).map fun k => m.get (a + k) := by
  induction n generalizing a lo m with
  | zero => rfl
  | succ n ih =>
    rw [List.range_succ_eq_map, List.map_cons, List.map_map]
    cases m with
    | nil => rw [Mem.take, ih (lo := a + 1) rfl (Nat.le_refl _)]; rfl
    | cons c r =>
      have h' := h
      simp only [Mem.risingFrom, Bool.and_eq_true, decide_eq_true_eq] at h
      rw [Mem.take]
      split
      · rename_i hk
        rw [ih h.2 (by omega)]
        simp only [Mem.get, Nat.add_zero, if_pos hk, List.cons.injEq, true_and]
        apply List.map_congr_left; intro k _
        simp only [Function.comp]; rw [if_neg (by omega), show a + 1 + k = a + (k + 1) by omega]
      · rename_i hk
        rw [ih (lo := a + 1) (by simp only [Mem.risingFrom, Bool.and_eq_true, decide_eq_true_eq]; exact ⟨⟨by omega, h.1.2⟩, h.2⟩) (Nat.le_refl _)]
        simp only [List.cons.injEq]
        refine ⟨?_, ?_⟩
        · rw [Nat.add_zero, Mem.get_of_rising (lo := a + 1) (m := c :: r) (by simp only [Mem.risingFrom, Bool.and_eq_true, decide_eq_true_eq]; exact ⟨⟨by omega, h.1.2⟩, h.2⟩) (by omega)]; rfl
        · apply List.map_congr_left; intro k _
          simp only [Function.comp]; rw [show a + 1 + k = a + (k + 1) by omega]
theorem Mem.from_rising {m : Mem} (a : Nat) {lo : Nat} (h : m.risingFrom lo = true) : Mem.risingFrom (max a lo) (m.from a) = true := by
  induction m generalizing lo with
  | nil => rfl
  | cons c r ih =>
    have h' := h
    simp only [Mem.risingFrom, Bool.and_eq_true, decide_eq_true_eq] at h
    rw [Mem.from]
    split
    · exact Mem.risingFrom_mono (by omega) (ih h.2)
    · simp only [Mem.risingFrom, Bool.and_eq_true, decide_eq_true_eq]; exact ⟨⟨by omega, h.1.2⟩, h.2⟩
theorem Mem.get_from {m : Mem} {a x : Nat} (h : a ≤ x) : Mem.get (m.from a) x = m.get x := by
  induction m with
  | nil => rfl
  | cons c r ih =>
    rw [Mem.from]
    split
    · rw [ih, Mem.get, if_neg (by omega)]
    · rfl
/-- The bytes of a run, read one by one. -/
theorem Mem.bytes_eq {m : Mem} (a n : Nat) (h : m.wf = true) : m.bytes a n = (List.range n).map fun k => m.get (a + k) := by
  rw [Mem.bytes, Mem.take_get n (Mem.from_rising a h) (Nat.le_max_left _ _)]
  apply List.map_congr_left; intro k _
  exact Mem.get_from (Nat.le_add_right _ _)
@[simp] theorem Mem.length_bytes (m : Mem) (a n : Nat) : (m.bytes a n).length = n := by
  have key : ∀ (n a : Nat) (m : Mem), (Mem.take n a m).length = n := by
    intro n
    induction n with
    | zero => intro _ _; rfl
    | succ n ih =>
      intro a m
      cases m with
      | nil => rw [Mem.take, List.length_cons, ih]
      | cons c r => rw [Mem.take]; split <;> rw [List.length_cons, ih]
  exact key _ _ _

end Sys2Proof.Machine
end

