-- ==== Sys2Proof/Laws/PerInstr.lean ====
section
/-! SUPPORT. Family RoundTrip: the decoder reads every well-formed instruction back from the encoder's words, one lemma for each constructor. -/

open Sys2Proof

/-- The decoder reads a well-formed instruction back from its words. -/
def Sys2Proof.Laws.RoundTrip.Statement (i : Instr) : Prop := WellFormed i → decodeItem (encode i) = .instr i

namespace Sys2Proof.Laws.RoundTrip

theorem event {row : Nat} {i : Instr} (h : WellFormed i) (hr : eventOf (row % 2 ^ 16) = some i) : decodeItem (eventRow row) = .instr i := by
  show decodeEvent row = _
  unfold decodeEvent; rw [hr]; exact check_ok rfl h

theorem powerOnReset : Statement .powerOnReset := fun h => event h rfl
theorem builtInTestComplete : Statement .builtInTestComplete := fun h => event h rfl
theorem firmwareInstall : Statement .firmwareInstall := fun h => event h rfl
theorem mapInstall : Statement .mapInstall := fun h => event h rfl
theorem fullWaferSelfTest : Statement .fullWaferSelfTest := fun h => event h rfl
theorem fullWaferSelfTestComplete : Statement .fullWaferSelfTestComplete := fun h => event h rfl
theorem allowListInstall : Statement .allowListInstall := fun h => event h rfl
theorem portAddressConfig : Statement .portAddressConfig := fun h => event h rfl
theorem clockGroupConfig : Statement .clockGroupConfig := fun h => event h rfl
theorem debugControlWrite : Statement .debugControlWrite := fun h => event h rfl
theorem clockLower : Statement .clockLower := fun h => event h rfl
theorem clockRaise : Statement .clockRaise := fun h => event h rfl
theorem thermalEmergency : Statement .thermalEmergency := fun h => event h rfl
theorem thermalRecovery : Statement .thermalRecovery := fun h => event h rfl
theorem arpRequest : Statement .arpRequest := fun h => event h rfl
theorem neighborDiscovery : Statement .neighborDiscovery := fun h => event h rfl
theorem icmpEcho : Statement .icmpEcho := fun h => event h rfl
theorem openS : Statement .openS := fun h => event h rfl
theorem data : Statement .data := fun h => event h rfl
theorem ack : Statement .ack := fun h => event h rfl
theorem probe : Statement .probe := fun h => event h rfl
theorem close : Statement .close := fun h => event h rfl
theorem ackTimerExpiry : Statement .ackTimerExpiry := fun h => event h rfl
theorem retransmitTimerExpiry : Statement .retransmitTimerExpiry := fun h => event h rfl
theorem sessionIdleTimeout : Statement .sessionIdleTimeout := fun h => event h rfl
theorem openContext : Statement .openContext := fun h => event h rfl
theorem closeContext : Statement .closeContext := fun h => event h rfl
theorem loadImage : Statement .loadImage := fun h => event h rfl
theorem imageLoadComplete : Statement .imageLoadComplete := fun h => event h rfl
theorem writeDram : Statement .writeDram := fun h => event h rfl
theorem readDram : Statement .readDram := fun h => event h rfl
theorem hostDramAccessComplete : Statement .hostDramAccessComplete := fun h => event h rfl
theorem launch : Statement .launch := fun h => event h rfl
theorem graphDefine : Statement .graphDefine := fun h => event h rfl
theorem graphRun : Statement .graphRun := fun h => event h rfl
theorem graphPatch : Statement .graphPatch := fun h => event h rfl
theorem cancel : Statement .cancel := fun h => event h rfl
theorem setDeterminism : Statement .setDeterminism := fun h => event h rfl
theorem preempt : Statement .preempt := fun h => event h rfl
theorem query : Statement .query := fun h => event h rfl
theorem attest : Statement .attest := fun h => event h rfl
theorem subscribe : Statement .subscribe := fun h => event h rfl
theorem dispatch : Statement .dispatch := fun h => event h rfl
theorem scriptLoadAndPin : Statement .scriptLoadAndPin := fun h => event h rfl
theorem configLoadComplete : Statement .configLoadComplete := fun h => event h rfl
theorem tstartFix : Statement .tstartFix := fun h => event h rfl
theorem planeSwap : Statement .planeSwap := fun h => event h rfl
theorem launchStart : Statement .launchStart := fun h => event h rfl
theorem iterationStart : Statement .iterationStart := fun h => event h rfl
theorem drainPoint : Statement .drainPoint := fun h => event h rfl
theorem launchRetire : Statement .launchRetire := fun h => event h rfl
theorem switchEntryAdvance : Statement .switchEntryAdvance := fun h => event h rfl
theorem flitArrival : Statement .flitArrival := fun h => event h rfl
theorem landingWindowExpiry : Statement .landingWindowExpiry := fun h => event h rfl
theorem alignmentPoint : Statement .alignmentPoint := fun h => event h rfl
theorem alignmentSample : Statement .alignmentSample := fun h => event h rfl
theorem alignmentCompare : Statement .alignmentCompare := fun h => event h rfl
theorem distaffUpstreamPayload : Statement .distaffUpstreamPayload := fun h => event h rfl
theorem distaffDownstreamPayload : Statement .distaffDownstreamPayload := fun h => event h rfl
theorem distaffBroadcastPayload : Statement .distaffBroadcastPayload := fun h => event h rfl
theorem barrierRelease : Statement .barrierRelease := fun h => event h rfl
theorem stepSkew : Statement .stepSkew := fun h => event h rfl
theorem rovingMessage : Statement .rovingMessage := fun h => event h rfl
theorem hardwareError : Statement .hardwareError := fun h => event h rfl
theorem launchStop : Statement .launchStop := fun h => event h rfl
theorem checkpoint : Statement .checkpoint := fun h => event h rfl
theorem checkpointConfirm : Statement .checkpointConfirm := fun h => event h rfl
theorem selfTestComplete : Statement .selfTestComplete := fun h => event h rfl
theorem resumeStart : Statement .resumeStart := fun h => event h rfl
theorem preemptSaveComplete : Statement .preemptSaveComplete := fun h => event h rfl
theorem contextKill : Statement .contextKill := fun h => event h rfl
theorem trapTake : Statement .trapTake := fun h => event h rfl
theorem fetchStart : Statement .fetchStart := fun h => event h rfl
theorem fetchDataArrival : Statement .fetchDataArrival := fun h => event h rfl
theorem stagingInject : Statement .stagingInject := fun h => event h rfl
theorem stagingWriteLanding : Statement .stagingWriteLanding := fun h => event h rfl
theorem commitDecision : Statement .commitDecision := fun h => event h rfl
theorem commitComplete : Statement .commitComplete := fun h => event h rfl
theorem bridgeMessageArrival : Statement .bridgeMessageArrival := fun h => event h rfl
theorem bridgeSend : Statement .bridgeSend := fun h => event h rfl
theorem bridgeReceiveInject : Statement .bridgeReceiveInject := fun h => event h rfl
theorem ptpMessage : Statement .ptpMessage := fun h => event h rfl
theorem waitcRelease : Statement .waitcRelease := fun h => event h rfl
theorem alignResume : Statement .alignResume := fun h => event h rfl
theorem barwTimeout : Statement .barwTimeout := fun h => event h rfl
theorem serviceTransferEnd : Statement .serviceTransferEnd := fun h => event h rfl
theorem chainedCommandIssue : Statement .chainedCommandIssue := fun h => event h rfl
theorem debugStop : Statement .debugStop := fun h => event h rfl
theorem debugResume : Statement .debugResume := fun h => event h rfl
theorem nop (o : IssueWord) : Statement (.nop o) := fun h => by
  have e : ∀ {w}, w / 2 ^ 4 % 512 = 0 → w / 2 ^ 16 = 0 → decodeWord w = check w [] (.nop ⟨fld w 13 3, fld w 0 4⟩) := fun k z => by unfold decodeWord; rw [k, z]; rfl
  show decodeWord (o.toBits 0) = _
  have := o.guard.isLt; have := o.wait.isLt
  have f0 : fld (o.toBits 0) 13 3 = o.guard := fld_eq (by simp only [IssueWord.toBits]; omega)
  have f1 : fld (o.toBits 0) 0 4 = o.wait := fld_eq (by simp only [IssueWord.toBits]; omega)
  rw [e (by simp only [IssueWord.toBits]; omega) (by simp only [IssueWord.toBits]; omega), f0, f1]; exact check_ok rfl h
theorem lit (o : IssueWord) (l : BitVec 32) : Statement (.lit o l) := fun h => by
  have e : ∀ {w}, w / 2 ^ 4 % 512 = 511 → decodeWord w = check w [] (.lit ⟨fld w 13 3, fld w 0 4⟩ (fld w 16 32)) := fun k => by unfold decodeWord; rw [k]; rfl
  show decodeWord (o.toBits 511 + l.toNat * 2 ^ 16) = _
  have := o.guard.isLt; have := o.wait.isLt; have := l.isLt
  have f0 : fld (o.toBits 511 + l.toNat * 2 ^ 16) 13 3 = o.guard := fld_eq (by simp only [IssueWord.toBits]; omega)
  have f1 : fld (o.toBits 511 + l.toNat * 2 ^ 16) 0 4 = o.wait := fld_eq (by simp only [IssueWord.toBits]; omega)
  have f2 : fld (o.toBits 511 + l.toNat * 2 ^ 16) 16 32 = l := fld_eq (by simp only [IssueWord.toBits]; omega)
  rw [e (by simp only [IssueWord.toBits]; omega), f0, f1, f2]; exact check_ok rfl h
theorem add (o : RR) : Statement (.add o) := fun h => by
  have e : ∀ {w}, w / 2 ^ 25 = 0x01 → decodeSa w = check w [(1, 1)] (.add (.ofBits w)) := fun k => by unfold decodeSa; rw [k]; rfl
  show decodeSa (0x01 * 2 ^ 25 + o.toBits) = _
  rw [e (RR.op_toBits 0x01 o), RR.of_toBits]; exact check_ok (RR.zeros_toBits 0x01 o) h
theorem sub (o : RR) : Statement (.sub o) := fun h => by
  have e : ∀ {w}, w / 2 ^ 25 = 0x02 → decodeSa w = check w [(1, 1)] (.sub (.ofBits w)) := fun k => by unfold decodeSa; rw [k]; rfl
  show decodeSa (0x02 * 2 ^ 25 + o.toBits) = _
  rw [e (RR.op_toBits 0x02 o), RR.of_toBits]; exact check_ok (RR.zeros_toBits 0x02 o) h
theorem andS (o : RR) : Statement (.andS o) := fun h => by
  have e : ∀ {w}, w / 2 ^ 25 = 0x03 → decodeSa w = check w [(1, 1)] (.andS (.ofBits w)) := fun k => by unfold decodeSa; rw [k]; rfl
  show decodeSa (0x03 * 2 ^ 25 + o.toBits) = _
  rw [e (RR.op_toBits 0x03 o), RR.of_toBits]; exact check_ok (RR.zeros_toBits 0x03 o) h
theorem orS (o : RR) : Statement (.orS o) := fun h => by
  have e : ∀ {w}, w / 2 ^ 25 = 0x04 → decodeSa w = check w [(1, 1)] (.orS (.ofBits w)) := fun k => by unfold decodeSa; rw [k]; rfl
  show decodeSa (0x04 * 2 ^ 25 + o.toBits) = _
  rw [e (RR.op_toBits 0x04 o), RR.of_toBits]; exact check_ok (RR.zeros_toBits 0x04 o) h
theorem xor (o : RR) : Statement (.xor o) := fun h => by
  have e : ∀ {w}, w / 2 ^ 25 = 0x05 → decodeSa w = check w [(1, 1)] (.xor (.ofBits w)) := fun k => by unfold decodeSa; rw [k]; rfl
  show decodeSa (0x05 * 2 ^ 25 + o.toBits) = _
  rw [e (RR.op_toBits 0x05 o), RR.of_toBits]; exact check_ok (RR.zeros_toBits 0x05 o) h
theorem andn (o : RR) : Statement (.andn o) := fun h => by
  have e : ∀ {w}, w / 2 ^ 25 = 0x06 → decodeSa w = check w [(1, 1)] (.andn (.ofBits w)) := fun k => by unfold decodeSa; rw [k]; rfl
  show decodeSa (0x06 * 2 ^ 25 + o.toBits) = _
  rw [e (RR.op_toBits 0x06 o), RR.of_toBits]; exact check_ok (RR.zeros_toBits 0x06 o) h
theorem shl (o : RR) : Statement (.shl o) := fun h => by
  have e : ∀ {w}, w / 2 ^ 25 = 0x07 → decodeSa w = check w [(1, 1)] (.shl (.ofBits w)) := fun k => by unfold decodeSa; rw [k]; rfl
  show decodeSa (0x07 * 2 ^ 25 + o.toBits) = _
  rw [e (RR.op_toBits 0x07 o), RR.of_toBits]; exact check_ok (RR.zeros_toBits 0x07 o) h
theorem shr (o : RR) : Statement (.shr o) := fun h => by
  have e : ∀ {w}, w / 2 ^ 25 = 0x08 → decodeSa w = check w [(1, 1)] (.shr (.ofBits w)) := fun k => by unfold decodeSa; rw [k]; rfl
  show decodeSa (0x08 * 2 ^ 25 + o.toBits) = _
  rw [e (RR.op_toBits 0x08 o), RR.of_toBits]; exact check_ok (RR.zeros_toBits 0x08 o) h
theorem sra (o : RR) : Statement (.sra o) := fun h => by
  have e : ∀ {w}, w / 2 ^ 25 = 0x09 → decodeSa w = check w [(1, 1)] (.sra (.ofBits w)) := fun k => by unfold decodeSa; rw [k]; rfl
  show decodeSa (0x09 * 2 ^ 25 + o.toBits) = _
  rw [e (RR.op_toBits 0x09 o), RR.of_toBits]; exact check_ok (RR.zeros_toBits 0x09 o) h
theorem rol (o : RR) : Statement (.rol o) := fun h => by
  have e : ∀ {w}, w / 2 ^ 25 = 0x0A → decodeSa w = check w [(1, 1)] (.rol (.ofBits w)) := fun k => by unfold decodeSa; rw [k]; rfl
  show decodeSa (0x0A * 2 ^ 25 + o.toBits) = _
  rw [e (RR.op_toBits 0x0A o), RR.of_toBits]; exact check_ok (RR.zeros_toBits 0x0A o) h
theorem minS (o : RR) : Statement (.minS o) := fun h => by
  have e : ∀ {w}, w / 2 ^ 25 = 0x0B → decodeSa w = check w [(1, 1)] (.minS (.ofBits w)) := fun k => by unfold decodeSa; rw [k]; rfl
  show decodeSa (0x0B * 2 ^ 25 + o.toBits) = _
  rw [e (RR.op_toBits 0x0B o), RR.of_toBits]; exact check_ok (RR.zeros_toBits 0x0B o) h
theorem maxS (o : RR) : Statement (.maxS o) := fun h => by
  have e : ∀ {w}, w / 2 ^ 25 = 0x0C → decodeSa w = check w [(1, 1)] (.maxS (.ofBits w)) := fun k => by unfold decodeSa; rw [k]; rfl
  show decodeSa (0x0C * 2 ^ 25 + o.toBits) = _
  rw [e (RR.op_toBits 0x0C o), RR.of_toBits]; exact check_ok (RR.zeros_toBits 0x0C o) h
theorem minu (o : RR) : Statement (.minu o) := fun h => by
  have e : ∀ {w}, w / 2 ^ 25 = 0x0D → decodeSa w = check w [(1, 1)] (.minu (.ofBits w)) := fun k => by unfold decodeSa; rw [k]; rfl
  show decodeSa (0x0D * 2 ^ 25 + o.toBits) = _
  rw [e (RR.op_toBits 0x0D o), RR.of_toBits]; exact check_ok (RR.zeros_toBits 0x0D o) h
theorem maxu (o : RR) : Statement (.maxu o) := fun h => by
  have e : ∀ {w}, w / 2 ^ 25 = 0x0E → decodeSa w = check w [(1, 1)] (.maxu (.ofBits w)) := fun k => by unfold decodeSa; rw [k]; rfl
  show decodeSa (0x0E * 2 ^ 25 + o.toBits) = _
  rw [e (RR.op_toBits 0x0E o), RR.of_toBits]; exact check_ok (RR.zeros_toBits 0x0E o) h
theorem slt (o : RR) : Statement (.slt o) := fun h => by
  have e : ∀ {w}, w / 2 ^ 25 = 0x0F → decodeSa w = check w [(1, 1)] (.slt (.ofBits w)) := fun k => by unfold decodeSa; rw [k]; rfl
  show decodeSa (0x0F * 2 ^ 25 + o.toBits) = _
  rw [e (RR.op_toBits 0x0F o), RR.of_toBits]; exact check_ok (RR.zeros_toBits 0x0F o) h
theorem sltu (o : RR) : Statement (.sltu o) := fun h => by
  have e : ∀ {w}, w / 2 ^ 25 = 0x10 → decodeSa w = check w [(1, 1)] (.sltu (.ofBits w)) := fun k => by unfold decodeSa; rw [k]; rfl
  show decodeSa (0x10 * 2 ^ 25 + o.toBits) = _
  rw [e (RR.op_toBits 0x10 o), RR.of_toBits]; exact check_ok (RR.zeros_toBits 0x10 o) h
theorem seq (o : RR) : Statement (.seq o) := fun h => by
  have e : ∀ {w}, w / 2 ^ 25 = 0x11 → decodeSa w = check w [(1, 1)] (.seq (.ofBits w)) := fun k => by unfold decodeSa; rw [k]; rfl
  show decodeSa (0x11 * 2 ^ 25 + o.toBits) = _
  rw [e (RR.op_toBits 0x11 o), RR.of_toBits]; exact check_ok (RR.zeros_toBits 0x11 o) h
theorem adds (o : RR) : Statement (.adds o) := fun h => by
  have e : ∀ {w}, w / 2 ^ 25 = 0x12 → decodeSa w = check w [(1, 1)] (.adds (.ofBits w)) := fun k => by unfold decodeSa; rw [k]; rfl
  show decodeSa (0x12 * 2 ^ 25 + o.toBits) = _
  rw [e (RR.op_toBits 0x12 o), RR.of_toBits]; exact check_ok (RR.zeros_toBits 0x12 o) h
theorem subs (o : RR) : Statement (.subs o) := fun h => by
  have e : ∀ {w}, w / 2 ^ 25 = 0x13 → decodeSa w = check w [(1, 1)] (.subs (.ofBits w)) := fun k => by unfold decodeSa; rw [k]; rfl
  show decodeSa (0x13 * 2 ^ 25 + o.toBits) = _
  rw [e (RR.op_toBits 0x13 o), RR.of_toBits]; exact check_ok (RR.zeros_toBits 0x13 o) h
theorem absS (o : RR) : Statement (.absS o) := fun h => by
  have e : ∀ {w}, w / 2 ^ 25 = 0x14 → decodeSa w = check w [(1, 1)] (.absS (.ofBits w)) := fun k => by unfold decodeSa; rw [k]; rfl
  show decodeSa (0x14 * 2 ^ 25 + o.toBits) = _
  rw [e (RR.op_toBits 0x14 o), RR.of_toBits]; exact check_ok (RR.zeros_toBits 0x14 o) h
theorem clz (o : RR) : Statement (.clz o) := fun h => by
  have e : ∀ {w}, w / 2 ^ 25 = 0x15 → decodeSa w = check w [(1, 1)] (.clz (.ofBits w)) := fun k => by unfold decodeSa; rw [k]; rfl
  show decodeSa (0x15 * 2 ^ 25 + o.toBits) = _
  rw [e (RR.op_toBits 0x15 o), RR.of_toBits]; exact check_ok (RR.zeros_toBits 0x15 o) h
theorem popc (o : RR) : Statement (.popc o) := fun h => by
  have e : ∀ {w}, w / 2 ^ 25 = 0x16 → decodeSa w = check w [(1, 1)] (.popc (.ofBits w)) := fun k => by unfold decodeSa; rw [k]; rfl
  show decodeSa (0x16 * 2 ^ 25 + o.toBits) = _
  rw [e (RR.op_toBits 0x16 o), RR.of_toBits]; exact check_ok (RR.zeros_toBits 0x16 o) h
theorem brev (o : RR) : Statement (.brev o) := fun h => by
  have e : ∀ {w}, w / 2 ^ 25 = 0x17 → decodeSa w = check w [(1, 1)] (.brev (.ofBits w)) := fun k => by unfold decodeSa; rw [k]; rfl
  show decodeSa (0x17 * 2 ^ 25 + o.toBits) = _
  rw [e (RR.op_toBits 0x17 o), RR.of_toBits]; exact check_ok (RR.zeros_toBits 0x17 o) h
theorem mul (o : RR) : Statement (.mul o) := fun h => by
  have e : ∀ {w}, w / 2 ^ 25 = 0x18 → decodeSa w = check w [(1, 1)] (.mul (.ofBits w)) := fun k => by unfold decodeSa; rw [k]; rfl
  show decodeSa (0x18 * 2 ^ 25 + o.toBits) = _
  rw [e (RR.op_toBits 0x18 o), RR.of_toBits]; exact check_ok (RR.zeros_toBits 0x18 o) h
theorem mulh (o : RR) : Statement (.mulh o) := fun h => by
  have e : ∀ {w}, w / 2 ^ 25 = 0x19 → decodeSa w = check w [(1, 1)] (.mulh (.ofBits w)) := fun k => by unfold decodeSa; rw [k]; rfl
  show decodeSa (0x19 * 2 ^ 25 + o.toBits) = _
  rw [e (RR.op_toBits 0x19 o), RR.of_toBits]; exact check_ok (RR.zeros_toBits 0x19 o) h
theorem mulhu (o : RR) : Statement (.mulhu o) := fun h => by
  have e : ∀ {w}, w / 2 ^ 25 = 0x1A → decodeSa w = check w [(1, 1)] (.mulhu (.ofBits w)) := fun k => by unfold decodeSa; rw [k]; rfl
  show decodeSa (0x1A * 2 ^ 25 + o.toBits) = _
  rw [e (RR.op_toBits 0x1A o), RR.of_toBits]; exact check_ok (RR.zeros_toBits 0x1A o) h
theorem div (o : RR) : Statement (.div o) := fun h => by
  have e : ∀ {w}, w / 2 ^ 25 = 0x1B → decodeSa w = check w [(1, 1)] (.div (.ofBits w)) := fun k => by unfold decodeSa; rw [k]; rfl
  show decodeSa (0x1B * 2 ^ 25 + o.toBits) = _
  rw [e (RR.op_toBits 0x1B o), RR.of_toBits]; exact check_ok (RR.zeros_toBits 0x1B o) h
theorem divu (o : RR) : Statement (.divu o) := fun h => by
  have e : ∀ {w}, w / 2 ^ 25 = 0x1C → decodeSa w = check w [(1, 1)] (.divu (.ofBits w)) := fun k => by unfold decodeSa; rw [k]; rfl
  show decodeSa (0x1C * 2 ^ 25 + o.toBits) = _
  rw [e (RR.op_toBits 0x1C o), RR.of_toBits]; exact check_ok (RR.zeros_toBits 0x1C o) h
theorem rem (o : RR) : Statement (.rem o) := fun h => by
  have e : ∀ {w}, w / 2 ^ 25 = 0x1D → decodeSa w = check w [(1, 1)] (.rem (.ofBits w)) := fun k => by unfold decodeSa; rw [k]; rfl
  show decodeSa (0x1D * 2 ^ 25 + o.toBits) = _
  rw [e (RR.op_toBits 0x1D o), RR.of_toBits]; exact check_ok (RR.zeros_toBits 0x1D o) h
theorem remu (o : RR) : Statement (.remu o) := fun h => by
  have e : ∀ {w}, w / 2 ^ 25 = 0x1E → decodeSa w = check w [(1, 1)] (.remu (.ofBits w)) := fun k => by unfold decodeSa; rw [k]; rfl
  show decodeSa (0x1E * 2 ^ 25 + o.toBits) = _
  rw [e (RR.op_toBits 0x1E o), RR.of_toBits]; exact check_ok (RR.zeros_toBits 0x1E o) h
theorem selp (o : RR) : Statement (.selp o) := fun h => by
  have e : ∀ {w}, w / 2 ^ 25 = 0x1F → decodeSa w = check w [(1, 1)] (.selp (.ofBits w)) := fun k => by unfold decodeSa; rw [k]; rfl
  show decodeSa (0x1F * 2 ^ 25 + o.toBits) = _
  rw [e (RR.op_toBits 0x1F o), RR.of_toBits]; exact check_ok (RR.zeros_toBits 0x1F o) h
theorem addi (o : RI) : Statement (.addi o) := fun h => by
  have e : ∀ {w}, w / 2 ^ 25 = 0x20 → decodeSa w = check w [] (.addi (.ofBits w)) := fun k => by unfold decodeSa; rw [k]; rfl
  show decodeSa (0x20 * 2 ^ 25 + o.toBits) = _
  rw [e (RI.op_toBits 0x20 o), RI.of_toBits]; exact check_ok rfl h
theorem andi (o : RI) : Statement (.andi o) := fun h => by
  have e : ∀ {w}, w / 2 ^ 25 = 0x21 → decodeSa w = check w [] (.andi (.ofBits w)) := fun k => by unfold decodeSa; rw [k]; rfl
  show decodeSa (0x21 * 2 ^ 25 + o.toBits) = _
  rw [e (RI.op_toBits 0x21 o), RI.of_toBits]; exact check_ok rfl h
theorem ori (o : RI) : Statement (.ori o) := fun h => by
  have e : ∀ {w}, w / 2 ^ 25 = 0x22 → decodeSa w = check w [] (.ori (.ofBits w)) := fun k => by unfold decodeSa; rw [k]; rfl
  show decodeSa (0x22 * 2 ^ 25 + o.toBits) = _
  rw [e (RI.op_toBits 0x22 o), RI.of_toBits]; exact check_ok rfl h
theorem xori (o : RI) : Statement (.xori o) := fun h => by
  have e : ∀ {w}, w / 2 ^ 25 = 0x23 → decodeSa w = check w [] (.xori (.ofBits w)) := fun k => by unfold decodeSa; rw [k]; rfl
  show decodeSa (0x23 * 2 ^ 25 + o.toBits) = _
  rw [e (RI.op_toBits 0x23 o), RI.of_toBits]; exact check_ok rfl h
theorem shli (o : RI) : Statement (.shli o) := fun h => by
  have e : ∀ {w}, w / 2 ^ 25 = 0x24 → decodeSa w = check w [] (.shli (.ofBits w)) := fun k => by unfold decodeSa; rw [k]; rfl
  show decodeSa (0x24 * 2 ^ 25 + o.toBits) = _
  rw [e (RI.op_toBits 0x24 o), RI.of_toBits]; exact check_ok rfl h
theorem shri (o : RI) : Statement (.shri o) := fun h => by
  have e : ∀ {w}, w / 2 ^ 25 = 0x25 → decodeSa w = check w [] (.shri (.ofBits w)) := fun k => by unfold decodeSa; rw [k]; rfl
  show decodeSa (0x25 * 2 ^ 25 + o.toBits) = _
  rw [e (RI.op_toBits 0x25 o), RI.of_toBits]; exact check_ok rfl h
theorem srai (o : RI) : Statement (.srai o) := fun h => by
  have e : ∀ {w}, w / 2 ^ 25 = 0x26 → decodeSa w = check w [] (.srai (.ofBits w)) := fun k => by unfold decodeSa; rw [k]; rfl
  show decodeSa (0x26 * 2 ^ 25 + o.toBits) = _
  rw [e (RI.op_toBits 0x26 o), RI.of_toBits]; exact check_ok rfl h
theorem slti (o : RI) : Statement (.slti o) := fun h => by
  have e : ∀ {w}, w / 2 ^ 25 = 0x27 → decodeSa w = check w [] (.slti (.ofBits w)) := fun k => by unfold decodeSa; rw [k]; rfl
  show decodeSa (0x27 * 2 ^ 25 + o.toBits) = _
  rw [e (RI.op_toBits 0x27 o), RI.of_toBits]; exact check_ok rfl h
theorem sltiu (o : RI) : Statement (.sltiu o) := fun h => by
  have e : ∀ {w}, w / 2 ^ 25 = 0x28 → decodeSa w = check w [] (.sltiu (.ofBits w)) := fun k => by unfold decodeSa; rw [k]; rfl
  show decodeSa (0x28 * 2 ^ 25 + o.toBits) = _
  rw [e (RI.op_toBits 0x28 o), RI.of_toBits]; exact check_ok rfl h
theorem movi (o : LI) : Statement (.movi o) := fun h => by
  have e : ∀ {w}, w / 2 ^ 25 = 0x29 → decodeSa w = check w [] (.movi (.ofBits w)) := fun k => by unfold decodeSa; rw [k]; rfl
  show decodeSa (0x29 * 2 ^ 25 + o.toBits) = _
  rw [e (LI.op_toBits 0x29 o), LI.of_toBits]; exact check_ok rfl h
theorem seth (o : LI) : Statement (.seth o) := fun h => by
  have e : ∀ {w}, w / 2 ^ 25 = 0x2A → decodeSa w = check w [] (.seth (.ofBits w)) := fun k => by unfold decodeSa; rw [k]; rfl
  show decodeSa (0x2A * 2 ^ 25 + o.toBits) = _
  rw [e (LI.op_toBits 0x2A o), LI.of_toBits]; exact check_ok rfl h
theorem movk (o : LI) : Statement (.movk o) := fun h => by
  have e : ∀ {w}, w / 2 ^ 25 = 0x2B → decodeSa w = check w [] (.movk (.ofBits w)) := fun k => by unfold decodeSa; rw [k]; rfl
  show decodeSa (0x2B * 2 ^ 25 + o.toBits) = _
  rw [e (LI.op_toBits 0x2B o), LI.of_toBits]; exact check_ok rfl h
theorem fadd (o : RR) : Statement (.fadd o) := fun h => by
  have e : ∀ {w}, w / 2 ^ 25 = 0x30 → decodeSa w = check w [(1, 1)] (.fadd (.ofBits w)) := fun k => by unfold decodeSa; rw [k]; rfl
  show decodeSa (0x30 * 2 ^ 25 + o.toBits) = _
  rw [e (RR.op_toBits 0x30 o), RR.of_toBits]; exact check_ok (RR.zeros_toBits 0x30 o) h
theorem fsub (o : RR) : Statement (.fsub o) := fun h => by
  have e : ∀ {w}, w / 2 ^ 25 = 0x31 → decodeSa w = check w [(1, 1)] (.fsub (.ofBits w)) := fun k => by unfold decodeSa; rw [k]; rfl
  show decodeSa (0x31 * 2 ^ 25 + o.toBits) = _
  rw [e (RR.op_toBits 0x31 o), RR.of_toBits]; exact check_ok (RR.zeros_toBits 0x31 o) h
theorem fmul (o : RR) : Statement (.fmul o) := fun h => by
  have e : ∀ {w}, w / 2 ^ 25 = 0x32 → decodeSa w = check w [(1, 1)] (.fmul (.ofBits w)) := fun k => by unfold decodeSa; rw [k]; rfl
  show decodeSa (0x32 * 2 ^ 25 + o.toBits) = _
  rw [e (RR.op_toBits 0x32 o), RR.of_toBits]; exact check_ok (RR.zeros_toBits 0x32 o) h
theorem ffma (o : RR) : Statement (.ffma o) := fun h => by
  have e : ∀ {w}, w / 2 ^ 25 = 0x33 → decodeSa w = check w [(1, 1)] (.ffma (.ofBits w)) := fun k => by unfold decodeSa; rw [k]; rfl
  show decodeSa (0x33 * 2 ^ 25 + o.toBits) = _
  rw [e (RR.op_toBits 0x33 o), RR.of_toBits]; exact check_ok (RR.zeros_toBits 0x33 o) h
theorem fmin (o : RR) : Statement (.fmin o) := fun h => by
  have e : ∀ {w}, w / 2 ^ 25 = 0x34 → decodeSa w = check w [(1, 1)] (.fmin (.ofBits w)) := fun k => by unfold decodeSa; rw [k]; rfl
  show decodeSa (0x34 * 2 ^ 25 + o.toBits) = _
  rw [e (RR.op_toBits 0x34 o), RR.of_toBits]; exact check_ok (RR.zeros_toBits 0x34 o) h
theorem fmax (o : RR) : Statement (.fmax o) := fun h => by
  have e : ∀ {w}, w / 2 ^ 25 = 0x35 → decodeSa w = check w [(1, 1)] (.fmax (.ofBits w)) := fun k => by unfold decodeSa; rw [k]; rfl
  show decodeSa (0x35 * 2 ^ 25 + o.toBits) = _
  rw [e (RR.op_toBits 0x35 o), RR.of_toBits]; exact check_ok (RR.zeros_toBits 0x35 o) h
theorem fabs (o : RR) : Statement (.fabs o) := fun h => by
  have e : ∀ {w}, w / 2 ^ 25 = 0x36 → decodeSa w = check w [(1, 1)] (.fabs (.ofBits w)) := fun k => by unfold decodeSa; rw [k]; rfl
  show decodeSa (0x36 * 2 ^ 25 + o.toBits) = _
  rw [e (RR.op_toBits 0x36 o), RR.of_toBits]; exact check_ok (RR.zeros_toBits 0x36 o) h
theorem fneg (o : RR) : Statement (.fneg o) := fun h => by
  have e : ∀ {w}, w / 2 ^ 25 = 0x37 → decodeSa w = check w [(1, 1)] (.fneg (.ofBits w)) := fun k => by unfold decodeSa; rw [k]; rfl
  show decodeSa (0x37 * 2 ^ 25 + o.toBits) = _
  rw [e (RR.op_toBits 0x37 o), RR.of_toBits]; exact check_ok (RR.zeros_toBits 0x37 o) h
theorem fcvti (o : RR) : Statement (.fcvti o) := fun h => by
  have e : ∀ {w}, w / 2 ^ 25 = 0x38 → decodeSa w = check w [(1, 1)] (.fcvti (.ofBits w)) := fun k => by unfold decodeSa; rw [k]; rfl
  show decodeSa (0x38 * 2 ^ 25 + o.toBits) = _
  rw [e (RR.op_toBits 0x38 o), RR.of_toBits]; exact check_ok (RR.zeros_toBits 0x38 o) h
theorem icvtf (o : RR) : Statement (.icvtf o) := fun h => by
  have e : ∀ {w}, w / 2 ^ 25 = 0x39 → decodeSa w = check w [(1, 1)] (.icvtf (.ofBits w)) := fun k => by unfold decodeSa; rw [k]; rfl
  show decodeSa (0x39 * 2 ^ 25 + o.toBits) = _
  rw [e (RR.op_toBits 0x39 o), RR.of_toBits]; exact check_ok (RR.zeros_toBits 0x39 o) h
theorem frcp (o : RR) : Statement (.frcp o) := fun h => by
  have e : ∀ {w}, w / 2 ^ 25 = 0x3A → decodeSa w = check w [(1, 1)] (.frcp (.ofBits w)) := fun k => by unfold decodeSa; rw [k]; rfl
  show decodeSa (0x3A * 2 ^ 25 + o.toBits) = _
  rw [e (RR.op_toBits 0x3A o), RR.of_toBits]; exact check_ok (RR.zeros_toBits 0x3A o) h
theorem frsq (o : RR) : Statement (.frsq o) := fun h => by
  have e : ∀ {w}, w / 2 ^ 25 = 0x3B → decodeSa w = check w [(1, 1)] (.frsq (.ofBits w)) := fun k => by unfold decodeSa; rw [k]; rfl
  show decodeSa (0x3B * 2 ^ 25 + o.toBits) = _
  rw [e (RR.op_toBits 0x3B o), RR.of_toBits]; exact check_ok (RR.zeros_toBits 0x3B o) h
theorem frcps (o : RR) : Statement (.frcps o) := fun h => by
  have e : ∀ {w}, w / 2 ^ 25 = 0x3C → decodeSa w = check w [(1, 1)] (.frcps (.ofBits w)) := fun k => by unfold decodeSa; rw [k]; rfl
  show decodeSa (0x3C * 2 ^ 25 + o.toBits) = _
  rw [e (RR.op_toBits 0x3C o), RR.of_toBits]; exact check_ok (RR.zeros_toBits 0x3C o) h
theorem frsqs (o : RR) : Statement (.frsqs o) := fun h => by
  have e : ∀ {w}, w / 2 ^ 25 = 0x3D → decodeSa w = check w [(1, 1)] (.frsqs (.ofBits w)) := fun k => by unfold decodeSa; rw [k]; rfl
  show decodeSa (0x3D * 2 ^ 25 + o.toBits) = _
  rw [e (RR.op_toBits 0x3D o), RR.of_toBits]; exact check_ok (RR.zeros_toBits 0x3D o) h
theorem peq (o : PC) : Statement (.peq o) := fun h => by
  have e : ∀ {w}, w / 2 ^ 25 = 0x40 → decodeSa w = check w [(9, 1), (24, 23)] (.peq (.ofBits w)) := fun k => by unfold decodeSa; rw [k]; rfl
  show decodeSa (0x40 * 2 ^ 25 + o.toBits) = _
  rw [e (PC.op_toBits 0x40 o), PC.of_toBits]; exact check_ok (PC.zeros_toBits 0x40 o) h
theorem pne (o : PC) : Statement (.pne o) := fun h => by
  have e : ∀ {w}, w / 2 ^ 25 = 0x41 → decodeSa w = check w [(9, 1), (24, 23)] (.pne (.ofBits w)) := fun k => by unfold decodeSa; rw [k]; rfl
  show decodeSa (0x41 * 2 ^ 25 + o.toBits) = _
  rw [e (PC.op_toBits 0x41 o), PC.of_toBits]; exact check_ok (PC.zeros_toBits 0x41 o) h
theorem plt (o : PC) : Statement (.plt o) := fun h => by
  have e : ∀ {w}, w / 2 ^ 25 = 0x42 → decodeSa w = check w [(9, 1), (24, 23)] (.plt (.ofBits w)) := fun k => by unfold decodeSa; rw [k]; rfl
  show decodeSa (0x42 * 2 ^ 25 + o.toBits) = _
  rw [e (PC.op_toBits 0x42 o), PC.of_toBits]; exact check_ok (PC.zeros_toBits 0x42 o) h
theorem pltu (o : PC) : Statement (.pltu o) := fun h => by
  have e : ∀ {w}, w / 2 ^ 25 = 0x43 → decodeSa w = check w [(9, 1), (24, 23)] (.pltu (.ofBits w)) := fun k => by unfold decodeSa; rw [k]; rfl
  show decodeSa (0x43 * 2 ^ 25 + o.toBits) = _
  rw [e (PC.op_toBits 0x43 o), PC.of_toBits]; exact check_ok (PC.zeros_toBits 0x43 o) h
theorem pge (o : PC) : Statement (.pge o) := fun h => by
  have e : ∀ {w}, w / 2 ^ 25 = 0x44 → decodeSa w = check w [(9, 1), (24, 23)] (.pge (.ofBits w)) := fun k => by unfold decodeSa; rw [k]; rfl
  show decodeSa (0x44 * 2 ^ 25 + o.toBits) = _
  rw [e (PC.op_toBits 0x44 o), PC.of_toBits]; exact check_ok (PC.zeros_toBits 0x44 o) h
theorem pgeu (o : PC) : Statement (.pgeu o) := fun h => by
  have e : ∀ {w}, w / 2 ^ 25 = 0x45 → decodeSa w = check w [(9, 1), (24, 23)] (.pgeu (.ofBits w)) := fun k => by unfold decodeSa; rw [k]; rfl
  show decodeSa (0x45 * 2 ^ 25 + o.toBits) = _
  rw [e (PC.op_toBits 0x45 o), PC.of_toBits]; exact check_ok (PC.zeros_toBits 0x45 o) h
theorem pflt (o : PC) : Statement (.pflt o) := fun h => by
  have e : ∀ {w}, w / 2 ^ 25 = 0x46 → decodeSa w = check w [(9, 1), (24, 23)] (.pflt (.ofBits w)) := fun k => by unfold decodeSa; rw [k]; rfl
  show decodeSa (0x46 * 2 ^ 25 + o.toBits) = _
  rw [e (PC.op_toBits 0x46 o), PC.of_toBits]; exact check_ok (PC.zeros_toBits 0x46 o) h
theorem pfle (o : PC) : Statement (.pfle o) := fun h => by
  have e : ∀ {w}, w / 2 ^ 25 = 0x47 → decodeSa w = check w [(9, 1), (24, 23)] (.pfle (.ofBits w)) := fun k => by unfold decodeSa; rw [k]; rfl
  show decodeSa (0x47 * 2 ^ 25 + o.toBits) = _
  rw [e (PC.op_toBits 0x47 o), PC.of_toBits]; exact check_ok (PC.zeros_toBits 0x47 o) h
theorem pfun (o : PC) : Statement (.pfun o) := fun h => by
  have e : ∀ {w}, w / 2 ^ 25 = 0x48 → decodeSa w = check w [(9, 1), (24, 23)] (.pfun (.ofBits w)) := fun k => by unfold decodeSa; rw [k]; rfl
  show decodeSa (0x48 * 2 ^ 25 + o.toBits) = _
  rw [e (PC.op_toBits 0x48 o), PC.of_toBits]; exact check_ok (PC.zeros_toBits 0x48 o) h
theorem pand (o : PL) : Statement (.pand o) := fun h => by
  have e : ∀ {w}, w / 2 ^ 25 = 0x49 → decodeSa w = check w [(9, 0), (14, 13), (19, 18), (24, 23)] (.pand (.ofBits w)) := fun k => by unfold decodeSa; rw [k]; rfl
  show decodeSa (0x49 * 2 ^ 25 + o.toBits) = _
  rw [e (PL.op_toBits 0x49 o), PL.of_toBits]; exact check_ok (PL.zeros_toBits 0x49 o) h
theorem por (o : PL) : Statement (.por o) := fun h => by
  have e : ∀ {w}, w / 2 ^ 25 = 0x4A → decodeSa w = check w [(9, 0), (14, 13), (19, 18), (24, 23)] (.por (.ofBits w)) := fun k => by unfold decodeSa; rw [k]; rfl
  show decodeSa (0x4A * 2 ^ 25 + o.toBits) = _
  rw [e (PL.op_toBits 0x4A o), PL.of_toBits]; exact check_ok (PL.zeros_toBits 0x4A o) h
theorem pxor (o : PL) : Statement (.pxor o) := fun h => by
  have e : ∀ {w}, w / 2 ^ 25 = 0x4B → decodeSa w = check w [(9, 0), (14, 13), (19, 18), (24, 23)] (.pxor (.ofBits w)) := fun k => by unfold decodeSa; rw [k]; rfl
  show decodeSa (0x4B * 2 ^ 25 + o.toBits) = _
  rw [e (PL.op_toBits 0x4B o), PL.of_toBits]; exact check_ok (PL.zeros_toBits 0x4B o) h
theorem pnot (o : PL) : Statement (.pnot o) := fun h => by
  have e : ∀ {w}, w / 2 ^ 25 = 0x4C → decodeSa w = check w [(9, 0), (14, 13), (19, 18), (24, 23)] (.pnot (.ofBits w)) := fun k => by unfold decodeSa; rw [k]; rfl
  show decodeSa (0x4C * 2 ^ 25 + o.toBits) = _
  rw [e (PL.op_toBits 0x4C o), PL.of_toBits]; exact check_ok (PL.zeros_toBits 0x4C o) h
theorem pset (o : PL) : Statement (.pset o) := fun h => by
  have e : ∀ {w}, w / 2 ^ 25 = 0x4D → decodeSa w = check w [(9, 0), (14, 13), (19, 18), (24, 23)] (.pset (.ofBits w)) := fun k => by unfold decodeSa; rw [k]; rfl
  show decodeSa (0x4D * 2 ^ 25 + o.toBits) = _
  rw [e (PL.op_toBits 0x4D o), PL.of_toBits]; exact check_ok (PL.zeros_toBits 0x4D o) h
theorem ptos (o : RR) : Statement (.ptos o) := fun h => by
  have e : ∀ {w}, w / 2 ^ 25 = 0x4E → decodeSa w = check w [(1, 1)] (.ptos (.ofBits w)) := fun k => by unfold decodeSa; rw [k]; rfl
  show decodeSa (0x4E * 2 ^ 25 + o.toBits) = _
  rw [e (RR.op_toBits 0x4E o), RR.of_toBits]; exact check_ok (RR.zeros_toBits 0x4E o) h
theorem rdsp (o : RI) : Statement (.rdsp o) := fun h => by
  have e : ∀ {w}, w / 2 ^ 25 = 0x50 → decodeSa w = check w [] (.rdsp (.ofBits w)) := fun k => by unfold decodeSa; rw [k]; rfl
  show decodeSa (0x50 * 2 ^ 25 + o.toBits) = _
  rw [e (RI.op_toBits 0x50 o), RI.of_toBits]; exact check_ok rfl h
theorem wrsp (o : RI) : Statement (.wrsp o) := fun h => by
  have e : ∀ {w}, w / 2 ^ 25 = 0x51 → decodeSa w = check w [] (.wrsp (.ofBits w)) := fun k => by unfold decodeSa; rw [k]; rfl
  show decodeSa (0x51 * 2 ^ 25 + o.toBits) = _
  rw [e (RI.op_toBits 0x51 o), RI.of_toBits]; exact check_ok rfl h
theorem rdcyc (o : RI) : Statement (.rdcyc o) := fun h => by
  have e : ∀ {w}, w / 2 ^ 25 = 0x52 → decodeSa w = check w [] (.rdcyc (.ofBits w)) := fun k => by unfold decodeSa; rw [k]; rfl
  show decodeSa (0x52 * 2 ^ 25 + o.toBits) = _
  rw [e (RI.op_toBits 0x52 o), RI.of_toBits]; exact check_ok rfl h
theorem rdwp (o : RI) : Statement (.rdwp o) := fun h => by
  have e : ∀ {w}, w / 2 ^ 25 = 0x53 → decodeSa w = check w [] (.rdwp (.ofBits w)) := fun k => by unfold decodeSa; rw [k]; rfl
  show decodeSa (0x53 * 2 ^ 25 + o.toBits) = _
  rw [e (RI.op_toBits 0x53 o), RI.of_toBits]; exact check_ok rfl h
theorem ldw (o : RI) : Statement (.ldw o) := fun h => by
  have e : ∀ {w}, w / 2 ^ 25 = 0x60 → decodeSa w = check w [] (.ldw (.ofBits w)) := fun k => by unfold decodeSa; rw [k]; rfl
  show decodeSa (0x60 * 2 ^ 25 + o.toBits) = _
  rw [e (RI.op_toBits 0x60 o), RI.of_toBits]; exact check_ok rfl h
theorem ldh (o : RI) : Statement (.ldh o) := fun h => by
  have e : ∀ {w}, w / 2 ^ 25 = 0x61 → decodeSa w = check w [] (.ldh (.ofBits w)) := fun k => by unfold decodeSa; rw [k]; rfl
  show decodeSa (0x61 * 2 ^ 25 + o.toBits) = _
  rw [e (RI.op_toBits 0x61 o), RI.of_toBits]; exact check_ok rfl h
theorem ldhu (o : RI) : Statement (.ldhu o) := fun h => by
  have e : ∀ {w}, w / 2 ^ 25 = 0x62 → decodeSa w = check w [] (.ldhu (.ofBits w)) := fun k => by unfold decodeSa; rw [k]; rfl
  show decodeSa (0x62 * 2 ^ 25 + o.toBits) = _
  rw [e (RI.op_toBits 0x62 o), RI.of_toBits]; exact check_ok rfl h
theorem ldb (o : RI) : Statement (.ldb o) := fun h => by
  have e : ∀ {w}, w / 2 ^ 25 = 0x63 → decodeSa w = check w [] (.ldb (.ofBits w)) := fun k => by unfold decodeSa; rw [k]; rfl
  show decodeSa (0x63 * 2 ^ 25 + o.toBits) = _
  rw [e (RI.op_toBits 0x63 o), RI.of_toBits]; exact check_ok rfl h
theorem ldbu (o : RI) : Statement (.ldbu o) := fun h => by
  have e : ∀ {w}, w / 2 ^ 25 = 0x64 → decodeSa w = check w [] (.ldbu (.ofBits w)) := fun k => by unfold decodeSa; rw [k]; rfl
  show decodeSa (0x64 * 2 ^ 25 + o.toBits) = _
  rw [e (RI.op_toBits 0x64 o), RI.of_toBits]; exact check_ok rfl h
theorem stw (o : RI) : Statement (.stw o) := fun h => by
  have e : ∀ {w}, w / 2 ^ 25 = 0x65 → decodeSa w = check w [] (.stw (.ofBits w)) := fun k => by unfold decodeSa; rw [k]; rfl
  show decodeSa (0x65 * 2 ^ 25 + o.toBits) = _
  rw [e (RI.op_toBits 0x65 o), RI.of_toBits]; exact check_ok rfl h
theorem sth (o : RI) : Statement (.sth o) := fun h => by
  have e : ∀ {w}, w / 2 ^ 25 = 0x66 → decodeSa w = check w [] (.sth (.ofBits w)) := fun k => by unfold decodeSa; rw [k]; rfl
  show decodeSa (0x66 * 2 ^ 25 + o.toBits) = _
  rw [e (RI.op_toBits 0x66 o), RI.of_toBits]; exact check_ok rfl h
theorem stb (o : RI) : Statement (.stb o) := fun h => by
  have e : ∀ {w}, w / 2 ^ 25 = 0x67 → decodeSa w = check w [] (.stb (.ofBits w)) := fun k => by unfold decodeSa; rw [k]; rfl
  show decodeSa (0x67 * 2 ^ 25 + o.toBits) = _
  rw [e (RI.op_toBits 0x67 o), RI.of_toBits]; exact check_ok rfl h
theorem tree (o : TreeOp) : Statement (.tree o) := fun h => by
  have e : ∀ {w}, w / 2 ^ 44 = 0x1 → decodeCt w = check w [(1, 0)] (.tree (.ofBits w)) := fun k => by unfold decodeCt; rw [k]; rfl
  show decodeCt (0x1 * 2 ^ 44 + o.toBits) = _
  rw [e (TreeOp.op_toBits 0x1 o), TreeOp.of_toBits]; exact check_ok (TreeOp.zeros_toBits 0x1 o) h
theorem jmp (t : BitVec 6) : Statement (.jmp t) := fun h => by
  have e : ∀ {w}, w / 2 ^ 44 = 2 → bit w 43 = false → decodeCt w = check w [(42, 42), (35, 0)] (.jmp (fld w 36 6)) := fun k b => by unfold decodeCt; rw [k, b]; rfl
  show decodeCt (0x2 * 2 ^ 44 + t.toNat * 2 ^ 36) = _
  have := t.isLt
  have f0 : fld (0x2 * 2 ^ 44 + t.toNat * 2 ^ 36) 36 6 = t := fld_eq (by omega)
  rw [e (by omega) (bit_eq_false (by omega)), f0]; exact check_ok (by simp only [zeros, List.all_cons, List.all_nil, Bool.and_true, Bool.and_eq_true, beq_iff_eq]; omega) h
theorem jmpIndirect (r : BitVec 5) : Statement (.jmpIndirect r) := fun h => by
  have e : ∀ {w}, w / 2 ^ 44 = 2 → bit w 43 = true → decodeCt w = check w [(42, 42), (36, 0)] (.jmpIndirect (fld w 37 5)) := fun k b => by unfold decodeCt; rw [k, b]; rfl
  show decodeCt (0x2 * 2 ^ 44 + 2 ^ 43 + r.toNat * 2 ^ 37) = _
  have := r.isLt
  have f0 : fld (0x2 * 2 ^ 44 + 2 ^ 43 + r.toNat * 2 ^ 37) 37 5 = r := fld_eq (by omega)
  rw [e (by omega) (bit_eq_true (by omega)), f0]; exact check_ok (by simp only [zeros, List.all_cons, List.all_nil, Bool.and_true, Bool.and_eq_true, beq_iff_eq]; omega) h
theorem call (t : BitVec 6) : Statement (.call t) := fun h => by
  have e : ∀ {w}, w / 2 ^ 44 = 3 → bit w 43 = false → decodeCt w = check w [(42, 42), (35, 0)] (.call (fld w 36 6)) := fun k b => by unfold decodeCt; rw [k, b]; rfl
  show decodeCt (0x3 * 2 ^ 44 + t.toNat * 2 ^ 36) = _
  have := t.isLt
  have f0 : fld (0x3 * 2 ^ 44 + t.toNat * 2 ^ 36) 36 6 = t := fld_eq (by omega)
  rw [e (by omega) (bit_eq_false (by omega)), f0]; exact check_ok (by simp only [zeros, List.all_cons, List.all_nil, Bool.and_true, Bool.and_eq_true, beq_iff_eq]; omega) h
theorem callIndirect (r : BitVec 5) : Statement (.callIndirect r) := fun h => by
  have e : ∀ {w}, w / 2 ^ 44 = 3 → bit w 43 = true → decodeCt w = check w [(42, 42), (36, 0)] (.callIndirect (fld w 37 5)) := fun k b => by unfold decodeCt; rw [k, b]; rfl
  show decodeCt (0x3 * 2 ^ 44 + 2 ^ 43 + r.toNat * 2 ^ 37) = _
  have := r.isLt
  have f0 : fld (0x3 * 2 ^ 44 + 2 ^ 43 + r.toNat * 2 ^ 37) 37 5 = r := fld_eq (by omega)
  rw [e (by omega) (bit_eq_true (by omega)), f0]; exact check_ok (by simp only [zeros, List.all_cons, List.all_nil, Bool.and_true, Bool.and_eq_true, beq_iff_eq]; omega) h
theorem ret : Statement .ret := fun h => by
  have e : ∀ {w}, w / 2 ^ 44 = 4 → decodeCt w = check w [(43, 0)] .ret := fun k => by unfold decodeCt; rw [k]; rfl
  show decodeCt (4 * 2 ^ 44) = _
  rw [e (by omega)]; exact check_ok (by decide) h
theorem loopCounted (o : LoopOp) (cnt : BitVec 13) : Statement (.loopCounted o cnt) := fun h => by
  have e : ∀ {w}, w / 2 ^ 44 = 5 → bit w 41 = false → bit w 37 = false → decodeCt w = check w [(40, 38)] (.loopCounted (.ofBits w) (fld w 24 13)) := fun k b0 b1 => by unfold decodeCt; rw [k]; show decodeLoop _ = _; unfold decodeLoop; rw [b0, b1]; rfl
  have := o.lvl.isLt; have := o.mexp.isLt; have := o.mman.isLt; have := o.fin.isLt; have := cnt.isLt
  have hw : 0x5 * 2 ^ 44 + o.toBits + cnt.toNat * 2 ^ 24 = 5 * 2 ^ 44 + o.toBits + (cnt.toNat) * 2 ^ 24 := by omega
  show decodeCt (0x5 * 2 ^ 44 + o.toBits + cnt.toNat * 2 ^ 24) = _
  have g : LoopOp.ofBits (5 * 2 ^ 44 + o.toBits + (cnt.toNat) * 2 ^ 24) = o := LoopOp.of_between 5 _ o (by omega)
  have f : fld (5 * 2 ^ 44 + o.toBits + (cnt.toNat) * 2 ^ 24) 24 13 = cnt := fld_eq (by simp only [LoopOp.toBits]; omega)
  rw [hw, e (by simp only [LoopOp.toBits]; omega) (bit_eq_false (by simp only [LoopOp.toBits]; omega)) (bit_eq_false (by simp only [LoopOp.toBits]; omega)), g, f]; exact check_ok (by simp only [zeros, LoopOp.toBits, List.all_cons, List.all_nil, Bool.and_true, beq_iff_eq]; omega) h
theorem loopRegisterCount (o : LoopOp) (r : BitVec 5) : Statement (.loopRegisterCount o r) := fun h => by
  have e : ∀ {w}, w / 2 ^ 44 = 5 → bit w 41 = false → bit w 37 = true → decodeCt w = check w [(40, 38), (36, 29)] (.loopRegisterCount (.ofBits w) (fld w 24 5)) := fun k b0 b1 => by unfold decodeCt; rw [k]; show decodeLoop _ = _; unfold decodeLoop; rw [b0, b1]; rfl
  have := o.lvl.isLt; have := o.mexp.isLt; have := o.mman.isLt; have := o.fin.isLt; have := r.isLt
  have hw : 0x5 * 2 ^ 44 + 2 ^ 37 + o.toBits + r.toNat * 2 ^ 24 = 5 * 2 ^ 44 + o.toBits + (2 ^ 13 + r.toNat) * 2 ^ 24 := by omega
  show decodeCt (0x5 * 2 ^ 44 + 2 ^ 37 + o.toBits + r.toNat * 2 ^ 24) = _
  have g : LoopOp.ofBits (5 * 2 ^ 44 + o.toBits + (2 ^ 13 + r.toNat) * 2 ^ 24) = o := LoopOp.of_between 5 _ o (by omega)
  have f : fld (5 * 2 ^ 44 + o.toBits + (2 ^ 13 + r.toNat) * 2 ^ 24) 24 5 = r := fld_eq (by simp only [LoopOp.toBits]; omega)
  rw [hw, e (by simp only [LoopOp.toBits]; omega) (bit_eq_false (by simp only [LoopOp.toBits]; omega)) (bit_eq_true (by simp only [LoopOp.toBits]; omega)), g, f]; exact check_ok (by simp only [zeros, LoopOp.toBits, List.all_cons, List.all_nil, Bool.and_true, Bool.and_eq_true, beq_iff_eq]; omega) h
theorem loopUntil (o : LoopOp) (pk : BitVec 3) : Statement (.loopUntil o pk) := fun h => by
  have e : ∀ {w}, w / 2 ^ 44 = 5 → bit w 41 = true → decodeCt w = check w [(37, 24)] (.loopUntil (.ofBits w) (fld w 38 3)) := fun k b0 => by unfold decodeCt; rw [k]; show decodeLoop _ = _; unfold decodeLoop; rw [b0]; rfl
  have := o.lvl.isLt; have := o.mexp.isLt; have := o.mman.isLt; have := o.fin.isLt; have := pk.isLt
  have hw : 0x5 * 2 ^ 44 + 2 ^ 41 + o.toBits + pk.toNat * 2 ^ 38 = 5 * 2 ^ 44 + o.toBits + (2 ^ 17 + pk.toNat * 2 ^ 14) * 2 ^ 24 := by omega
  show decodeCt (0x5 * 2 ^ 44 + 2 ^ 41 + o.toBits + pk.toNat * 2 ^ 38) = _
  have g : LoopOp.ofBits (5 * 2 ^ 44 + o.toBits + (2 ^ 17 + pk.toNat * 2 ^ 14) * 2 ^ 24) = o := LoopOp.of_between 5 _ o (by omega)
  have f : fld (5 * 2 ^ 44 + o.toBits + (2 ^ 17 + pk.toNat * 2 ^ 14) * 2 ^ 24) 38 3 = pk := fld_eq (by simp only [LoopOp.toBits]; omega)
  rw [hw, e (by simp only [LoopOp.toBits]; omega) (bit_eq_true (by simp only [LoopOp.toBits]; omega)), g, f]; exact check_ok (by simp only [zeros, LoopOp.toBits, List.all_cons, List.all_nil, Bool.and_true, beq_iff_eq]; omega) h
theorem waitc (o : WaitOp) : Statement (.waitc o) := fun h => by
  have e : ∀ {w}, w / 2 ^ 44 = 0x6 → decodeCt w = check w [] (.waitc (.ofBits w)) := fun k => by unfold decodeCt; rw [k]; rfl
  show decodeCt (0x6 * 2 ^ 44 + o.toBits) = _
  rw [e (WaitOp.op_toBits 0x6 o), WaitOp.of_toBits]; exact check_ok rfl h
theorem bara (l : BitVec 2) : Statement (.bara l) := fun h => by
  have e : ∀ {w}, w / 2 ^ 44 = 7 → decodeCt w = check w [(41, 0)] (.bara (fld w 42 2)) := fun k => by unfold decodeCt; rw [k]; rfl
  show decodeCt (7 * 2 ^ 44 + l.toNat * 2 ^ 42) = _
  have := l.isLt
  have f0 : fld (7 * 2 ^ 44 + l.toNat * 2 ^ 42) 42 2 = l := fld_eq (by omega)
  rw [e (by omega), f0]; exact check_ok (by simp only [zeros, List.all_cons, List.all_nil, Bool.and_true, beq_iff_eq]; omega) h
theorem barw (o : BarwOp) : Statement (.barw o) := fun h => by
  have e : ∀ {w}, w / 2 ^ 44 = 0x8 → decodeCt w = check w [(41, 40)] (.barw (.ofBits w)) := fun k => by unfold decodeCt; rw [k]; rfl
  show decodeCt (0x8 * 2 ^ 44 + o.toBits) = _
  rw [e (BarwOp.op_toBits 0x8 o), BarwOp.of_toBits]; exact check_ok (BarwOp.zeros_toBits 0x8 o) h
theorem step (l : BitVec 2) : Statement (.step l) := fun h => by
  have e : ∀ {w}, w / 2 ^ 44 = 9 → decodeCt w = check w [(41, 0)] (.step (fld w 42 2)) := fun k => by unfold decodeCt; rw [k]; rfl
  show decodeCt (9 * 2 ^ 44 + l.toNat * 2 ^ 42) = _
  have := l.isLt
  have f0 : fld (9 * 2 ^ 44 + l.toNat * 2 ^ 42) 42 2 = l := fld_eq (by omega)
  rw [e (by omega), f0]; exact check_ok (by simp only [zeros, List.all_cons, List.all_nil, Bool.and_true, beq_iff_eq]; omega) h
theorem trap (imm : BitVec 16) : Statement (.trap imm) := fun h => by
  have e : ∀ {w}, w / 2 ^ 44 = 0xA → decodeCt w = check w [(27, 0)] (.trap (fld w 28 16)) := fun k => by unfold decodeCt; rw [k]; rfl
  show decodeCt (0xA * 2 ^ 44 + imm.toNat * 2 ^ 28) = _
  have := imm.isLt
  have f0 : fld (0xA * 2 ^ 44 + imm.toNat * 2 ^ 28) 28 16 = imm := fld_eq (by omega)
  rw [e (by omega), f0]; exact check_ok (by simp only [zeros, List.all_cons, List.all_nil, Bool.and_true, beq_iff_eq]; omega) h
theorem xret : Statement .xret := fun h => by
  have e : ∀ {w}, w / 2 ^ 44 = 11 → decodeCt w = check w [(43, 0)] .xret := fun k => by unfold decodeCt; rw [k]; rfl
  show decodeCt (11 * 2 ^ 44) = _
  rw [e (by omega)]; exact check_ok (by decide) h
theorem endS : Statement .endS := fun h => by
  have e : ∀ {w}, w / 2 ^ 44 = 12 → decodeCt w = check w [(43, 0)] .endS := fun k => by unfold decodeCt; rw [k]; rfl
  show decodeCt (12 * 2 ^ 44) = _
  rw [e (by omega)]; exact check_ok (by decide) h
theorem align (d : BitVec 5) : Statement (.align d) := fun h => by
  have e : ∀ {w}, w / 2 ^ 44 = 0xD → decodeCt w = check w [(38, 0)] (.align (fld w 39 5)) := fun k => by unfold decodeCt; rw [k]; rfl
  show decodeCt (0xD * 2 ^ 44 + d.toNat * 2 ^ 39) = _
  have := d.isLt
  have f0 : fld (0xD * 2 ^ 44 + d.toNat * 2 ^ 39) 39 5 = d := fld_eq (by omega)
  rw [e (by omega), f0]; exact check_ok (by simp only [zeros, List.all_cons, List.all_nil, Bool.and_true, beq_iff_eq]; omega) h
theorem rbmark (b : BitVec 5) (imm : BitVec 39) : Statement (.rbmark b imm) := fun h => by
  have e : ∀ {w}, w / 2 ^ 44 = 0xE → decodeCt w = check w [] (.rbmark (fld w 39 5) (fld w 0 39)) := fun k => by unfold decodeCt; rw [k]; rfl
  show decodeCt (0xE * 2 ^ 44 + b.toNat * 2 ^ 39 + imm.toNat) = _
  have := b.isLt; have := imm.isLt
  have f0 : fld (0xE * 2 ^ 44 + b.toNat * 2 ^ 39 + imm.toNat) 39 5 = b := fld_eq (by omega)
  have f1 : fld (0xE * 2 ^ 44 + b.toNat * 2 ^ 39 + imm.toNat) 0 39 = imm := fld_eq (by omega)
  rw [e (by omega), f0, f1]; exact check_ok (rfl) h
theorem haltdbg : Statement .haltdbg := fun h => by
  have e : ∀ {w}, w / 2 ^ 44 = 0xF → w / 2 ^ 40 % 16 = 0 → decodeCt w = check w [(39, 0)] .haltdbg := fun k j => by unfold decodeCt; rw [k]; show decodeSys _ = _; unfold decodeSys; rw [j]; rfl
  show decodeCt (0xF * 2 ^ 44) = _
  rw [e (by omega) (by omega)]; exact check_ok (by decide) h
theorem trig : Statement .trig := fun h => by
  have e : ∀ {w}, w / 2 ^ 44 = 0xF → w / 2 ^ 40 % 16 = 1 → decodeCt w = check w [(39, 0)] .trig := fun k j => by unfold decodeCt; rw [k]; show decodeSys _ = _; unfold decodeSys; rw [j]; rfl
  show decodeCt (0xF * 2 ^ 44 + 1 * 2 ^ 40) = _
  rw [e (by omega) (by omega)]; exact check_ok (by decide) h
theorem preemptpt : Statement .preemptpt := fun h => by
  have e : ∀ {w}, w / 2 ^ 44 = 0xF → w / 2 ^ 40 % 16 = 2 → decodeCt w = check w [(39, 0)] .preemptpt := fun k j => by unfold decodeCt; rw [k]; show decodeSys _ = _; unfold decodeSys; rw [j]; rfl
  show decodeCt (0xF * 2 ^ 44 + 2 * 2 ^ 40) = _
  rw [e (by omega) (by omega)]; exact check_ok (by decide) h
theorem chkon : Statement .chkon := fun h => by
  have e : ∀ {w}, w / 2 ^ 44 = 0xF → w / 2 ^ 40 % 16 = 3 → decodeCt w = check w [(39, 0)] .chkon := fun k j => by unfold decodeCt; rw [k]; show decodeSys _ = _; unfold decodeSys; rw [j]; rfl
  show decodeCt (0xF * 2 ^ 44 + 3 * 2 ^ 40) = _
  rw [e (by omega) (by omega)]; exact check_ok (by decide) h
theorem chkoff : Statement .chkoff := fun h => by
  have e : ∀ {w}, w / 2 ^ 44 = 0xF → w / 2 ^ 40 % 16 = 4 → decodeCt w = check w [(39, 0)] .chkoff := fun k j => by unfold decodeCt; rw [k]; show decodeSys _ = _; unfold decodeSys; rw [j]; rfl
  show decodeCt (0xF * 2 ^ 44 + 4 * 2 ^ 40) = _
  rw [e (by omega) (by omega)]; exact check_ok (by decide) h
theorem vadd (o : VxOp) : Statement (.vadd o) := fun h => by
  have e : ∀ {w}, w / 2 ^ 40 = 0x01 → decodeVx w = check w [] (.vadd (.ofBits w)) := fun k => by unfold decodeVx; rw [k]; rfl
  show decodeVx (0x01 * 2 ^ 40 + o.toBits) = _
  rw [e (VxOp.op_toBits 0x01 o), VxOp.of_toBits]; exact check_ok rfl h
theorem vsub (o : VxOp) : Statement (.vsub o) := fun h => by
  have e : ∀ {w}, w / 2 ^ 40 = 0x02 → decodeVx w = check w [] (.vsub (.ofBits w)) := fun k => by unfold decodeVx; rw [k]; rfl
  show decodeVx (0x02 * 2 ^ 40 + o.toBits) = _
  rw [e (VxOp.op_toBits 0x02 o), VxOp.of_toBits]; exact check_ok rfl h
theorem vadds (o : VxOp) : Statement (.vadds o) := fun h => by
  have e : ∀ {w}, w / 2 ^ 40 = 0x03 → decodeVx w = check w [] (.vadds (.ofBits w)) := fun k => by unfold decodeVx; rw [k]; rfl
  show decodeVx (0x03 * 2 ^ 40 + o.toBits) = _
  rw [e (VxOp.op_toBits 0x03 o), VxOp.of_toBits]; exact check_ok rfl h
theorem vaddsu (o : VxOp) : Statement (.vaddsu o) := fun h => by
  have e : ∀ {w}, w / 2 ^ 40 = 0x04 → decodeVx w = check w [] (.vaddsu (.ofBits w)) := fun k => by unfold decodeVx; rw [k]; rfl
  show decodeVx (0x04 * 2 ^ 40 + o.toBits) = _
  rw [e (VxOp.op_toBits 0x04 o), VxOp.of_toBits]; exact check_ok rfl h
theorem vsubs (o : VxOp) : Statement (.vsubs o) := fun h => by
  have e : ∀ {w}, w / 2 ^ 40 = 0x05 → decodeVx w = check w [] (.vsubs (.ofBits w)) := fun k => by unfold decodeVx; rw [k]; rfl
  show decodeVx (0x05 * 2 ^ 40 + o.toBits) = _
  rw [e (VxOp.op_toBits 0x05 o), VxOp.of_toBits]; exact check_ok rfl h
theorem vsubsu (o : VxOp) : Statement (.vsubsu o) := fun h => by
  have e : ∀ {w}, w / 2 ^ 40 = 0x06 → decodeVx w = check w [] (.vsubsu (.ofBits w)) := fun k => by unfold decodeVx; rw [k]; rfl
  show decodeVx (0x06 * 2 ^ 40 + o.toBits) = _
  rw [e (VxOp.op_toBits 0x06 o), VxOp.of_toBits]; exact check_ok rfl h
theorem vmul (o : VxOp) : Statement (.vmul o) := fun h => by
  have e : ∀ {w}, w / 2 ^ 40 = 0x07 → decodeVx w = check w [] (.vmul (.ofBits w)) := fun k => by unfold decodeVx; rw [k]; rfl
  show decodeVx (0x07 * 2 ^ 40 + o.toBits) = _
  rw [e (VxOp.op_toBits 0x07 o), VxOp.of_toBits]; exact check_ok rfl h
theorem vmulh (o : VxOp) : Statement (.vmulh o) := fun h => by
  have e : ∀ {w}, w / 2 ^ 40 = 0x08 → decodeVx w = check w [] (.vmulh (.ofBits w)) := fun k => by unfold decodeVx; rw [k]; rfl
  show decodeVx (0x08 * 2 ^ 40 + o.toBits) = _
  rw [e (VxOp.op_toBits 0x08 o), VxOp.of_toBits]; exact check_ok rfl h
theorem vmulhu (o : VxOp) : Statement (.vmulhu o) := fun h => by
  have e : ∀ {w}, w / 2 ^ 40 = 0x09 → decodeVx w = check w [] (.vmulhu (.ofBits w)) := fun k => by unfold decodeVx; rw [k]; rfl
  show decodeVx (0x09 * 2 ^ 40 + o.toBits) = _
  rw [e (VxOp.op_toBits 0x09 o), VxOp.of_toBits]; exact check_ok rfl h
theorem vmulw (o : VxOp) : Statement (.vmulw o) := fun h => by
  have e : ∀ {w}, w / 2 ^ 40 = 0x0A → decodeVx w = check w [] (.vmulw (.ofBits w)) := fun k => by unfold decodeVx; rw [k]; rfl
  show decodeVx (0x0A * 2 ^ 40 + o.toBits) = _
  rw [e (VxOp.op_toBits 0x0A o), VxOp.of_toBits]; exact check_ok rfl h
theorem vmulwu (o : VxOp) : Statement (.vmulwu o) := fun h => by
  have e : ∀ {w}, w / 2 ^ 40 = 0x0B → decodeVx w = check w [] (.vmulwu (.ofBits w)) := fun k => by unfold decodeVx; rw [k]; rfl
  show decodeVx (0x0B * 2 ^ 40 + o.toBits) = _
  rw [e (VxOp.op_toBits 0x0B o), VxOp.of_toBits]; exact check_ok rfl h
theorem vmacw (o : VxOp) : Statement (.vmacw o) := fun h => by
  have e : ∀ {w}, w / 2 ^ 40 = 0x0C → decodeVx w = check w [] (.vmacw (.ofBits w)) := fun k => by unfold decodeVx; rw [k]; rfl
  show decodeVx (0x0C * 2 ^ 40 + o.toBits) = _
  rw [e (VxOp.op_toBits 0x0C o), VxOp.of_toBits]; exact check_ok rfl h
theorem vmacwu (o : VxOp) : Statement (.vmacwu o) := fun h => by
  have e : ∀ {w}, w / 2 ^ 40 = 0x0D → decodeVx w = check w [] (.vmacwu (.ofBits w)) := fun k => by unfold decodeVx; rw [k]; rfl
  show decodeVx (0x0D * 2 ^ 40 + o.toBits) = _
  rw [e (VxOp.op_toBits 0x0D o), VxOp.of_toBits]; exact check_ok rfl h
theorem vand (o : VxOp) : Statement (.vand o) := fun h => by
  have e : ∀ {w}, w / 2 ^ 40 = 0x0E → decodeVx w = check w [] (.vand (.ofBits w)) := fun k => by unfold decodeVx; rw [k]; rfl
  show decodeVx (0x0E * 2 ^ 40 + o.toBits) = _
  rw [e (VxOp.op_toBits 0x0E o), VxOp.of_toBits]; exact check_ok rfl h
theorem vor (o : VxOp) : Statement (.vor o) := fun h => by
  have e : ∀ {w}, w / 2 ^ 40 = 0x0F → decodeVx w = check w [] (.vor (.ofBits w)) := fun k => by unfold decodeVx; rw [k]; rfl
  show decodeVx (0x0F * 2 ^ 40 + o.toBits) = _
  rw [e (VxOp.op_toBits 0x0F o), VxOp.of_toBits]; exact check_ok rfl h
theorem vxor (o : VxOp) : Statement (.vxor o) := fun h => by
  have e : ∀ {w}, w / 2 ^ 40 = 0x10 → decodeVx w = check w [] (.vxor (.ofBits w)) := fun k => by unfold decodeVx; rw [k]; rfl
  show decodeVx (0x10 * 2 ^ 40 + o.toBits) = _
  rw [e (VxOp.op_toBits 0x10 o), VxOp.of_toBits]; exact check_ok rfl h
theorem vandn (o : VxOp) : Statement (.vandn o) := fun h => by
  have e : ∀ {w}, w / 2 ^ 40 = 0x11 → decodeVx w = check w [] (.vandn (.ofBits w)) := fun k => by unfold decodeVx; rw [k]; rfl
  show decodeVx (0x11 * 2 ^ 40 + o.toBits) = _
  rw [e (VxOp.op_toBits 0x11 o), VxOp.of_toBits]; exact check_ok rfl h
theorem vshl (o : VxOp) : Statement (.vshl o) := fun h => by
  have e : ∀ {w}, w / 2 ^ 40 = 0x12 → decodeVx w = check w [] (.vshl (.ofBits w)) := fun k => by unfold decodeVx; rw [k]; rfl
  show decodeVx (0x12 * 2 ^ 40 + o.toBits) = _
  rw [e (VxOp.op_toBits 0x12 o), VxOp.of_toBits]; exact check_ok rfl h
theorem vshr (o : VxOp) : Statement (.vshr o) := fun h => by
  have e : ∀ {w}, w / 2 ^ 40 = 0x13 → decodeVx w = check w [] (.vshr (.ofBits w)) := fun k => by unfold decodeVx; rw [k]; rfl
  show decodeVx (0x13 * 2 ^ 40 + o.toBits) = _
  rw [e (VxOp.op_toBits 0x13 o), VxOp.of_toBits]; exact check_ok rfl h
theorem vsra (o : VxOp) : Statement (.vsra o) := fun h => by
  have e : ∀ {w}, w / 2 ^ 40 = 0x14 → decodeVx w = check w [] (.vsra (.ofBits w)) := fun k => by unfold decodeVx; rw [k]; rfl
  show decodeVx (0x14 * 2 ^ 40 + o.toBits) = _
  rw [e (VxOp.op_toBits 0x14 o), VxOp.of_toBits]; exact check_ok rfl h
theorem vmin (o : VxOp) : Statement (.vmin o) := fun h => by
  have e : ∀ {w}, w / 2 ^ 40 = 0x15 → decodeVx w = check w [] (.vmin (.ofBits w)) := fun k => by unfold decodeVx; rw [k]; rfl
  show decodeVx (0x15 * 2 ^ 40 + o.toBits) = _
  rw [e (VxOp.op_toBits 0x15 o), VxOp.of_toBits]; exact check_ok rfl h
theorem vmax (o : VxOp) : Statement (.vmax o) := fun h => by
  have e : ∀ {w}, w / 2 ^ 40 = 0x16 → decodeVx w = check w [] (.vmax (.ofBits w)) := fun k => by unfold decodeVx; rw [k]; rfl
  show decodeVx (0x16 * 2 ^ 40 + o.toBits) = _
  rw [e (VxOp.op_toBits 0x16 o), VxOp.of_toBits]; exact check_ok rfl h
theorem vminu (o : VxOp) : Statement (.vminu o) := fun h => by
  have e : ∀ {w}, w / 2 ^ 40 = 0x17 → decodeVx w = check w [] (.vminu (.ofBits w)) := fun k => by unfold decodeVx; rw [k]; rfl
  show decodeVx (0x17 * 2 ^ 40 + o.toBits) = _
  rw [e (VxOp.op_toBits 0x17 o), VxOp.of_toBits]; exact check_ok rfl h
theorem vmaxu (o : VxOp) : Statement (.vmaxu o) := fun h => by
  have e : ∀ {w}, w / 2 ^ 40 = 0x18 → decodeVx w = check w [] (.vmaxu (.ofBits w)) := fun k => by unfold decodeVx; rw [k]; rfl
  show decodeVx (0x18 * 2 ^ 40 + o.toBits) = _
  rw [e (VxOp.op_toBits 0x18 o), VxOp.of_toBits]; exact check_ok rfl h
theorem vabs (o : VxOp) : Statement (.vabs o) := fun h => by
  have e : ∀ {w}, w / 2 ^ 40 = 0x19 → decodeVx w = check w [] (.vabs (.ofBits w)) := fun k => by unfold decodeVx; rw [k]; rfl
  show decodeVx (0x19 * 2 ^ 40 + o.toBits) = _
  rw [e (VxOp.op_toBits 0x19 o), VxOp.of_toBits]; exact check_ok rfl h
theorem vavg (o : VxOp) : Statement (.vavg o) := fun h => by
  have e : ∀ {w}, w / 2 ^ 40 = 0x1A → decodeVx w = check w [] (.vavg (.ofBits w)) := fun k => by unfold decodeVx; rw [k]; rfl
  show decodeVx (0x1A * 2 ^ 40 + o.toBits) = _
  rw [e (VxOp.op_toBits 0x1A o), VxOp.of_toBits]; exact check_ok rfl h
theorem vclz (o : VxOp) : Statement (.vclz o) := fun h => by
  have e : ∀ {w}, w / 2 ^ 40 = 0x1B → decodeVx w = check w [] (.vclz (.ofBits w)) := fun k => by unfold decodeVx; rw [k]; rfl
  show decodeVx (0x1B * 2 ^ 40 + o.toBits) = _
  rw [e (VxOp.op_toBits 0x1B o), VxOp.of_toBits]; exact check_ok rfl h
theorem vpopc (o : VxOp) : Statement (.vpopc o) := fun h => by
  have e : ∀ {w}, w / 2 ^ 40 = 0x1C → decodeVx w = check w [] (.vpopc (.ofBits w)) := fun k => by unfold decodeVx; rw [k]; rfl
  show decodeVx (0x1C * 2 ^ 40 + o.toBits) = _
  rw [e (VxOp.op_toBits 0x1C o), VxOp.of_toBits]; exact check_ok rfl h
theorem vshli (o : VxOp) : Statement (.vshli o) := fun h => by
  have e : ∀ {w}, w / 2 ^ 40 = 0x1D → decodeVx w = check w [] (.vshli (.ofBits w)) := fun k => by unfold decodeVx; rw [k]; rfl
  show decodeVx (0x1D * 2 ^ 40 + o.toBits) = _
  rw [e (VxOp.op_toBits 0x1D o), VxOp.of_toBits]; exact check_ok rfl h
theorem vshri (o : VxOp) : Statement (.vshri o) := fun h => by
  have e : ∀ {w}, w / 2 ^ 40 = 0x1E → decodeVx w = check w [] (.vshri (.ofBits w)) := fun k => by unfold decodeVx; rw [k]; rfl
  show decodeVx (0x1E * 2 ^ 40 + o.toBits) = _
  rw [e (VxOp.op_toBits 0x1E o), VxOp.of_toBits]; exact check_ok rfl h
theorem vsrai (o : VxOp) : Statement (.vsrai o) := fun h => by
  have e : ∀ {w}, w / 2 ^ 40 = 0x1F → decodeVx w = check w [] (.vsrai (.ofBits w)) := fun k => by unfold decodeVx; rw [k]; rfl
  show decodeVx (0x1F * 2 ^ 40 + o.toBits) = _
  rw [e (VxOp.op_toBits 0x1F o), VxOp.of_toBits]; exact check_ok rfl h
theorem vfadd (o : VxOp) : Statement (.vfadd o) := fun h => by
  have e : ∀ {w}, w / 2 ^ 40 = 0x20 → decodeVx w = check w [] (.vfadd (.ofBits w)) := fun k => by unfold decodeVx; rw [k]; rfl
  show decodeVx (0x20 * 2 ^ 40 + o.toBits) = _
  rw [e (VxOp.op_toBits 0x20 o), VxOp.of_toBits]; exact check_ok rfl h
theorem vfsub (o : VxOp) : Statement (.vfsub o) := fun h => by
  have e : ∀ {w}, w / 2 ^ 40 = 0x21 → decodeVx w = check w [] (.vfsub (.ofBits w)) := fun k => by unfold decodeVx; rw [k]; rfl
  show decodeVx (0x21 * 2 ^ 40 + o.toBits) = _
  rw [e (VxOp.op_toBits 0x21 o), VxOp.of_toBits]; exact check_ok rfl h
theorem vfmul (o : VxOp) : Statement (.vfmul o) := fun h => by
  have e : ∀ {w}, w / 2 ^ 40 = 0x22 → decodeVx w = check w [] (.vfmul (.ofBits w)) := fun k => by unfold decodeVx; rw [k]; rfl
  show decodeVx (0x22 * 2 ^ 40 + o.toBits) = _
  rw [e (VxOp.op_toBits 0x22 o), VxOp.of_toBits]; exact check_ok rfl h
theorem vffma (o : VxOp) : Statement (.vffma o) := fun h => by
  have e : ∀ {w}, w / 2 ^ 40 = 0x23 → decodeVx w = check w [] (.vffma (.ofBits w)) := fun k => by unfold decodeVx; rw [k]; rfl
  show decodeVx (0x23 * 2 ^ 40 + o.toBits) = _
  rw [e (VxOp.op_toBits 0x23 o), VxOp.of_toBits]; exact check_ok rfl h
theorem vfmin (o : VxOp) : Statement (.vfmin o) := fun h => by
  have e : ∀ {w}, w / 2 ^ 40 = 0x24 → decodeVx w = check w [] (.vfmin (.ofBits w)) := fun k => by unfold decodeVx; rw [k]; rfl
  show decodeVx (0x24 * 2 ^ 40 + o.toBits) = _
  rw [e (VxOp.op_toBits 0x24 o), VxOp.of_toBits]; exact check_ok rfl h
theorem vfmax (o : VxOp) : Statement (.vfmax o) := fun h => by
  have e : ∀ {w}, w / 2 ^ 40 = 0x25 → decodeVx w = check w [] (.vfmax (.ofBits w)) := fun k => by unfold decodeVx; rw [k]; rfl
  show decodeVx (0x25 * 2 ^ 40 + o.toBits) = _
  rw [e (VxOp.op_toBits 0x25 o), VxOp.of_toBits]; exact check_ok rfl h
theorem vfabs (o : VxOp) : Statement (.vfabs o) := fun h => by
  have e : ∀ {w}, w / 2 ^ 40 = 0x26 → decodeVx w = check w [] (.vfabs (.ofBits w)) := fun k => by unfold decodeVx; rw [k]; rfl
  show decodeVx (0x26 * 2 ^ 40 + o.toBits) = _
  rw [e (VxOp.op_toBits 0x26 o), VxOp.of_toBits]; exact check_ok rfl h
theorem vfneg (o : VxOp) : Statement (.vfneg o) := fun h => by
  have e : ∀ {w}, w / 2 ^ 40 = 0x27 → decodeVx w = check w [] (.vfneg (.ofBits w)) := fun k => by unfold decodeVx; rw [k]; rfl
  show decodeVx (0x27 * 2 ^ 40 + o.toBits) = _
  rw [e (VxOp.op_toBits 0x27 o), VxOp.of_toBits]; exact check_ok rfl h
theorem vfrcp (o : VxOp) : Statement (.vfrcp o) := fun h => by
  have e : ∀ {w}, w / 2 ^ 40 = 0x28 → decodeVx w = check w [] (.vfrcp (.ofBits w)) := fun k => by unfold decodeVx; rw [k]; rfl
  show decodeVx (0x28 * 2 ^ 40 + o.toBits) = _
  rw [e (VxOp.op_toBits 0x28 o), VxOp.of_toBits]; exact check_ok rfl h
theorem vfrsq (o : VxOp) : Statement (.vfrsq o) := fun h => by
  have e : ∀ {w}, w / 2 ^ 40 = 0x29 → decodeVx w = check w [] (.vfrsq (.ofBits w)) := fun k => by unfold decodeVx; rw [k]; rfl
  show decodeVx (0x29 * 2 ^ 40 + o.toBits) = _
  rw [e (VxOp.op_toBits 0x29 o), VxOp.of_toBits]; exact check_ok rfl h
theorem vfrcps (o : VxOp) : Statement (.vfrcps o) := fun h => by
  have e : ∀ {w}, w / 2 ^ 40 = 0x2A → decodeVx w = check w [] (.vfrcps (.ofBits w)) := fun k => by unfold decodeVx; rw [k]; rfl
  show decodeVx (0x2A * 2 ^ 40 + o.toBits) = _
  rw [e (VxOp.op_toBits 0x2A o), VxOp.of_toBits]; exact check_ok rfl h
theorem vfrsqs (o : VxOp) : Statement (.vfrsqs o) := fun h => by
  have e : ∀ {w}, w / 2 ^ 40 = 0x2B → decodeVx w = check w [] (.vfrsqs (.ofBits w)) := fun k => by unfold decodeVx; rw [k]; rfl
  show decodeVx (0x2B * 2 ^ 40 + o.toBits) = _
  rw [e (VxOp.op_toBits 0x2B o), VxOp.of_toBits]; exact check_ok rfl h
theorem vfexp2 (o : VxOp) : Statement (.vfexp2 o) := fun h => by
  have e : ∀ {w}, w / 2 ^ 40 = 0x2C → decodeVx w = check w [] (.vfexp2 (.ofBits w)) := fun k => by unfold decodeVx; rw [k]; rfl
  show decodeVx (0x2C * 2 ^ 40 + o.toBits) = _
  rw [e (VxOp.op_toBits 0x2C o), VxOp.of_toBits]; exact check_ok rfl h
theorem vfscale (o : VxOp) : Statement (.vfscale o) := fun h => by
  have e : ∀ {w}, w / 2 ^ 40 = 0x2D → decodeVx w = check w [] (.vfscale (.ofBits w)) := fun k => by unfold decodeVx; rw [k]; rfl
  show decodeVx (0x2D * 2 ^ 40 + o.toBits) = _
  rw [e (VxOp.op_toBits 0x2D o), VxOp.of_toBits]; exact check_ok rfl h
theorem vceq (o : VxOp) : Statement (.vceq o) := fun h => by
  have e : ∀ {w}, w / 2 ^ 40 = 0x38 → decodeVx w = check w [] (.vceq (.ofBits w)) := fun k => by unfold decodeVx; rw [k]; rfl
  show decodeVx (0x38 * 2 ^ 40 + o.toBits) = _
  rw [e (VxOp.op_toBits 0x38 o), VxOp.of_toBits]; exact check_ok rfl h
theorem vclt (o : VxOp) : Statement (.vclt o) := fun h => by
  have e : ∀ {w}, w / 2 ^ 40 = 0x39 → decodeVx w = check w [] (.vclt (.ofBits w)) := fun k => by unfold decodeVx; rw [k]; rfl
  show decodeVx (0x39 * 2 ^ 40 + o.toBits) = _
  rw [e (VxOp.op_toBits 0x39 o), VxOp.of_toBits]; exact check_ok rfl h
theorem vcltu (o : VxOp) : Statement (.vcltu o) := fun h => by
  have e : ∀ {w}, w / 2 ^ 40 = 0x3A → decodeVx w = check w [] (.vcltu (.ofBits w)) := fun k => by unfold decodeVx; rw [k]; rfl
  show decodeVx (0x3A * 2 ^ 40 + o.toBits) = _
  rw [e (VxOp.op_toBits 0x3A o), VxOp.of_toBits]; exact check_ok rfl h
theorem vfceq (o : VxOp) : Statement (.vfceq o) := fun h => by
  have e : ∀ {w}, w / 2 ^ 40 = 0x3B → decodeVx w = check w [] (.vfceq (.ofBits w)) := fun k => by unfold decodeVx; rw [k]; rfl
  show decodeVx (0x3B * 2 ^ 40 + o.toBits) = _
  rw [e (VxOp.op_toBits 0x3B o), VxOp.of_toBits]; exact check_ok rfl h
theorem vfclt (o : VxOp) : Statement (.vfclt o) := fun h => by
  have e : ∀ {w}, w / 2 ^ 40 = 0x3C → decodeVx w = check w [] (.vfclt (.ofBits w)) := fun k => by unfold decodeVx; rw [k]; rfl
  show decodeVx (0x3C * 2 ^ 40 + o.toBits) = _
  rw [e (VxOp.op_toBits 0x3C o), VxOp.of_toBits]; exact check_ok rfl h
theorem vfcle (o : VxOp) : Statement (.vfcle o) := fun h => by
  have e : ∀ {w}, w / 2 ^ 40 = 0x3D → decodeVx w = check w [] (.vfcle (.ofBits w)) := fun k => by unfold decodeVx; rw [k]; rfl
  show decodeVx (0x3D * 2 ^ 40 + o.toBits) = _
  rw [e (VxOp.op_toBits 0x3D o), VxOp.of_toBits]; exact check_ok rfl h
theorem vfcun (o : VxOp) : Statement (.vfcun o) := fun h => by
  have e : ∀ {w}, w / 2 ^ 40 = 0x3E → decodeVx w = check w [] (.vfcun (.ofBits w)) := fun k => by unfold decodeVx; rw [k]; rfl
  show decodeVx (0x3E * 2 ^ 40 + o.toBits) = _
  rw [e (VxOp.op_toBits 0x3E o), VxOp.of_toBits]; exact check_ok rfl h
theorem mand (o : VxOp) : Statement (.mand o) := fun h => by
  have e : ∀ {w}, w / 2 ^ 40 = 0x40 → decodeVx w = check w [] (.mand (.ofBits w)) := fun k => by unfold decodeVx; rw [k]; rfl
  show decodeVx (0x40 * 2 ^ 40 + o.toBits) = _
  rw [e (VxOp.op_toBits 0x40 o), VxOp.of_toBits]; exact check_ok rfl h
theorem mor (o : VxOp) : Statement (.mor o) := fun h => by
  have e : ∀ {w}, w / 2 ^ 40 = 0x41 → decodeVx w = check w [] (.mor (.ofBits w)) := fun k => by unfold decodeVx; rw [k]; rfl
  show decodeVx (0x41 * 2 ^ 40 + o.toBits) = _
  rw [e (VxOp.op_toBits 0x41 o), VxOp.of_toBits]; exact check_ok rfl h
theorem mxor (o : VxOp) : Statement (.mxor o) := fun h => by
  have e : ∀ {w}, w / 2 ^ 40 = 0x42 → decodeVx w = check w [] (.mxor (.ofBits w)) := fun k => by unfold decodeVx; rw [k]; rfl
  show decodeVx (0x42 * 2 ^ 40 + o.toBits) = _
  rw [e (VxOp.op_toBits 0x42 o), VxOp.of_toBits]; exact check_ok rfl h
theorem mnot (o : VxOp) : Statement (.mnot o) := fun h => by
  have e : ∀ {w}, w / 2 ^ 40 = 0x43 → decodeVx w = check w [] (.mnot (.ofBits w)) := fun k => by unfold decodeVx; rw [k]; rfl
  show decodeVx (0x43 * 2 ^ 40 + o.toBits) = _
  rw [e (VxOp.op_toBits 0x43 o), VxOp.of_toBits]; exact check_ok rfl h
theorem mpop (o : VxOp) : Statement (.mpop o) := fun h => by
  have e : ∀ {w}, w / 2 ^ 40 = 0x44 → decodeVx w = check w [] (.mpop (.ofBits w)) := fun k => by unfold decodeVx; rw [k]; rfl
  show decodeVx (0x44 * 2 ^ 40 + o.toBits) = _
  rw [e (VxOp.op_toBits 0x44 o), VxOp.of_toBits]; exact check_ok rfl h
theorem mbit (o : VxOp) : Statement (.mbit o) := fun h => by
  have e : ∀ {w}, w / 2 ^ 40 = 0x45 → decodeVx w = check w [] (.mbit (.ofBits w)) := fun k => by unfold decodeVx; rw [k]; rfl
  show decodeVx (0x45 * 2 ^ 40 + o.toBits) = _
  rw [e (VxOp.op_toBits 0x45 o), VxOp.of_toBits]; exact check_ok rfl h
theorem mtov (o : VxOp) : Statement (.mtov o) := fun h => by
  have e : ∀ {w}, w / 2 ^ 40 = 0x46 → decodeVx w = check w [] (.mtov (.ofBits w)) := fun k => by unfold decodeVx; rw [k]; rfl
  show decodeVx (0x46 * 2 ^ 40 + o.toBits) = _
  rw [e (VxOp.op_toBits 0x46 o), VxOp.of_toBits]; exact check_ok rfl h
theorem mfirst (o : VxOp) : Statement (.mfirst o) := fun h => by
  have e : ∀ {w}, w / 2 ^ 40 = 0x47 → decodeVx w = check w [] (.mfirst (.ofBits w)) := fun k => by unfold decodeVx; rw [k]; rfl
  show decodeVx (0x47 * 2 ^ 40 + o.toBits) = _
  rw [e (VxOp.op_toBits 0x47 o), VxOp.of_toBits]; exact check_ok rfl h
theorem vsel (o : VxOp) : Statement (.vsel o) := fun h => by
  have e : ∀ {w}, w / 2 ^ 40 = 0x48 → decodeVx w = check w [] (.vsel (.ofBits w)) := fun k => by unfold decodeVx; rw [k]; rfl
  show decodeVx (0x48 * 2 ^ 40 + o.toBits) = _
  rw [e (VxOp.op_toBits 0x48 o), VxOp.of_toBits]; exact check_ok rfl h
theorem vmov (o : VxOp) : Statement (.vmov o) := fun h => by
  have e : ∀ {w}, w / 2 ^ 40 = 0x49 → decodeVx w = check w [] (.vmov (.ofBits w)) := fun k => by unfold decodeVx; rw [k]; rfl
  show decodeVx (0x49 * 2 ^ 40 + o.toBits) = _
  rw [e (VxOp.op_toBits 0x49 o), VxOp.of_toBits]; exact check_ok rfl h
theorem vsplat (o : VxOp) : Statement (.vsplat o) := fun h => by
  have e : ∀ {w}, w / 2 ^ 40 = 0x4A → decodeVx w = check w [] (.vsplat (.ofBits w)) := fun k => by unfold decodeVx; rw [k]; rfl
  show decodeVx (0x4A * 2 ^ 40 + o.toBits) = _
  rw [e (VxOp.op_toBits 0x4A o), VxOp.of_toBits]; exact check_ok rfl h
theorem vext (o : VxOp) : Statement (.vext o) := fun h => by
  have e : ∀ {w}, w / 2 ^ 40 = 0x4B → decodeVx w = check w [] (.vext (.ofBits w)) := fun k => by unfold decodeVx; rw [k]; rfl
  show decodeVx (0x4B * 2 ^ 40 + o.toBits) = _
  rw [e (VxOp.op_toBits 0x4B o), VxOp.of_toBits]; exact check_ok rfl h
theorem vins (o : VxOp) : Statement (.vins o) := fun h => by
  have e : ∀ {w}, w / 2 ^ 40 = 0x4C → decodeVx w = check w [] (.vins (.ofBits w)) := fun k => by unfold decodeVx; rw [k]; rfl
  show decodeVx (0x4C * 2 ^ 40 + o.toBits) = _
  rw [e (VxOp.op_toBits 0x4C o), VxOp.of_toBits]; exact check_ok rfl h
theorem viota (o : VxOp) : Statement (.viota o) := fun h => by
  have e : ∀ {w}, w / 2 ^ 40 = 0x4D → decodeVx w = check w [] (.viota (.ofBits w)) := fun k => by unfold decodeVx; rw [k]; rfl
  show decodeVx (0x4D * 2 ^ 40 + o.toBits) = _
  rw [e (VxOp.op_toBits 0x4D o), VxOp.of_toBits]; exact check_ok rfl h
theorem vzero (o : VxOp) : Statement (.vzero o) := fun h => by
  have e : ∀ {w}, w / 2 ^ 40 = 0x4E → decodeVx w = check w [] (.vzero (.ofBits w)) := fun k => by unfold decodeVx; rw [k]; rfl
  show decodeVx (0x4E * 2 ^ 40 + o.toBits) = _
  rw [e (VxOp.op_toBits 0x4E o), VxOp.of_toBits]; exact check_ok rfl h
theorem vcvt (o : VxOp) : Statement (.vcvt o) := fun h => by
  have e : ∀ {w}, w / 2 ^ 40 = 0x50 → decodeVx w = check w [] (.vcvt (.ofBits w)) := fun k => by unfold decodeVx; rw [k]; rfl
  show decodeVx (0x50 * 2 ^ 40 + o.toBits) = _
  rw [e (VxOp.op_toBits 0x50 o), VxOp.of_toBits]; exact check_ok rfl h
theorem vwiden (o : VxOp) : Statement (.vwiden o) := fun h => by
  have e : ∀ {w}, w / 2 ^ 40 = 0x51 → decodeVx w = check w [] (.vwiden (.ofBits w)) := fun k => by unfold decodeVx; rw [k]; rfl
  show decodeVx (0x51 * 2 ^ 40 + o.toBits) = _
  rw [e (VxOp.op_toBits 0x51 o), VxOp.of_toBits]; exact check_ok rfl h
theorem vnarrow (o : VxOp) : Statement (.vnarrow o) := fun h => by
  have e : ∀ {w}, w / 2 ^ 40 = 0x52 → decodeVx w = check w [] (.vnarrow (.ofBits w)) := fun k => by unfold decodeVx; rw [k]; rfl
  show decodeVx (0x52 * 2 ^ 40 + o.toBits) = _
  rw [e (VxOp.op_toBits 0x52 o), VxOp.of_toBits]; exact check_ok rfl h
theorem vnarrowu (o : VxOp) : Statement (.vnarrowu o) := fun h => by
  have e : ∀ {w}, w / 2 ^ 40 = 0x53 → decodeVx w = check w [] (.vnarrowu (.ofBits w)) := fun k => by unfold decodeVx; rw [k]; rfl
  show decodeVx (0x53 * 2 ^ 40 + o.toBits) = _
  rw [e (VxOp.op_toBits 0x53 o), VxOp.of_toBits]; exact check_ok rfl h
theorem vqmax (o : VxOp) : Statement (.vqmax o) := fun h => by
  have e : ∀ {w}, w / 2 ^ 40 = 0x58 → decodeVx w = check w [] (.vqmax (.ofBits w)) := fun k => by unfold decodeVx; rw [k]; rfl
  show decodeVx (0x58 * 2 ^ 40 + o.toBits) = _
  rw [e (VxOp.op_toBits 0x58 o), VxOp.of_toBits]; exact check_ok rfl h
theorem vqscale (o : VxOp) : Statement (.vqscale o) := fun h => by
  have e : ∀ {w}, w / 2 ^ 40 = 0x59 → decodeVx w = check w [] (.vqscale (.ofBits w)) := fun k => by unfold decodeVx; rw [k]; rfl
  show decodeVx (0x59 * 2 ^ 40 + o.toBits) = _
  rw [e (VxOp.op_toBits 0x59 o), VxOp.of_toBits]; exact check_ok rfl h
theorem vqcvt (o : VxOp) : Statement (.vqcvt o) := fun h => by
  have e : ∀ {w}, w / 2 ^ 40 = 0x5A → decodeVx w = check w [] (.vqcvt (.ofBits w)) := fun k => by unfold decodeVx; rw [k]; rfl
  show decodeVx (0x5A * 2 ^ 40 + o.toBits) = _
  rw [e (VxOp.op_toBits 0x5A o), VxOp.of_toBits]; exact check_ok rfl h
theorem vdeq (o : VxOp) : Statement (.vdeq o) := fun h => by
  have e : ∀ {w}, w / 2 ^ 40 = 0x5B → decodeVx w = check w [] (.vdeq (.ofBits w)) := fun k => by unfold decodeVx; rw [k]; rfl
  show decodeVx (0x5B * 2 ^ 40 + o.toBits) = _
  rw [e (VxOp.op_toBits 0x5B o), VxOp.of_toBits]; exact check_ok rfl h
theorem vrsum (o : VxOp) : Statement (.vrsum o) := fun h => by
  have e : ∀ {w}, w / 2 ^ 40 = 0x60 → decodeVx w = check w [] (.vrsum (.ofBits w)) := fun k => by unfold decodeVx; rw [k]; rfl
  show decodeVx (0x60 * 2 ^ 40 + o.toBits) = _
  rw [e (VxOp.op_toBits 0x60 o), VxOp.of_toBits]; exact check_ok rfl h
theorem vrsumu (o : VxOp) : Statement (.vrsumu o) := fun h => by
  have e : ∀ {w}, w / 2 ^ 40 = 0x61 → decodeVx w = check w [] (.vrsumu (.ofBits w)) := fun k => by unfold decodeVx; rw [k]; rfl
  show decodeVx (0x61 * 2 ^ 40 + o.toBits) = _
  rw [e (VxOp.op_toBits 0x61 o), VxOp.of_toBits]; exact check_ok rfl h
theorem vrmax (o : VxOp) : Statement (.vrmax o) := fun h => by
  have e : ∀ {w}, w / 2 ^ 40 = 0x62 → decodeVx w = check w [] (.vrmax (.ofBits w)) := fun k => by unfold decodeVx; rw [k]; rfl
  show decodeVx (0x62 * 2 ^ 40 + o.toBits) = _
  rw [e (VxOp.op_toBits 0x62 o), VxOp.of_toBits]; exact check_ok rfl h
theorem vrmin (o : VxOp) : Statement (.vrmin o) := fun h => by
  have e : ∀ {w}, w / 2 ^ 40 = 0x63 → decodeVx w = check w [] (.vrmin (.ofBits w)) := fun k => by unfold decodeVx; rw [k]; rfl
  show decodeVx (0x63 * 2 ^ 40 + o.toBits) = _
  rw [e (VxOp.op_toBits 0x63 o), VxOp.of_toBits]; exact check_ok rfl h
theorem vfrsum (o : VxOp) : Statement (.vfrsum o) := fun h => by
  have e : ∀ {w}, w / 2 ^ 40 = 0x64 → decodeVx w = check w [] (.vfrsum (.ofBits w)) := fun k => by unfold decodeVx; rw [k]; rfl
  show decodeVx (0x64 * 2 ^ 40 + o.toBits) = _
  rw [e (VxOp.op_toBits 0x64 o), VxOp.of_toBits]; exact check_ok rfl h
theorem vfrmax (o : VxOp) : Statement (.vfrmax o) := fun h => by
  have e : ∀ {w}, w / 2 ^ 40 = 0x65 → decodeVx w = check w [] (.vfrmax (.ofBits w)) := fun k => by unfold decodeVx; rw [k]; rfl
  show decodeVx (0x65 * 2 ^ 40 + o.toBits) = _
  rw [e (VxOp.op_toBits 0x65 o), VxOp.of_toBits]; exact check_ok rfl h
theorem vfrmin (o : VxOp) : Statement (.vfrmin o) := fun h => by
  have e : ∀ {w}, w / 2 ^ 40 = 0x66 → decodeVx w = check w [] (.vfrmin (.ofBits w)) := fun k => by unfold decodeVx; rw [k]; rfl
  show decodeVx (0x66 * 2 ^ 40 + o.toBits) = _
  rw [e (VxOp.op_toBits 0x66 o), VxOp.of_toBits]; exact check_ok rfl h
theorem vshuf (o : VxOp) : Statement (.vshuf o) := fun h => by
  have e : ∀ {w}, w / 2 ^ 40 = 0x68 → decodeVx w = check w [] (.vshuf (.ofBits w)) := fun k => by unfold decodeVx; rw [k]; rfl
  show decodeVx (0x68 * 2 ^ 40 + o.toBits) = _
  rw [e (VxOp.op_toBits 0x68 o), VxOp.of_toBits]; exact check_ok rfl h
theorem vrot (o : VxOp) : Statement (.vrot o) := fun h => by
  have e : ∀ {w}, w / 2 ^ 40 = 0x69 → decodeVx w = check w [] (.vrot (.ofBits w)) := fun k => by unfold decodeVx; rw [k]; rfl
  show decodeVx (0x69 * 2 ^ 40 + o.toBits) = _
  rw [e (VxOp.op_toBits 0x69 o), VxOp.of_toBits]; exact check_ok rfl h
theorem vzip (o : VxOp) : Statement (.vzip o) := fun h => by
  have e : ∀ {w}, w / 2 ^ 40 = 0x6A → decodeVx w = check w [] (.vzip (.ofBits w)) := fun k => by unfold decodeVx; rw [k]; rfl
  show decodeVx (0x6A * 2 ^ 40 + o.toBits) = _
  rw [e (VxOp.op_toBits 0x6A o), VxOp.of_toBits]; exact check_ok rfl h
theorem vunzip (o : VxOp) : Statement (.vunzip o) := fun h => by
  have e : ∀ {w}, w / 2 ^ 40 = 0x6B → decodeVx w = check w [] (.vunzip (.ofBits w)) := fun k => by unfold decodeVx; rw [k]; rfl
  show decodeVx (0x6B * 2 ^ 40 + o.toBits) = _
  rw [e (VxOp.op_toBits 0x6B o), VxOp.of_toBits]; exact check_ok rfl h
theorem vrev (o : VxOp) : Statement (.vrev o) := fun h => by
  have e : ∀ {w}, w / 2 ^ 40 = 0x6C → decodeVx w = check w [] (.vrev (.ofBits w)) := fun k => by unfold decodeVx; rw [k]; rfl
  show decodeVx (0x6C * 2 ^ 40 + o.toBits) = _
  rw [e (VxOp.op_toBits 0x6C o), VxOp.of_toBits]; exact check_ok rfl h
theorem vshrink (o : VxOp) : Statement (.vshrink o) := fun h => by
  have e : ∀ {w}, w / 2 ^ 40 = 0x70 → decodeVx w = check w [] (.vshrink (.ofBits w)) := fun k => by unfold decodeVx; rw [k]; rfl
  show decodeVx (0x70 * 2 ^ 40 + o.toBits) = _
  rw [e (VxOp.op_toBits 0x70 o), VxOp.of_toBits]; exact check_ok rfl h
theorem msq (o : MsqOp) : Statement (.msq o) := fun h => by
  have e : ∀ {w}, w / 2 ^ 27 = 0x01 → bit w 20 = false → decodeMx w = check w [] (.msq (.ofBits w)) := fun k b => by unfold decodeMx; rw [k, b]; rfl
  show decodeMx (0x01 * 2 ^ 27 + o.toBits) = _
  rw [e (MsqOp.op_toBits 0x01 o) (MsqOp.bit20_toBits 0x01 o), MsqOp.of_toBits]; exact check_ok rfl h
theorem msqTa (o : MsqOp) : Statement (.msqTa o) := fun h => by
  have e : ∀ {w}, w / 2 ^ 27 = 0x02 → bit w 20 = false → decodeMx w = check w [] (.msqTa (.ofBits w)) := fun k b => by unfold decodeMx; rw [k, b]; rfl
  show decodeMx (0x02 * 2 ^ 27 + o.toBits) = _
  rw [e (MsqOp.op_toBits 0x02 o) (MsqOp.bit20_toBits 0x02 o), MsqOp.of_toBits]; exact check_ok rfl h
theorem msqTb (o : MsqOp) : Statement (.msqTb o) := fun h => by
  have e : ∀ {w}, w / 2 ^ 27 = 0x03 → bit w 20 = false → decodeMx w = check w [] (.msqTb (.ofBits w)) := fun k b => by unfold decodeMx; rw [k, b]; rfl
  show decodeMx (0x03 * 2 ^ 27 + o.toBits) = _
  rw [e (MsqOp.op_toBits 0x03 o) (MsqOp.bit20_toBits 0x03 o), MsqOp.of_toBits]; exact check_ok rfl h
theorem msqTab (o : MsqOp) : Statement (.msqTab o) := fun h => by
  have e : ∀ {w}, w / 2 ^ 27 = 0x04 → bit w 20 = false → decodeMx w = check w [] (.msqTab (.ofBits w)) := fun k b => by unfold decodeMx; rw [k, b]; rfl
  show decodeMx (0x04 * 2 ^ 27 + o.toBits) = _
  rw [e (MsqOp.op_toBits 0x04 o) (MsqOp.bit20_toBits 0x04 o), MsqOp.of_toBits]; exact check_ok rfl h
theorem msqIndexed (o : MsqIxOp) : Statement (.msqIndexed o) := fun h => by
  have e0 : ∀ {w}, w / 2 ^ 27 = 1 → bit w 20 = true → decodeMx w = check w [] (.msqIndexed (.ofBits 0 w)) := fun k b => by unfold decodeMx; rw [k, b]; rfl
  have e1 : ∀ {w}, w / 2 ^ 27 = 2 → bit w 20 = true → decodeMx w = check w [] (.msqIndexed (.ofBits 1 w)) := fun k b => by unfold decodeMx; rw [k, b]; rfl
  have e2 : ∀ {w}, w / 2 ^ 27 = 3 → bit w 20 = true → decodeMx w = check w [] (.msqIndexed (.ofBits 2 w)) := fun k b => by unfold decodeMx; rw [k, b]; rfl
  have e3 : ∀ {w}, w / 2 ^ 27 = 4 → bit w 20 = true → decodeMx w = check w [] (.msqIndexed (.ofBits 3 w)) := fun k b => by unfold decodeMx; rw [k, b]; rfl
  show decodeMx ((o.form.toNat + 1) * 2 ^ 27 + 2 ^ 20 + o.toBits) = _
  have hb := MsqIxOp.bit20_toBits (o.form.toNat + 1) o
  have ho := MsqIxOp.of_toBits (o.form.toNat + 1) o
  have hk := MsqIxOp.op_toBits (o.form.toNat + 1) o
  have hf : ∀ f : BitVec 2, f = 0 ∨ f = 1 ∨ f = 2 ∨ f = 3 := by decide
  rcases hf o.form with hf | hf | hf | hf <;> (rw [hf] at hb ho hk ⊢)
  · rw [e0 hk hb, ho]; exact check_ok rfl h
  · rw [e1 hk hb, ho]; exact check_ok rfl h
  · rw [e2 hk hb, ho]; exact check_ok rfl h
  · rw [e3 hk hb, ho]; exact check_ok rfl h
theorem mzero (b : BitVec 7) : Statement (.mzero b) := fun h => by
  have e : ∀ {w}, w / 2 ^ 27 = 5 → decodeMx w = check w [(0, 0), (26, 8)] (.mzero (fld w 1 7)) := fun k => by unfold decodeMx; rw [k]; rfl
  show decodeMx (0x05 * 2 ^ 27 + b.toNat * 2) = _
  have := b.isLt
  have f0 : fld (0x05 * 2 ^ 27 + b.toNat * 2) 1 7 = b := fld_eq (by omega)
  rw [e (by omega), f0]; exact check_ok (by simp only [zeros, List.all_cons, List.all_nil, Bool.and_true, Bool.and_eq_true, beq_iff_eq]; omega) h
theorem mdrain (o : DrainOp) : Statement (.mdrain o) := fun h => by
  have e : ∀ {w}, w / 2 ^ 27 = 0x06 → decodeMx w = check w [(0, 0), (16, 8)] (.mdrain (.ofBits w)) := fun k => by unfold decodeMx; rw [k]; rfl
  show decodeMx (0x06 * 2 ^ 27 + o.toBits) = _
  rw [e (DrainOp.op_toBits 0x06 o), DrainOp.of_toBits]; exact check_ok (DrainOp.zeros_toBits 0x06 o) h
theorem mdrainm (o : DrainMOp) : Statement (.mdrainm o) := fun h => by
  have e : ∀ {w}, w / 2 ^ 27 = 0x07 → decodeMx w = check w [(0, 0), (9, 8)] (.mdrainm (.ofBits w)) := fun k => by unfold decodeMx; rw [k]; rfl
  show decodeMx (0x07 * 2 ^ 27 + o.toBits) = _
  rw [e (DrainMOp.op_toBits 0x07 o), DrainMOp.of_toBits]; exact check_ok (DrainMOp.zeros_toBits 0x07 o) h
theorem mclaim (s : BitVec 3) : Statement (.mclaim s) := fun h => by
  have e : ∀ {w}, w / 2 ^ 27 = 8 → decodeMx w = check w [(23, 0)] (.mclaim (fld w 24 3)) := fun k => by unfold decodeMx; rw [k]; rfl
  show decodeMx (0x08 * 2 ^ 27 + s.toNat * 2 ^ 24) = _
  have := s.isLt
  have f0 : fld (0x08 * 2 ^ 27 + s.toNat * 2 ^ 24) 24 3 = s := fld_eq (by omega)
  rw [e (by omega), f0]; exact check_ok (by simp only [zeros, List.all_cons, List.all_nil, Bool.and_true, beq_iff_eq]; omega) h
theorem mrel (s : BitVec 3) : Statement (.mrel s) := fun h => by
  have e : ∀ {w}, w / 2 ^ 27 = 9 → decodeMx w = check w [(23, 0)] (.mrel (fld w 24 3)) := fun k => by unfold decodeMx; rw [k]; rfl
  show decodeMx (0x09 * 2 ^ 27 + s.toNat * 2 ^ 24) = _
  have := s.isLt
  have f0 : fld (0x09 * 2 ^ 27 + s.toNat * 2 ^ 24) 24 3 = s := fld_eq (by omega)
  rw [e (by omega), f0]; exact check_ok (by simp only [zeros, List.all_cons, List.all_nil, Bool.and_true, beq_iff_eq]; omega) h
theorem mscl (o : SclOp) : Statement (.mscl o) := fun h => by
  have e : ∀ {w}, w / 2 ^ 27 = 0x0A → decodeMx w = check w [(11, 0)] (.mscl (.ofBits w)) := fun k => by unfold decodeMx; rw [k]; rfl
  show decodeMx (0x0A * 2 ^ 27 + o.toBits) = _
  rw [e (SclOp.op_toBits 0x0A o), SclOp.of_toBits]; exact check_ok (SclOp.zeros_toBits 0x0A o) h
theorem mstat (o : StatOp) : Statement (.mstat o) := fun h => by
  have e : ∀ {w}, w / 2 ^ 27 = 0x0B → decodeMx w = check w [(20, 0)] (.mstat (.ofBits w)) := fun k => by unfold decodeMx; rw [k]; rfl
  show decodeMx (0x0B * 2 ^ 27 + o.toBits) = _
  rw [e (StatOp.op_toBits 0x0B o), StatOp.of_toBits]; exact check_ok (StatOp.zeros_toBits 0x0B o) h
theorem vld (o : VMemOp) : Statement (.vld o) := fun h => by
  have e : ∀ {w}, w / 2 ^ 41 = 0x01 → decodeCp w = check w [(7, 5)] (.vld (.ofBits w)) := fun k => by unfold decodeCp; rw [k]; rfl
  show decodeCp (0x01 * 2 ^ 41 + o.toBits) = _
  rw [e (VMemOp.op_toBits 0x01 o), VMemOp.of_toBits]; exact check_ok (VMemOp.zeros_toBits 0x01 o) h
theorem vst (o : VMemOp) : Statement (.vst o) := fun h => by
  have e : ∀ {w}, w / 2 ^ 41 = 0x02 → decodeCp w = check w [(7, 5)] (.vst (.ofBits w)) := fun k => by unfold decodeCp; rw [k]; rfl
  show decodeCp (0x02 * 2 ^ 41 + o.toBits) = _
  rw [e (VMemOp.op_toBits 0x02 o), VMemOp.of_toBits]; exact check_ok (VMemOp.zeros_toBits 0x02 o) h
theorem vldx (o : VMemXOp) : Statement (.vldx o) := fun h => by
  have e : ∀ {w}, w / 2 ^ 41 = 0x03 → decodeCp w = check w [(7, 5), (18, 12)] (.vldx (.ofBits w)) := fun k => by unfold decodeCp; rw [k]; rfl
  show decodeCp (0x03 * 2 ^ 41 + o.toBits) = _
  rw [e (VMemXOp.op_toBits 0x03 o), VMemXOp.of_toBits]; exact check_ok (VMemXOp.zeros_toBits 0x03 o) h
theorem vstx (o : VMemXOp) : Statement (.vstx o) := fun h => by
  have e : ∀ {w}, w / 2 ^ 41 = 0x04 → decodeCp w = check w [(7, 5), (18, 12)] (.vstx (.ofBits w)) := fun k => by unfold decodeCp; rw [k]; rfl
  show decodeCp (0x04 * 2 ^ 41 + o.toBits) = _
  rw [e (VMemXOp.op_toBits 0x04 o), VMemXOp.of_toBits]; exact check_ok (VMemXOp.zeros_toBits 0x04 o) h
theorem vldb (o : VMemOp) : Statement (.vldb o) := fun h => by
  have e : ∀ {w}, w / 2 ^ 41 = 0x05 → decodeCp w = check w [(7, 5)] (.vldb (.ofBits w)) := fun k => by unfold decodeCp; rw [k]; rfl
  show decodeCp (0x05 * 2 ^ 41 + o.toBits) = _
  rw [e (VMemOp.op_toBits 0x05 o), VMemOp.of_toBits]; exact check_ok (VMemOp.zeros_toBits 0x05 o) h
theorem aadd (o : AtomOp) : Statement (.aadd o) := fun h => by
  have e : ∀ {w}, w / 2 ^ 41 = 0x08 → decodeCp w = check w [(7, 0), (40, 40)] (.aadd (.ofBits w)) := fun k => by unfold decodeCp; rw [k]; rfl
  show decodeCp (0x08 * 2 ^ 41 + o.toBits) = _
  rw [e (AtomOp.op_toBits 0x08 o), AtomOp.of_toBits]; exact check_ok (AtomOp.zeros_toBits 0x08 o) h
theorem amax (o : AtomOp) : Statement (.amax o) := fun h => by
  have e : ∀ {w}, w / 2 ^ 41 = 0x09 → decodeCp w = check w [(7, 0), (40, 40)] (.amax (.ofBits w)) := fun k => by unfold decodeCp; rw [k]; rfl
  show decodeCp (0x09 * 2 ^ 41 + o.toBits) = _
  rw [e (AtomOp.op_toBits 0x09 o), AtomOp.of_toBits]; exact check_ok (AtomOp.zeros_toBits 0x09 o) h
theorem amin (o : AtomOp) : Statement (.amin o) := fun h => by
  have e : ∀ {w}, w / 2 ^ 41 = 0x0A → decodeCp w = check w [(7, 0), (40, 40)] (.amin (.ofBits w)) := fun k => by unfold decodeCp; rw [k]; rfl
  show decodeCp (0x0A * 2 ^ 41 + o.toBits) = _
  rw [e (AtomOp.op_toBits 0x0A o), AtomOp.of_toBits]; exact check_ok (AtomOp.zeros_toBits 0x0A o) h
theorem axch (o : AtomOp) : Statement (.axch o) := fun h => by
  have e : ∀ {w}, w / 2 ^ 41 = 0x0B → decodeCp w = check w [(7, 0), (40, 40)] (.axch (.ofBits w)) := fun k => by unfold decodeCp; rw [k]; rfl
  show decodeCp (0x0B * 2 ^ 41 + o.toBits) = _
  rw [e (AtomOp.op_toBits 0x0B o), AtomOp.of_toBits]; exact check_ok (AtomOp.zeros_toBits 0x0B o) h
theorem acas (o : AtomOp) : Statement (.acas o) := fun h => by
  have e : ∀ {w}, w / 2 ^ 41 = 0x0C → decodeCp w = check w [(7, 0), (40, 40)] (.acas (.ofBits w)) := fun k => by unfold decodeCp; rw [k]; rfl
  show decodeCp (0x0C * 2 ^ 41 + o.toBits) = _
  rw [e (AtomOp.op_toBits 0x0C o), AtomOp.of_toBits]; exact check_ok (AtomOp.zeros_toBits 0x0C o) h
theorem send (o : SendOp) : Statement (.send o) := fun h => by
  have e : ∀ {w}, w / 2 ^ 41 = 0x10 → decodeCp w = check w [(4, 2), (34, 12)] (.send (.ofBits w)) := fun k => by unfold decodeCp; rw [k]; rfl
  show decodeCp (0x10 * 2 ^ 41 + o.toBits) = _
  rw [e (SendOp.op_toBits 0x10 o), SendOp.of_toBits]; exact check_ok (SendOp.zeros_toBits 0x10 o) h
theorem sends (o : SendsOp) : Statement (.sends o) := fun h => by
  have e : ∀ {w}, w / 2 ^ 41 = 0x11 → decodeCp w = check w [(4, 0), (34, 12), (40, 40)] (.sends (.ofBits w)) := fun k => by unfold decodeCp; rw [k]; rfl
  show decodeCp (0x11 * 2 ^ 41 + o.toBits) = _
  rw [e (SendsOp.op_toBits 0x11 o), SendsOp.of_toBits]; exact check_ok (SendsOp.zeros_toBits 0x11 o) h
theorem sendm (o : SendmOp) : Statement (.sendm o) := fun h => by
  have e : ∀ {w}, w / 2 ^ 41 = 0x15 → decodeCp w = check w [(4, 2), (40, 35)] (.sendm (.ofBits w)) := fun k => by unfold decodeCp; rw [k]; rfl
  show decodeCp (0x15 * 2 ^ 41 + o.toBits) = _
  rw [e (SendmOp.op_toBits 0x15 o), SendmOp.of_toBits]; exact check_ok (SendmOp.zeros_toBits 0x15 o) h
theorem recv (o : RecvOp) : Statement (.recv o) := fun h => by
  have e : ∀ {w}, w / 2 ^ 41 = 0x12 → decodeCp w = check w [(7, 2), (34, 12)] (.recv (.ofBits w)) := fun k => by unfold decodeCp; rw [k]; rfl
  show decodeCp (0x12 * 2 ^ 41 + o.toBits) = _
  rw [e (RecvOp.op_toBits 0x12 o), RecvOp.of_toBits]; exact check_ok (RecvOp.zeros_toBits 0x12 o) h
theorem recvs (o : RecvsOp) : Statement (.recvs o) := fun h => by
  have e : ∀ {w}, w / 2 ^ 41 = 0x13 → decodeCp w = check w [(7, 0), (34, 16), (40, 40)] (.recvs (.ofBits w)) := fun k => by unfold decodeCp; rw [k]; rfl
  show decodeCp (0x13 * 2 ^ 41 + o.toBits) = _
  rw [e (RecvsOp.op_toBits 0x13 o), RecvsOp.of_toBits]; exact check_ok (RecvsOp.zeros_toBits 0x13 o) h
theorem recvm (o : RecvmOp) : Statement (.recvm o) := fun h => by
  have e : ∀ {w}, w / 2 ^ 41 = 0x14 → decodeCp w = check w [(7, 2), (40, 35)] (.recvm (.ofBits w)) := fun k => by unfold decodeCp; rw [k]; rfl
  show decodeCp (0x14 * 2 ^ 41 + o.toBits) = _
  rw [e (RecvmOp.op_toBits 0x14 o), RecvmOp.of_toBits]; exact check_ok (RecvmOp.zeros_toBits 0x14 o) h
theorem cpy (o : CpyOp) : Statement (.cpy o) := fun h => by
  have e : ∀ {w}, w / 2 ^ 41 = 0x18 → decodeCp w = check w [(19, 12)] (.cpy (.ofBits w)) := fun k => by unfold decodeCp; rw [k]; rfl
  show decodeCp (0x18 * 2 ^ 41 + o.toBits) = _
  rw [e (CpyOp.op_toBits 0x18 o), CpyOp.of_toBits]; exact check_ok (CpyOp.zeros_toBits 0x18 o) h
theorem cpym (o : CpyOp) : Statement (.cpym o) := fun h => by
  have e : ∀ {w}, w / 2 ^ 41 = 0x19 → decodeCp w = check w [(19, 12)] (.cpym (.ofBits w)) := fun k => by unfold decodeCp; rw [k]; rfl
  show decodeCp (0x19 * 2 ^ 41 + o.toBits) = _
  rw [e (CpyOp.op_toBits 0x19 o), CpyOp.of_toBits]; exact check_ok (CpyOp.zeros_toBits 0x19 o) h
theorem cpyg (o : CpyOp) : Statement (.cpyg o) := fun h => by
  have e : ∀ {w}, w / 2 ^ 41 = 0x1A → decodeCp w = check w [(19, 12)] (.cpyg (.ofBits w)) := fun k => by unfold decodeCp; rw [k]; rfl
  show decodeCp (0x1A * 2 ^ 41 + o.toBits) = _
  rw [e (CpyOp.op_toBits 0x1A o), CpyOp.of_toBits]; exact check_ok (CpyOp.zeros_toBits 0x1A o) h
theorem cpyw (o : CpyOp) : Statement (.cpyw o) := fun h => by
  have e : ∀ {w}, w / 2 ^ 41 = 0x1B → decodeCp w = check w [(19, 12)] (.cpyw (.ofBits w)) := fun k => by unfold decodeCp; rw [k]; rfl
  show decodeCp (0x1B * 2 ^ 41 + o.toBits) = _
  rw [e (CpyOp.op_toBits 0x1B o), CpyOp.of_toBits]; exact check_ok (CpyOp.zeros_toBits 0x1B o) h
theorem fence (o : FenceOp) : Statement (.fence o) := fun h => by
  have e : ∀ {w}, w / 2 ^ 41 = 0x20 → decodeCp w = check w [(11, 0)] (.fence (.ofBits w)) := fun k => by unfold decodeCp; rw [k]; rfl
  show decodeCp (0x20 * 2 ^ 41 + o.toBits) = _
  rw [e (FenceOp.op_toBits 0x20 o), FenceOp.of_toBits]; exact check_ok (FenceOp.zeros_toBits 0x20 o) h
theorem pmode (o : PmodeOp) : Statement (.pmode o) := fun h => by
  have e : ∀ {w}, w / 2 ^ 41 = 0x24 → decodeCp w = check w [(33, 0)] (.pmode (.ofBits w)) := fun k => by unfold decodeCp; rw [k]; rfl
  show decodeCp (0x24 * 2 ^ 41 + o.toBits) = _
  rw [e (PmodeOp.op_toBits 0x24 o), PmodeOp.of_toBits]; exact check_ok (PmodeOp.zeros_toBits 0x24 o) h
theorem svsave (o : SvOp) : Statement (.svsave o) := fun h => by
  have e : ∀ {w}, w / 2 ^ 41 = 0x28 → decodeCp w = check w [(7, 0), (34, 12), (40, 40)] (.svsave (.ofBits w)) := fun k => by unfold decodeCp; rw [k]; rfl
  show decodeCp (0x28 * 2 ^ 41 + o.toBits) = _
  rw [e (SvOp.op_toBits 0x28 o), SvOp.of_toBits]; exact check_ok (SvOp.zeros_toBits 0x28 o) h
theorem svload (o : SvOp) : Statement (.svload o) := fun h => by
  have e : ∀ {w}, w / 2 ^ 41 = 0x29 → decodeCp w = check w [(7, 0), (34, 12), (40, 40)] (.svload (.ofBits w)) := fun k => by unfold decodeCp; rw [k]; rfl
  show decodeCp (0x29 * 2 ^ 41 + o.toBits) = _
  rw [e (SvOp.op_toBits 0x29 o), SvOp.of_toBits]; exact check_ok (SvOp.zeros_toBits 0x29 o) h
theorem svmsg (o : SvmsgOp) : Statement (.svmsg o) := fun h => by
  have e : ∀ {w}, w / 2 ^ 41 = 0x2A → decodeCp w = check w [(7, 2), (34, 12)] (.svmsg (.ofBits w)) := fun k => by unfold decodeCp; rw [k]; rfl
  show decodeCp (0x2A * 2 ^ 41 + o.toBits) = _
  rw [e (SvmsgOp.op_toBits 0x2A o), SvmsgOp.of_toBits]; exact check_ok (SvmsgOp.zeros_toBits 0x2A o) h
theorem discardedPacket : Statement .discardedPacket := fun h => event h rfl
theorem counterDrift : Statement .counterDrift := fun h => event h rfl
theorem poolSramUpset : Statement .poolSramUpset := fun h => event h rfl
theorem preemptSaveFailure : Statement .preemptSaveFailure := fun h => event h rfl
theorem clockGroupNChange : Statement .clockGroupNChange := fun h => event h rfl

end Sys2Proof.Laws.RoundTrip
end

