-- ==== Sys2Proof/Laws/Regs.lean ====
section
/-! SUPPORT. What entering a result write does to every later read of the registers (R162, R166, R184). -/

namespace Sys2Proof.Machine

theorem foldl_append_one {α β : Type} (f : β → α → β) (b : β) (l : List α) (e : α) : (l ++ [e]).foldl f b = f (l.foldl f b) e := by
  simp

/-- A read after one more write. -/
theorem RegFile.read_push {w : Nat} (f : RegFile w) (e : PendWrite w) (i c : Nat) :
    (f.push e).read i c = e.apply i c (f.read i c) := by
  simp [RegFile.read, RegFile.push]

theorem PendWrite.apply_of_ne {w : Nat} {e : PendWrite w} {i c : Nat} (h : e.idx ≠ i ∨ c < e.avail) (v : BitVec w) : e.apply i c v = v := by
  unfold PendWrite.apply
  rw [if_neg]
  omega

theorem PendWrite.apply_full {w : Nat} (i c idx iss slot avail : Nat) (m v x : BitVec w) (hm : m = BitVec.allOnes w) :
    (PendWrite.mk idx iss slot avail m v).apply i c x = if i = idx ∧ avail ≤ c then v else x := by
  subst hm
  unfold PendWrite.apply
  by_cases h : idx = i ∧ avail ≤ c
  · rw [if_pos h, if_pos ⟨h.1.symm, h.2⟩]
    ext k; simp
  · rw [if_neg h, if_neg (fun q => h ⟨q.1.symm, q.2⟩)]

/-- A scalar result. -/
theorem scalarWritten_pushRW (t : Tile) (iss slot d off : Nat) (v : Word) :
    ScalarWritten t (t.pushRW iss slot (rwS d off v)) d (iss + off) v := by
  intro c i
  have hv : BitVec.ofNat 32 v.toNat = v := by simp
  by_cases hd : d = 0
  · subst hd
    simp only [Tile.pushRW, rwS, ↓reduceIte]
    rw [if_neg]; omega
  · have hp : t.pushRW iss slot (rwS d off v) = { t with s := t.s.push ⟨d, iss, slot, iss + off, BitVec.ofNat 32 0xFFFFFFFF, BitVec.ofNat 32 v.toNat⟩ } := by
      unfold Tile.pushRW; exact if_neg hd
    simp only [hp, Tile.s32]
    by_cases hi : i = 0
    · subst hi; simp [Ne.symm hd]
    · simp only [if_neg hi, RegFile.read_push]
      rw [PendWrite.apply_full _ _ _ _ _ _ _ _ _ (by decide), hv]
      simp [hi]

/-- A predicate result. -/
theorem predWritten_pushRW (t : Tile) (iss slot d off : Nat) (v : Bool) :
    PredWritten t (t.pushRW iss slot (rwP d off v)) d (iss + off) v := by
  intro c i
  by_cases hd : d = 0
  · subst hd
    simp only [Tile.pushRW, rwP, ↓reduceIte]
    rw [if_neg]; omega
  · have hp : t.pushRW iss slot (rwP d off v) = { t with p := t.p.push ⟨d, iss, slot, iss + off, BitVec.ofNat 1 1, BitVec.ofNat 1 (if v then 1 else 0)⟩ } := by
      unfold Tile.pushRW; exact if_neg hd
    simp only [hp, Tile.pr]
    by_cases hi : i = 0
    · subst hi; simp [Ne.symm hd]
    · simp only [if_neg hi, RegFile.read_push]
      rw [PendWrite.apply_full _ _ _ _ _ _ _ _ _ (by decide)]
      by_cases hc : i = d ∧ iss + off ≤ c
      · simp only [hc, and_self, ne_eq, true_and, ↓reduceIte]
        cases v <;> simp [hd]
      · rw [if_neg hc, if_neg (fun q => hc ⟨q.1, q.2.2⟩)]

/-- A special-register result. -/
theorem specialWritten_pushRW (t : Tile) (iss slot n off : Nat) (m v : BitVec 64) :
    SpecialWritten t (t.pushRW iss slot ⟨.sp, n, off, m.toNat, v.toNat⟩) n (iss + off) m v := by
  intro c i
  simp only [Tile.pushRW, Tile.spr, RegFile.read_push, PendWrite.apply, BitVec.ofNat_toNat, BitVec.setWidth_eq]
  by_cases h : n = i ∧ iss + off ≤ c
  · rw [if_pos h, if_pos ⟨h.1.symm, h.2⟩]
  · rw [if_neg h, if_neg (fun q => h ⟨q.1.symm, q.2⟩)]

theorem specialWritten_rwSp (t : Tile) (iss slot n off : Nat) (v : BitVec 64) :
    SpecialWritten t (t.pushRW iss slot (rwSp n off v)) n (iss + off) (BitVec.allOnes 64) v :=
  specialWritten_pushRW t iss slot n off (BitVec.allOnes 64) v

/-- A scale-register result. -/
theorem scaleWritten_pushRW (t : Tile) (iss slot d off v : Nat) :
    ScaleWritten t (t.pushRW iss slot (rwQ d off v)) d (iss + off) v := by
  intro c i
  simp only [Tile.pushRW, rwQ, Tile.q32, RegFile.read_push]
  rw [PendWrite.apply_full _ _ _ _ _ _ _ _ _ (by decide)]
  split <;> simp_all

/-! What is left. -/

theorem pushRW_scalar_frame (t : Tile) (iss slot d off : Nat) (v : Word) : OnlyScalars t (t.pushRW iss slot (rwS d off v)) := by
  unfold OnlyScalars
  by_cases h : d = 0
  · have e : t.pushRW iss slot (rwS d off v) = t := by unfold Tile.pushRW; exact if_pos h
    rw [e]
  · have e : t.pushRW iss slot (rwS d off v) = { t with s := t.s.push ⟨d, iss, slot, iss + off, BitVec.ofNat 32 0xFFFFFFFF, BitVec.ofNat 32 v.toNat⟩ } := by
      unfold Tile.pushRW; exact if_neg h
    rw [e]
theorem pushRW_pred_frame (t : Tile) (iss slot d off : Nat) (v : Bool) : OnlyPreds t (t.pushRW iss slot (rwP d off v)) := by
  unfold OnlyPreds
  by_cases h : d = 0
  · have e : t.pushRW iss slot (rwP d off v) = t := by unfold Tile.pushRW; exact if_pos h
    rw [e]
  · have e : t.pushRW iss slot (rwP d off v) = { t with p := t.p.push ⟨d, iss, slot, iss + off, BitVec.ofNat 1 1, BitVec.ofNat 1 (if v then 1 else 0)⟩ } := by
      unfold Tile.pushRW; exact if_neg h
    rw [e]
theorem pushRW_sp_frame (t : Tile) (iss slot n off m v : Nat) : OnlySpecials t (t.pushRW iss slot ⟨.sp, n, off, m, v⟩) := rfl
theorem flagsAt_setFlags (t : Tile) (c : Nat) (f : Flags) : FlagsAt t (t.setFlags c f) c f := by
  unfold FlagsAt Tile.setFlags; split <;> simp_all

end Sys2Proof.Machine
end

