-- ==== Sys2Proof/Laws/Slots.lean ====
section
/-! SUPPORT. What every slot instruction has in common: it acts when nothing raises a precise cause, and traps on the lowest cause otherwise (R239, R246). -/

namespace Sys2Proof.Machine

/-- Whether an instruction that may act raises a cause is a matter of its own causes alone. -/
theorem causes_of_mayAct {s : State} {i : Instr} (h : s.mayAct i = true) :
    s.curTile.earlyCause s.cur.c i = [] ∧ s.curTile.allotCause s.cur.c i = []
      ∧ (if s.cur.slot = 2 then s.curTile.vxBusy s.cur.c else []) = [] ∧ s.curTile.orderCause s.cur.c i = [] := by
  simp only [State.mayAct, Bool.and_eq_true] at h
  obtain ⟨⟨⟨h1, h2⟩, h3⟩, h4⟩ := h
  refine ⟨?_, ?_, ?_, ?_⟩
  · unfold Tile.earlyCause
    split
    · rename_i hc
      simp only [State.readsReady, hc, Bool.not_true, Bool.false_or, List.all_eq_true, beq_iff_eq] at h1
      rw [List.find?_eq_none.mpr]
      intro r hr
      simp [h1 r hr]
    · rfl
  · unfold Tile.allotCause
    rw [if_neg]
    simp only [State.regsAllotted, List.all_eq_true, decide_eq_true_eq] at h2
    simp only [List.any_eq_true, decide_eq_true_eq, not_exists, not_and, ge_iff_le]
    intro v hv
    exact Nat.not_le.mpr (h2 v hv)
  · simp only [State.engineFree, Bool.or_eq_true, bne_iff_ne, decide_eq_true_eq] at h4
    split
    · unfold Tile.vxBusy
      rw [if_neg]
      omega
    · rfl
  · unfold Tile.orderCause
    unfold State.classReady at h3
    split
    · rename_i lo hi wr cls hp
      rw [hp] at h3
      rw [if_neg]
      simp only [Bool.or_eq_true, Bool.not_eq_true', beq_iff_eq, decide_eq_true_eq] at h3
      simp only [Bool.and_eq_true, bne_iff_ne, ne_eq, decide_eq_true_eq, not_and, and_imp]
      intro hc hcls
      rcases h3 with h | h | h
      · simp [hc] at h
      · exact absurd h hcls
      · omega
    · rfl

/-- An instruction that raises nothing acts. -/
theorem slotOp_acts {s : State} {i : Instr} {eff : Tile → Tile} (h : s.curTile.causes s.cur i = []) :
    slotOp i s eff = .next (s.setCur (eff s.curTile)) := by
  simp [slotOp, Tile.stops, h, lowest]

/-- An instruction whose lowest cause is not one on which its word acts traps on it. -/
theorem slotOp_traps {s : State} {i : Instr} {eff : Tile → Tile} {e : Cause} (h : lowest (s.curTile.causes s.cur i) = some e)
    (ha : wordActs e.1 = false) : slotOp i s eff = .next (s.setCur (s.curTile.takePrecise s.cur e)) := by
  simp [slotOp, Tile.stops, h, ha]

/-- The own causes of an instruction with none beyond those that every slot shares. -/
theorem causes_nil {s : State} {i : Instr} (h : s.mayAct i = true)
    (own : s.curTile.causes s.cur i = s.curTile.earlyCause s.cur.c i ++ s.curTile.allotCause s.cur.c i ++ []
      ++ (if s.cur.slot = 2 then s.curTile.vxBusy s.cur.c else []) ++ s.curTile.orderCause s.cur.c i) :
    s.curTile.causes s.cur i = [] := by
  obtain ⟨h1, h2, h3, h4⟩ := causes_of_mayAct h
  rw [own, h1, h2, h3, h4]; rfl

/-- What an instruction does to its tile when it raises nothing. -/
theorem acts_of {s : State} {i : Instr} {eff : Tile → Tile} (hx : exec i s = slotOp i s eff) (hc : s.curTile.causes s.cur i = []) :
    Acts s i eff :=
  ⟨_, hx.trans (slotOp_acts hc), onlyTile_setCur _ _, State.curTile_setCur _ _⟩

/-- An instruction that traps. -/
theorem traps_of {s : State} {i : Instr} {eff : Tile → Tile} {e : Cause} (hx : exec i s = slotOp i s eff)
    (h : lowest (s.curTile.causes s.cur i) = some e) (ha : wordActs e.1 = false) : Traps s i e :=
  ⟨_, hx.trans (slotOp_traps h ha), onlyTile_setCur _ _, State.curTile_setCur _ _⟩

/-- One scalar result, alone. -/
theorem writesScalar_of {s : State} {i : Instr} {eff : Tile → Tile} {d : BitVec 5} {lat : Nat} {v : Word}
    (ha : Acts s i eff) (he : eff s.curTile = s.curTile.putS s.cur d lat v) : WritesScalar s i d lat v := by
  obtain ⟨t, hn, ho, ht⟩ := ha
  refine ⟨t, hn, ho, ?_, ?_⟩ <;> rw [ht, he]
  · exact scalarWritten_pushRW s.curTile s.cur.c s.cur.slot d.toNat lat v
  · exact pushRW_scalar_frame s.curTile s.cur.c s.cur.slot d.toNat lat v

/-- One scalar result and flags. -/
theorem writesScalarFl_of {s : State} {i : Instr} {eff : Tile → Tile} {d : BitVec 5} {lat : Nat} {r : Word × Flags}
    (ha : Acts s i eff) (he : eff s.curTile = (s.curTile.putS s.cur d lat r.1).setFlags (s.cur.c + lat) r.2) : WritesScalarFl s i d lat r := by
  obtain ⟨t, hn, ho, ht⟩ := ha
  have hf : (s.curTile.putS s.cur d lat r.1).fp = s.curTile.fp := by
    have := congrArg Tile.fp (pushRW_scalar_frame s.curTile s.cur.c s.cur.slot d.toNat lat r.1); exact this
  refine ⟨t, hn, ho, ?_, ?_, ?_⟩ <;> rw [ht, he]
  · intro c i
    rw [show ((s.curTile.putS s.cur d lat r.1).setFlags (s.cur.c + lat) r.2).s32 c i = (s.curTile.putS s.cur d lat r.1).s32 c i by
      unfold Tile.setFlags; split <;> rfl]
    exact scalarWritten_pushRW s.curTile s.cur.c s.cur.slot d.toNat lat r.1 c i
  · have := flagsAt_setFlags (s.curTile.putS s.cur d lat r.1) (s.cur.c + lat) r.2
    unfold FlagsAt at this ⊢
    rw [this, hf]
  · have := pushRW_scalar_frame s.curTile s.cur.c s.cur.slot d.toNat lat r.1
    unfold OnlyScalars at this
    unfold OnlyScalarsFlags Tile.setFlags
    split
    · exact (congrArg (fun x : Tile => { x with fp := s.curTile.fp }) this)
    · exact (congrArg (fun x : Tile => { x with fp := s.curTile.fp }) this)

/-- One predicate result, alone. -/
theorem writesPred_of {s : State} {i : Instr} {eff : Tile → Tile} {d : BitVec 3} {v : Bool}
    (ha : Acts s i eff) (he : eff s.curTile = s.curTile.putP s.cur d v) : WritesPred s i d v := by
  obtain ⟨t, hn, ho, ht⟩ := ha
  refine ⟨t, hn, ho, ?_, ?_⟩ <;> rw [ht, he]
  · exact predWritten_pushRW s.curTile s.cur.c s.cur.slot d.toNat 1 v
  · exact pushRW_pred_frame s.curTile s.cur.c s.cur.slot d.toNat 1 v

/-- One predicate result and flags. -/
theorem writesPredFl_of {s : State} {i : Instr} {eff : Tile → Tile} {d : BitVec 3} {r : Bool × Flags}
    (ha : Acts s i eff) (he : eff s.curTile = (s.curTile.putP s.cur d r.1).setFlags (s.cur.c + 1) r.2) : WritesPredFl s i d r := by
  obtain ⟨t, hn, ho, ht⟩ := ha
  have hf : (s.curTile.putP s.cur d r.1).fp = s.curTile.fp := by
    have := congrArg Tile.fp (pushRW_pred_frame s.curTile s.cur.c s.cur.slot d.toNat 1 r.1); exact this
  refine ⟨t, hn, ho, ?_, ?_, ?_⟩ <;> rw [ht, he]
  · intro c i
    rw [show ((s.curTile.putP s.cur d r.1).setFlags (s.cur.c + 1) r.2).pr c i = (s.curTile.putP s.cur d r.1).pr c i by
      unfold Tile.setFlags; split <;> rfl]
    exact predWritten_pushRW s.curTile s.cur.c s.cur.slot d.toNat 1 r.1 c i
  · have := flagsAt_setFlags (s.curTile.putP s.cur d r.1) (s.cur.c + 1) r.2
    unfold FlagsAt at this ⊢
    rw [this, hf]
  · have := pushRW_pred_frame s.curTile s.cur.c s.cur.slot d.toNat 1 r.1
    unfold OnlyPreds at this
    unfold OnlyPredsFlags Tile.setFlags
    split
    · exact (congrArg (fun x : Tile => { x with fp := s.curTile.fp }) this)
    · exact (congrArg (fun x : Tile => { x with fp := s.curTile.fp }) this)

end Sys2Proof.Machine
end

