-- ==== Sys2Proof/Tests/Slice0.lean ====
section
/-! SUPPORT. Tests: ill-formed terms that the checks refuse, words of the spec's encodings, single steps with results from the spec's own text or worked by hand from it, and for each statement concrete states that meet its hypotheses. -/

open Sys2Proof Sys2Proof.Machine

namespace Sys2Proof.Tests

set_option Elab.async false

/-! A small machine. -/

/-- A buffer record (R176): space, format, BMODE, base, OEXT, IEXT, steps of IEXT and 1. -/
def bufWord (space fmt bmode base oext iext : Nat) : Nat :=
  space * 2 ^ 253 + fmt * 2 ^ 248 + bmode * 2 ^ 246 + base * 2 ^ 192 + oext * 2 ^ 176 + iext * 2 ^ 160 + iext * 2 ^ 136 + 2 ^ 112
/-- A format entry (R203): formats, PINT and V. -/
def fmtWord (afmt bfmt ofmt pint : Nat) : Nat := afmt * 2 ^ 59 + bfmt * 2 ^ 54 + ofmt * 2 ^ 43 + pint * 2 ^ 38 + 2 ^ 37
/-- One code block of 8 KiB, one plane block of 4 KiB, two accumulators, sixteen groups of four vector registers (R171). -/
def partDemo : Nat := 2 ^ 50 + 2 ^ 43 + 2 * 2 ^ 35 + 16 * 2 ^ 30
/-- A plane: records 1 INT16 (trapping), 2 FP32 (zero), 3 of a 6-bit format (clamping), 4 operand memory INT8, 5 the accumulators FP32, 6 INT32; a sequencer record 0 of one level from record 1 to record 4; format entry 1; jump target 2. -/
def cfgDemo : Mem :=
  let b : Nat → Nat → Mem → Mem := fun i v m => m.put (24960 + 32 * i) 32 v
  ((((((((Mem.put [] (16384 + 8) 4 7).put (24832 + 8) 8 (fmtWord 1 1 22 1))
    |> b 1 (bufWord 0 5 0 0x4000 16 128)) |> b 2 (bufWord 0 22 2 0x8000 16 64)) |> b 3 (bufWord 0 7 1 0xC000 16 128)) |> b 4 (bufWord 2 3 0 0 32 32))
    |> b 5 (bufWord 0 22 2 0x10000 32 32)) |> b 6 (bufWord 0 21 2 0x14000 16 64)).put 25984 48 (1 * 2 ^ 379 + 4 * 2 ^ 374 + 1 * 2 ^ 366 + 4 * 2 ^ 360 + 1 * 2 ^ 32 + 32 * 2 ^ 16 + 32)
    |>.put 30976 8 partDemo
def regFile (l : List Word) : RegFile 32 := { base := l ++ List.replicate (32 - l.length) 0, pend := [] }
/-- A tile that runs launch 1, with S1 = a, S2 = b. -/
def running (a b : Nat) : Tile :=
  { Tile.powerUp with launch := some 1, allot := 64, cfg0 := cfgDemo, s := regFile [0, BitVec.ofNat 32 a, BitVec.ofNat 32 b], seq := { Seq.idle with mode := .run, pc := 11 } }
/-- The word at 10 issues in a slot of tile (0, 0) at cycle 100. -/
def issuing (slot : Nat) (t : Tile) : State :=
  { State.reset with now := 100, tiles := [(0, t)], cur := { Cur.none with x := 0, y := 0, c := 100, pc := 10, slot := slot } }
/-- The state after an instruction, if there is one. -/
def after (i : Instr) (s : State) : Option State := match exec i s with | .next t => some t | _ => none
/-- What an instruction leaves in the tile. -/
def leaves {α : Type} (i : Instr) (s : State) (f : Tile → α) : Option α := (after i s).map fun t => f t.curTile
def sa (a b : Nat) : State := issuing 0 (running a b)
def rr : RR := ⟨3, 1, 2, 0, 0, false⟩
def ri (imm : Nat) : RI := ⟨3, 1, BitVec.ofNat 15 imm⟩
/-- Writes of special registers that have come to be. -/
def withSp (l : List (Nat × BitVec 64)) (t : Tile) : Tile := { t with sp := { t.sp with base := l.foldl (fun b e => b.set e.1 e.2) t.sp.base } }

/-! Witnesses: states and operands that meet the hypotheses of each statement. -/

theorem witness_IntegerResults :
    (∀ i ∈ [Instr.add rr, .sub rr, .andS rr, .orS rr, .xor rr, .andn rr, .shl rr, .shr rr, .sra rr, .rol rr, .minS rr, .maxS rr, .minu rr, .maxu rr, .slt rr,
      .sltu rr, .seq rr, .adds rr, .subs rr, .absS rr, .clz rr, .popc rr, .brev rr, .mul rr, .mulh rr, .mulhu rr, .selp rr], (sa 0x80000000 31).mayAct i = true)
    ∧ (∀ i ∈ [Instr.absS ⟨3, 1, 0, 0, 0, false⟩, .clz ⟨3, 1, 0, 0, 0, false⟩, .popc ⟨3, 1, 0, 0, 0, false⟩, .brev ⟨3, 1, 0, 0, 0, false⟩, .add rr, .mulhu rr], i.loadCause = none) := by
  decide +kernel

theorem witness_Divisions :
    (∀ i ∈ [Instr.div rr, .divu rr, .rem rr, .remu rr],
      ((sa 0x80000000 0xFFFFFFFF).mayAct i = true ∧ (sa 0x80000000 0xFFFFFFFF).opnd rr.kb rr.b ≠ 0) ∧ ((sa 1 0).mayAct i = true ∧ (sa 1 0).opnd rr.kb rr.b = 0)) := by
  decide +kernel

theorem witness_ImmediateResults :
    ∀ i ∈ [Instr.addi (ri 0x7FFF), .andi (ri 0x7FFF), .ori (ri 0), .xori (ri 1), .shli (ri 31), .shri (ri 31), .srai (ri 31), .slti (ri 0x4000), .sltiu (ri 0x7FFF),
      .movi ⟨3, 0xFFFFF⟩, .seth ⟨3, 0xFFFF⟩, .movk ⟨3, 0⟩], (sa 0xFFFFFFFF 0).mayAct i = true := by decide +kernel

/-- The clauses by kind of operand: NaNs, infinities, a zero times an infinity, finite numbers, one infinite. -/
theorem witness_FloatArithmetic :
    (∀ p ∈ [((0x7FC00000 : Nat), 0x3F800000), (0x7F800000, 0xFF800000), (0x00000000, 0x7F800000), (0x3F800000, 0x00800000), (0x3F800000, 0x7F800000), (0x7F800000, 0x3F800000)],
      ∀ i ∈ [Instr.fadd rr, .fsub rr, .fmul rr, .ffma rr, .fabs rr, .fneg rr], (sa p.1 p.2).mayAct i = true)
    ∧ isNaN32 0x7FC00000 = true ∧ isInf32 0x7F800000 = true ∧ isZero32 0 = true ∧ finite32 0x3F800000 = some ⟨false, 0x800000, -23⟩ ∧ finite32 0x00800000 = some ⟨false, 0x800000, -149⟩
    ∧ isNaN32 0x7F800000 = false ∧ isNaN32 0 = false ∧ isZero32 0x7F800000 = false := by decide +kernel

theorem witness_FloatConversions :
    (∀ a ∈ [0x7FC00000, 0x7F800000, 0x3FC00000, 0x4F000000], (sa a 0).mayAct (.fcvti rr) = true ∧ (sa a 0).mayAct (.icvtf rr) = true)
    ∧ isNaN32 0x7FC00000 = true ∧ isInf32 0x7F800000 = true ∧ finite32 0x3FC00000 = some ⟨false, 0xC00000, -23⟩ ∧ finite32 0x4F000000 = some ⟨false, 0x800000, 8⟩ := by decide +kernel

theorem witness_FloatMinMax : ∀ p ∈ [((0x7FA00000 : Nat), 0), (0x7FC00000, 0x7FC00000), (0x7FC00000, 1), (1, 0x7FC00000), (0x80000000, 0)],
    (sa p.1 p.2).mayAct (.fmin rr) = true ∧ (sa p.1 p.2).mayAct (.fmax rr) = true := by decide +kernel

theorem witness_FloatApproximations :
    (∀ a ∈ [0x7FC00000, 0x7F800000, 0x00000000, 0x00800000, 0x7E800000, 0x40400000, 0xC0400000], (sa a 0).mayAct (.frcp rr) = true ∧ (sa a 0).mayAct (.frsq rr) = true)
    ∧ isNaN32 0x7FC00000 = true ∧ isInf32 0x7F800000 = true ∧ (0 : Word).toNat % 2 ^ 31 < 2 ^ 23 ∧ ¬ (0x00800000 : Word).toNat % 2 ^ 31 < 2 ^ 23 ∧ isNaN32 0x00800000 = false ∧ isInf32 0x00800000 = false
    ∧ (∀ p ∈ [((0x7FC00000 : Nat), 0), (0, 0x3F800000), (0x3F800000, 0x3F000000)], ∀ i ∈ [Instr.frcps rr, .frsqs rr], (sa p.1 p.2).mayAct i = true)
    ∧ finite32 0x3F800000 = some ⟨false, 0x800000, -23⟩ ∧ finite32 0x3F000000 = some ⟨false, 0x800000, -24⟩ := by decide +kernel

theorem witness_Predicates :
    (∀ i ∈ [Instr.peq ⟨3, 1, 2, false⟩, .pne ⟨3, 1, 2, false⟩, .plt ⟨3, 1, 2, false⟩, .pltu ⟨3, 1, 2, false⟩, .pge ⟨3, 1, 2, false⟩, .pgeu ⟨0, 1, 2, true⟩,
      .pflt ⟨7, 1, 2, false⟩, .pfle ⟨3, 1, 2, false⟩, .pfun ⟨3, 1, 2, false⟩, .pand ⟨1, 2, 3⟩, .por ⟨1, 2, 3⟩, .pxor ⟨1, 2, 3⟩, .pnot ⟨1, 2, 0⟩, .pset ⟨1, 0, 1⟩, .ptos ⟨3, 0, 0, 0, 0, false⟩],
      (sa 0x7FC00000 0).mayAct i = true) := by decide +kernel

/-- The numbers at which the clauses meet: GCY, the WP registers, FPST and its upper half, PART, the reserved numbers, and the others. -/
theorem witness_SpecialRegisters :
    (∀ n ∈ [0, 1, 65, 5, 69, 8, 72, 22, 25, 89, 26, 27, 31, 32, 47], (sa 0xFFFFFFFF 0).mayAct (.rdsp (ri n)) = true)
    ∧ (∀ n ∈ [0, 1], (sa 0 0).mayAct (.rdcyc (ri n)) = true) ∧ (∀ n ∈ [0, 3], (sa 0 0).mayAct (.rdwp (ri n)) = true)
    ∧ (∀ n ∈ [5, 6, 8, 9, 10, 11, 12, 13, 16, 21, 22, 25, 26, 27, 31, 32, 35, 36, 39, 40, 47, 76, 80], (sa 0xFFFFFFFF 0).mayAct (.wrsp ⟨0, 1, BitVec.ofNat 15 n⟩) = true ∧ n % 64 < 48) := by
  decide +kernel

/-- Scratch starts above the code; the accumulators end below the vector registers, which no local access may touch. -/
theorem witness_LocalMemory :
    (∀ i ∈ [Instr.ldw (ri 0), .ldh (ri 0), .ldhu (ri 0), .ldb (ri 0), .ldbu (ri 0), .stw (ri 0), .sth (ri 0), .stb (ri 0)], ∀ a ∈ [0x2000, 0x1F7FFC, 0x1FFFFC, 0x200000, 0x2001], (sa a 0).mayAct i = true)
    ∧ (∀ a ∈ [0x2000, 0x1F7FFC], ((running 0 0).partOf 100 a).noRead = false ∧ a % 4 = 0 ∧ (running 0 0).watchOf 100 100 false [a] = none
        ∧ ((running 0 0).partOf 100 a).noWrite = false ∧ (running 0 0).partialWrite 100 (8 * a) 32 = false ∧ (running 0 0).watchOf 100 100 true [a] = none)
    ∧ (running 0 0).memWf = true ∧ (running 0 0).partOf 102 0x2000 = .scratch ∧ (running 0 0).partOf 102 0x1F7FFC = .acc ∧ (running 0 0).vp = []
    ∧ ((running 0 0).partOf 100 0x1FFFFC).noRead = true ∧ ((running 0 0).partOf 100 0x1FFFFC).noWrite = true
    ∧ ((running 0 0).partOf 100 0x2001).noRead = false ∧ 0x2001 % 2 ≠ 0 ∧ ((running 0 0).partOf 100 0x200000).noWrite = true := by decide +kernel

theorem xret_traps {s : State} {e : Cause} (h : lowest (s.curTile.causes s.cur .xret) = some e) (a : wordActs e.1 = false) : Traps s .xret e :=
  traps_of (show exec .xret s = slotOp .xret s fun t => t.trapReturn s.cur.c (s.cur.c + 2 + s.cur.wait) from rfl) h a
theorem div_traps {s : State} {o : RR} {e : Cause} (h : lowest (s.curTile.causes s.cur (.div o)) = some e) (a : wordActs e.1 = false) : Traps s (.div o) e :=
  traps_of (show exec (.div o) s = slotOp (.div o) s fun t => t.rr s.cur o 18 aluDiv from rfl) h a

/-- XRET outside a handler traps; TRAP and a late WAITC freeze at level 2; XRET returns from levels 1 and 2; a vector of the code's end freezes too. -/
theorem witness_TrapsAndReturns :
    (Traps (sa 0 0) .xret (0x09, 0, 0) ∧ (running 0 0).tlvl 100 < 2 ∧ ((running 0 0).spr 100 11).toNat + 16 * 9 < (running 0 0).codeLen)
    ∧ (let t := withSp [(11, 2048)] (running 0 0)
       Traps (issuing 5 t) .xret (0x09, 0, 0) ∧ t.tlvl 100 < 2 ∧ t.codeLen ≤ (t.spr 100 11).toNat + 16 * 9)
    ∧ (let t := withSp [(13, 2)] (running 0 0)
       Traps (issuing 0 t) (.div rr) (0x01, 0, 0) ∧ 2 ≤ t.tlvl 100 ∧ (issuing 5 t).mayAct (.trap 7) = true
       ∧ (issuing 5 t).mayAct (.waitc ⟨false, 0, 60⟩) = true ∧ (t.tstart 100 + ((issuing 5 t).sReg 0).toNat + 60) % 2 ^ 64 < t.gcy 100)
    ∧ (∀ k ∈ [1, 2], (issuing 5 (withSp [(13, BitVec.ofNat 64 k)] (running 0 0))).mayAct .xret = true ∧ (withSp [(13, BitVec.ofNat 64 k)] (running 0 0)).tlvl 100 = k)
    ∧ (let t : Tile := { withSp [(13, 1)] (running 0 0) with openTraps := [some ⟨none, 90⟩, none] }
       (issuing 5 t).mayAct .xret = true ∧ t.openTraps.getD 0 none = some ⟨none, 90⟩) := by
  refine ⟨⟨xret_traps (by decide +kernel) rfl, by decide +kernel⟩, ⟨xret_traps (by decide +kernel) rfl, by decide +kernel⟩, ⟨div_traps (by decide +kernel) rfl, by decide +kernel⟩, by decide +kernel⟩

theorem witness_SlotTraps :
    (let s : State := { sa 0 0 with cur := { (sa 0 0).cur with dly := some 40 } }
     s.cur.dly.isSome = true ∧ ∀ i ∈ [Instr.jmp 2, .jmpIndirect 1, .call 2, .callIndirect 1, .ret, .xret], s.mayAct i = true)
    ∧ ((sa 0 0).cur.dly = none ∧ (running 0 0).tlvl 100 = 0 ∧ (sa 0 0).mayAct .xret = true)
    ∧ (let o : VxOp := { vd := 60, va := 0, vb := 0, vc := 0, mask := 0, beats := 0, ty := 3, md := 0 }
       let t : Tile := { running 0 0 with allot := 60 }
       (issuing 2 t).readsReady (.vadd o) = true ∧ ∃ v ∈ vregsOf (.vadd o), t.allotAt 100 ≤ v)
    ∧ (let o : VxOp := { vd := 4, va := 0, vb := 0, vc := 0, mask := 0, beats := 0, ty := 2, md := 0 }
       let t : Tile := { running 0 0 with vxFree := 101, mxFree := 101 }
       100 < t.vxFree ∧ (∀ i ∈ [Instr.vadd o, .vmulw o, .vfadd o, .vceq o, .mand o, .vmov o, .vcvt o, .vqmax o, .vrsum o, .vshuf o, .vshrink o],
         (issuing 2 t).readsReady i = true ∧ (issuing 2 t).regsAllotted i = true)
       ∧ 100 < t.mxFree ∧ ∀ i ∈ [Instr.mzero 0, .mscl ⟨false, 1, 0⟩, .mstat ⟨3, false⟩], (issuing 3 t).mayAct i = true)
    ∧ (let t : Tile := { withSp [(9, 1)] (running 0 0) with s := { (running 0 0).s with pend := [⟨1, 99, 0, 102, BitVec.allOnes 32, 5⟩] } }
       t.chk 100 = true ∧ earlyBy t.s.pend 1 100 100 = 2 ∧ t.vxFree ≤ 100) := by
  refine ⟨by decide +kernel, by decide +kernel, ⟨by decide +kernel, 60, by decide +kernel, by decide +kernel⟩, by decide +kernel, by decide +kernel⟩

theorem witness_IssueWords : noLoopEnd (running 0 0) 100 10 := by unfold noLoopEnd; decide +kernel

/-- A level ends on its last word, by its count and by its predicate; counts 0 and the maximum start a loop, and one above it traps. -/
theorem witness_Loops :
    (let t := withSp [(32, 0x80000005), (36, 10), (44, 3)] (running 0 0)
     t.seq.xfer = none ∧ (t.spr 100 32).getLsbD 31 = true ∧ (t.spr 100 36).toNat = 10 ∧ (∀ j < 4, j ≠ 0 → lsAct (t.spr 100 (32 + j)) = true → (t.spr 100 (36 + j)).toNat ≠ 10))
    ∧ (∀ n ∈ [0, 4, 5], (sa 0 0).mayAct (.loopCounted ⟨0, 0, 4, 2⟩ (BitVec.ofNat 13 n)) = true)
    ∧ (∀ a ∈ [0, 4, 5], (sa a 0).mayAct (.loopRegisterCount ⟨3, 0, 4, 2⟩ 1) = true ∧ ((sa a 0).sReg 1).toNat = a) ∧ (sa 0 0).mayAct (.loopUntil ⟨1, 15, 255, 2⟩ 3) = true := by decide +kernel

theorem witness_Transfers : (sa 7 0).cur.dly = none ∧ ∀ i ∈ [Instr.jmp 2, .jmpIndirect 1, .call 2, .callIndirect 1, .ret,
    .tree ⟨1, ⟨false, 3, 5⟩, ⟨true, 4, 6⟩, ⟨false, 0, 0⟩, ⟨false, 0, 0⟩⟩, .tree ⟨0, ⟨false, 3, 5⟩, ⟨false, 0, 0⟩, ⟨false, 0, 0⟩, ⟨false, 0, 0⟩⟩], (sa 7 0).mayAct i = true := by decide +kernel

/-- In time up to the cycle itself, and late by one. -/
theorem witness_CycleWaits :
    (∀ o ∈ [(⟨false, 0, 100⟩ : WaitOp), ⟨true, 0, 99⟩, ⟨false, 0, 99⟩], (sa 0 0).mayAct (.waitc o) = true) ∧ (running 0 0).gcy 100 = 100 ∧ (running 0 0).tstart 100 = 0 ∧ (sa 0 0).sReg 0 = 0
    ∧ (running 0 0).tlvl 100 < 2 := by decide +kernel

theorem witness_Barriers :
    (∀ i ∈ [Instr.bara 1, .bara 3, .barw ⟨1, 100, 100⟩, .barw ⟨3, 1, 0⟩, .align 4], (sa 0 0).mayAct i = true) ∧ (running 0 0).arr.length = 3 ∧ (running 0 0).latch.length = 3
    ∧ (running 0 0).latch.getD 0 false = false ∧ (issuing 5 { running 0 0 with latch := [false, false, true] }).mayAct (.barw ⟨3, 1, 0⟩) = true := by decide +kernel

theorem witness_StepTrapEndMark :
    (∀ i ∈ [Instr.step 1, .trap 0xFFFF, .endS, .rbmark 1 0], (sa 0 0).mayAct i = true) ∧ (running 0 0).tlvl 100 < 2 ∧ ((running 0 0).spr 100 11).toNat + 112 < (running 0 0).codeLen
    ∧ (running 0 0).wrt.Nodup := by decide +kernel

theorem witness_SystemForms :
    (∀ i ∈ [Instr.haltdbg, .trig, .preemptpt, .chkon, .chkoff], (sa 0 0).mayAct i = true ∧ (issuing 5 { running 0 0 with dbg := 4 }).mayAct i = true)
    ∧ (running 0 0).dbg.getLsbD 2 = false ∧ (4 : BitVec 32).getLsbD 2 = true ∧ (running 0 0).captureTo = none ∧ (sa 0 0).cur.itb = false := by decide +kernel

/-- A vector operation on registers 4, 8, 12 and 0 of a type, with a modifier. -/
def vx (ty md : Nat) : VxOp := { vd := 4, va := 8, vb := 12, vc := 0, mask := 0, beats := 0, ty := BitVec.ofNat 3 ty, md := BitVec.ofNat 8 md }
def vxIn (t : Tile) : State := issuing 2 t

theorem witness_VectorIntegerLanes :
    (∀ ty < 4, let o := vx ty 0
      ∀ i ∈ [Instr.vadd o, .vsub o, .vadds o, .vsubs o, .vaddsu o, .vsubsu o, .vmul o, .vmulh o, .vmulhu o, .vand o, .vor o, .vxor o, .vandn o, .vshl o, .vshr o, .vsra o,
        .vshli o, .vshri o, .vsrai o, .vmin o, .vmax o, .vminu o, .vmaxu o, .vabs o, .vavg o, .vclz o, .vpopc o], (vxIn (running 0 0)).mayAct i = true)
    ∧ (∀ ty < 3, let o := vx ty 0
      tyWidth o.ty ≤ 16 ∧ ∀ i ∈ [Instr.vmulw o, .vmulwu o, .vmacw o, .vmacwu o], (vxIn (running 0 0)).mayAct i = true) := by decide +kernel

theorem witness_VectorFloatLanes :
    ∀ ty ∈ [4, 5, 6], let o := vx ty 0
      ∀ i ∈ [Instr.vfadd o, .vfsub o, .vfmul o, .vffma o, .vfmin o, .vfmax o, .vfabs o, .vfneg o, .vfrcp o, .vfrsq o, .vfrcps o, .vfrsqs o, .vfexp2 o, .vfscale o],
        (vxIn (running 0 0)).mayAct i = true := by decide +kernel

/-- A NaN, both infinities, zero (below the smallest normal), the smallest normal and its negative, in each type; and the greatest pattern of each small format, or of a float format the greatest finite one. -/
theorem witness_VectorFloatValues :
    (∀ f ∈ [fmtFP16, fmtBF16, fmtFP32], (f.val f.nanPat).isNaN = true ∧ f.val f.infPat = .inf false ∧ f.val (f.infPat + f.signBit) = .inf true
      ∧ (∃ e, f.val 0 = .num ⟨false, 0, e⟩ ∧ f.tiny 0 = true) ∧ (∃ x, f.val (2 ^ f.fb) = .num x ∧ f.tiny (2 ^ f.fb) = false)
      ∧ ∃ x, f.val (2 ^ f.fb + f.signBit) = .num x ∧ x.neg = true ∧ f.tiny (2 ^ f.fb + f.signBit) = false)
    ∧ ∀ p ∈ [(fmtE2M1, 15), (fmtE2M3, 63), (fmtE3M2, 63), (fmtE4M3, 254), (fmtE5M2, 251), (fmtFP16, 0xFBFF), (fmtBF16, 0xFF7F), (fmtFP32, 0xFF7FFFFF)],
        p.2 < 2 ^ p.1.bits ∧ ∃ x, p.1.val p.2 = .num x := by
  refine ⟨fun f hf => ?_, fun p hp => ?_⟩
  · simp only [List.mem_cons, List.not_mem_nil, or_false] at hf
    rcases hf with rfl | rfl | rfl <;>
      exact ⟨by decide +kernel, by decide +kernel, by decide +kernel, ⟨_, rfl, by decide +kernel⟩, ⟨_, rfl, by decide +kernel⟩, ⟨_, rfl, by decide +kernel, by decide +kernel⟩⟩
  · simp only [List.mem_cons, List.not_mem_nil, or_false] at hp
    rcases hp with rfl | rfl | rfl | rfl | rfl | rfl | rfl | rfl <;> exact ⟨by decide +kernel, _, rfl⟩

theorem witness_VectorMasks :
    (∀ ty < 4, let o := vx ty 0
      ∀ i ∈ [Instr.vceq o, .vclt o, .vcltu o, .mand o, .mor o, .mxor o, .mnot o, .mpop o, .mfirst o, .mbit o, .mtov o], (vxIn (running 0 0)).mayAct i = true)
    ∧ ∀ ty ∈ [4, 5, 6], let o := vx ty 0
        ∀ i ∈ [Instr.vfceq o, .vfclt o, .vfcle o, .vfcun o], (vxIn (running 0 0)).mayAct i = true := by decide +kernel

theorem witness_VectorMoves :
    (∀ ty < 7, let o := vx ty 0
      ∀ i ∈ [Instr.vsel o, .vmov o, .vsplat o, .viota o, .vzero o, .vext o, .vins o, .vrot o, .vzip o, .vunzip o, .vrev o], (vxIn (running 0 0)).mayAct i = true)
    ∧ (∀ md < 3, (vxIn (running 0 0)).mayAct (.vext (vx 3 md)) = true)
    ∧ (running 0 0).cfg.wf = true ∧ ∀ ty ∈ [1, 6], 8 ≤ tyWidth (vx ty 63).ty ∧ (vxIn (running 0 0)).mayAct (.vshuf (vx ty 63)) = true := by decide +kernel

theorem witness_VectorConversions :
    (∀ f ∈ [1, 3, 5, 22], let o := vx 3 (8 * f + 5)
      (vxIn (running 0 0)).mayAct (.vcvt o) = true ∧ fmtWidth (o.md.toNat / 8) ∈ [4, 8, 16, 32])
    ∧ (∀ p ∈ [(0, 2), (1, 2), (2, 1), (4, 0)], let o := vx p.1 p.2
      (vxIn (running 0 0)).mayAct (.vwiden o) = true ∧ (if o.md.getLsbD 1 then 4 else 2) * tyWidth o.ty ≤ 32)
    ∧ ∀ ty ∈ [1, 2, 3], 8 ≤ tyWidth (vx ty 14).ty ∧ (vxIn (running 0 0)).mayAct (.vnarrow (vx ty 14)) = true ∧ (vxIn (running 0 0)).mayAct (.vnarrowu (vx ty 14)) = true := by
  decide +kernel

/-- The element 31 of a block of 32 F32 elements is a number, an infinity or a NaN. -/
def blockOf (v : Nat) : State := vxIn { running 0 0 with pool := Mem.put [] (0x1F8000 + 512 * 8 + 124) 4 v }
theorem witness_VectorQuantisation :
    (∀ v ∈ [0x3F800000, 0x7F800000, 0x7FC00000], ((blockOf v).mayAct (.vqmax (vx 6 0)) = true ∧ (vx 6 0).ty.toNat ∈ [4, 5, 6]) ∧ (blockOf v).active (vx 6 0) 31 = true ∧ 31 < vxCount (vx 6 0))
    ∧ (fmtFP32.val ((blockOf 0x7FC00000).elem (vx 6 0) 8 31)).isNaN = true ∧ (fmtFP32.val ((blockOf 0x7F800000).elem (vx 6 0) 8 31)).isInf = true
    ∧ (∀ i < 32, (fmtFP32.val ((blockOf 0x7F800000).elem (vx 6 0) 8 i)).isNaN = false)
    ∧ (∀ i < 32, ((fmtFP32.val ((blockOf 0x3F800000).elem (vx 6 0) 8 i)).isNaN || (fmtFP32.val ((blockOf 0x3F800000).elem (vx 6 0) 8 i)).isInf) = false)
    ∧ (∀ md ∈ [0, 32, 64, 96, 128, 160, 192, 208], (blockOf 0).mayAct (.vqscale (vx 0 md)) = true)
    ∧ (∀ ty ∈ [4, 6], ∀ md ∈ [5, 197], 16 ≤ tyWidth (vx ty md).ty ∧ (blockOf 0).mayAct (.vqcvt (vx ty md)) = true ∧ (blockOf 0).mayAct (.vdeq (vx ty md)) = true)
    ∧ fmtFP32.val (0x3F800000 % 2 ^ 31) = .num ⟨false, 0x800000, -23⟩ := by decide +kernel

theorem witness_VectorReductions :
    (∀ ty < 4, let o := vx ty 0
      ∀ i ∈ [Instr.vrsum o, .vrsumu o, .vrmax o, .vrmin o], (vxIn (running 0 0)).mayAct i = true)
    ∧ ∀ ty ∈ [4, 5, 6], let o := vx ty 0
        ∀ i ∈ [Instr.vfrsum o, .vfrmax o, .vfrmin o], (vxIn (running 0 0)).mayAct i = true := by decide +kernel

/-- A smaller allotment, and one that is no smaller. -/
theorem witness_VectorShrink : (∀ n ∈ [0, 15, 16], (vxIn (running 0 0)).mayAct (.vshrink (vx 0 n)) = true) ∧ (running 0 0).shrink = none ∧ 4 * 15 < (running 0 0).allotAt 100 := by decide +kernel

/-! The matrix engine. -/

/-- Slots 0 and 1 are claimed, slot 2 is not; block 3 has the tag of a valid entry. -/
def matrix : Tile := { running 0 0 with claims := [[(90, true)], [(90, true)], [], [], [], [], [], []], tags := [(3, 1)] }
def mxs : State := issuing 3 matrix

/-- A promotion of one K-step of INT8 operands (format code 3), fresh, and one of BF16 operands (code 19) with a NaN. -/
def promo (code v : Nat) : Promo := { ent := fmtEntryOf (fmtWord code code 22 0), blk := 0, fresh := true, a := [List.replicate 32 v], b := [List.replicate 32 v], sa := [], sb := [] }
theorem witness_PromotionValues :
    (promo 3 255).a.length = (promo 3 255).b.length ∧ (List.replicate 1024 0).length = 1024 ∧ (∀ e ∈ List.replicate 1024 0, e < 2 ^ 32)
    ∧ (sideImg 19 0 (promo 19 0x7FC0).a [] 31).bad = true
    ∧ (let r := sideImg 3 0 (promo 3 255).a [] 31
       r.bad = false ∧ (∃ x, fmtFP32.val (mul32 (fmtFP32.val (mul32 r.sc r.sc)) (.num ⟨false, 1, r.g + r.g⟩)) = .num x) ∧ (List.zipWith (· * ·) r.im r.im).sum ≠ 0)
    ∧ (List.zipWith (· * ·) (sideImg 3 0 (promo 3 0).a [] 0).im (sideImg 3 0 (promo 3 0).a [] 0).im).sum = 0 := by
  exact ⟨by decide, by decide +kernel, by decide +kernel, by decide +kernel, ⟨by decide +kernel, ⟨_, rfl⟩, by decide +kernel⟩, by decide +kernel⟩

theorem witness_MatrixProducts :
    (∀ p ∈ [(0, 1, 1), (2, 0, 1), (0, 2, 1), (0, 1, 0)],
      let o : MsqOp := { sa := BitVec.ofNat 3 p.1, sb := BitVec.ofNat 3 p.2.1, fe := BitVec.ofNat 4 p.2.2, beats := 0, blk := 3, acc := false }
      ∀ i ∈ [Instr.msq o, .msqTa o, .msqTb o, .msqTab o, .msqIndexed ⟨0, BitVec.ofNat 3 p.1, BitVec.ofNat 3 p.2.1, 0, 0, 0, 3, false⟩], mxs.mayAct i = true)
    ∧ matrix.mxFree ≤ 100 ∧ matrix.claimedAt 0 100 = true ∧ matrix.claimedAt 1 100 = true ∧ matrix.claimedAt 2 100 = false ∧ (matrix.fmtEntry 1).v = true ∧ (matrix.fmtEntry 0).v = false
    ∧ (issuing 3 (withSp [(40, 1)] matrix)).mayAct (.msqIndexed ⟨3, 0, 1, 0, 0, 255, 127, true⟩) = true ∧ ((withSp [(40, 1)] matrix).fmtEntry ((4 * 0 + ((withSp [(40, 1)] matrix).spr 100 40).toNat) % 16)).v = true := by
  decide +kernel

theorem witness_MatrixBlocks :
    matrix.mxFree ≤ 100 ∧ (∀ i ∈ [Instr.mzero 0, .mzero 1, .mdrain ⟨2, 1, 3⟩, .mdrain ⟨1, 1, 3⟩, .mdrain ⟨2, 1, 0⟩, .mdrainm ⟨2, 1, 1, 2, true, 3⟩, .mdrainm ⟨1, 1, 1, 2, false, 3⟩], mxs.mayAct i = true)
    ∧ matrix.noReleased 102 ∧ (matrix.fmtEntry (matrix.tagOf 3)).v = true ∧ (matrix.fmtEntry (matrix.tagOf 3)).ofmt = (matrix.bufRec 2).fmt
    ∧ (matrix.fmtEntry (matrix.tagOf 3)).ofmt ≠ (matrix.bufRec 1).fmt ∧ (matrix.fmtEntry (matrix.tagOf 0)).v = false ∧ matrix.memWf = true := by
  refine ⟨by decide +kernel, by decide +kernel, ?_, by decide +kernel⟩
  intro e he; exact absurd he (by simp [matrix, running, Tile.powerUp])

/-- Each slot in each state, and slot 0 while the MSQ in flight reads it. -/
theorem witness_MatrixControl :
    (∀ i ∈ [Instr.mclaim 0, .mclaim 2, .mrel 0, .mrel 2, .mscl ⟨true, 1, 511⟩, .mstat ⟨3, true⟩], mxs.mayAct i = true)
    ∧ matrix.claimedAt 0 101 = true ∧ matrix.claimedAt 2 101 = false ∧ matrix.mxFree ≤ 100 ∧ matrix.claims.length = 8 ∧ (matrix.mxSlots.contains 0 && decide (100 ≤ matrix.mxReadTo)) = false
    ∧ (let t : Tile := { matrix with mxFree := 102, mxSlots := [0, 1], mxReadTo := 100 }
       100 < t.mxFree ∧ (t.mxSlots.contains 0 && decide (100 ≤ t.mxReadTo)) = true ∧ (issuing 3 t).mayAct (.mrel 0) = true ∧ (issuing 3 t).mayAct (.mclaim 2) = true
       ∧ t.claimedAt 0 101 = true ∧ t.claimedAt 2 101 = false) := by decide +kernel

/-! Memory, fabric, copies, service. -/

def cpIn (t : Tile) : State := issuing 4 t

/-- Elements of each width in scratch and the accumulators, and one in a claimed slot of operand memory. -/
theorem witness_CycleWrites :
    let req : Bool → Nat → WReq := fun pool ba => { rank := 2, iss := 99, slot := 4, pool := pool, els := [⟨ba, 4, 5, 0⟩, ⟨ba, 32, 7, 0⟩], run := none, sink := .fpst, pre := [] }
    (∀ pool, (req pool (8 * 0x2000)).run = none) ∧ matrix.noReleased 100
    ∧ ∀ p ∈ [(true, 8 * 0x2000), (true, 8 * 0x1F7FFC), (false, 0)], ∀ e ∈ (req p.1 p.2).els,
        (e.w = 1 ∨ e.w = 4 ∨ e.w = 8 ∨ e.w = 16 ∨ e.w = 32) ∧ e.ba % min e.w 8 = 0 ∧ (p.1 = true → matrix.partOf 100 (e.ba / 8) ≠ .plane) := by
  refine ⟨fun _ => rfl, ?_, by decide +kernel⟩
  intro e he; exact absurd he (by simp [matrix, running, Tile.powerUp])

def vmem (bn nb : Nat) (imm : Nat) : VMemOp := { v := 8, bn := BitVec.ofNat 5 bn, x := 1, imm := BitVec.ofNat 13 imm, cls := 0, msk := 0, nb := BitVec.ofNat 2 nb }
def vmemx (bn nb : Nat) : VMemXOp := { v := 8, bn := BitVec.ofNat 5 bn, x := 1, vi := 12, cls := 0, msk := 0, nb := BitVec.ofNat 2 nb }
/-- The last beat that fits a trapping record; records that read zero or clamp beyond their ends; indexed forms of at most 256 elements. -/
theorem witness_VectorMemory :
    (∀ p ∈ [(1, 1984), (2, 0), (3, 1920), (6, 8191)], let o := vmem p.1 0 p.2
      (∀ i ∈ [Instr.vld o, .vldb o, .vst o], (cpIn (running 0 0)).mayAct i = true) ∧ ((running 0 0).bufRec p.1).width ∈ [1, 4, 8, 16, 32]
      ∧ ∀ k < 1024 / ((running 0 0).bufRec p.1).width, ((running 0 0).placeLin ((running 0 0).bufRec p.1) (o.imm.toInt + k)).traps = false)
    ∧ (∀ p ∈ [(1, 3), (2, 3), (3, 1)], let o := vmemx p.1 p.2
        (∀ i ∈ [Instr.vldx o, .vstx o], (cpIn (running 0 0)).mayAct i = true) ∧ (p.2 + 1) * (1024 / ((running 0 0).bufRec p.1).width) ≤ 256
        ∧ ∀ k < 256, ((running 0 0).placeLin ((running 0 0).bufRec p.1) ((running 0 0).velem 100 16 12 k : Nat)).traps = false)
    ∧ (∀ p < 64, (running 0 0).readCauses 102 (8 * 0x4000 + 16 * (1984 + p)) 16 = []) := by decide +kernel

/-- An INT32 word, an FP32 word, and an index out of bounds under ZERO. -/
theorem witness_Atomics :
    (∀ b ∈ [2, 6], let o : AtomOp := { s := 3, bn := BitVec.ofNat 5 b, x := 1, v := 2, imm := 0, cls := 0 }
      ∀ i ∈ [Instr.aadd o, .amax o, .amin o, .axch o, .acas o], ∀ x ∈ [1023, 1024], (cpIn (running x 0)).mayAct i = true)
    ∧ (running 1023 0).placeLin ((running 0 0).bufRec 2) 1023 = .at_ (8 * 0x8FFC) ∧ (running 0 0).placeLin ((running 0 0).bufRec 2) 1024 = .zero
    ∧ (running 0 0).partOf 102 0x8FFC ≠ .plane ∧ (running 0 0).atomCauses 102 0x8FFC = [] ∧ 0x8FFC % 4 = 0 := by decide +kernel

theorem witness_Sends :
    (∀ nb ∈ [0, 3], (cpIn (running 0 0)).mayAct (.send { v := 8, cls := 0, port := 4, nb := BitVec.ofNat 2 nb }) = true)
    ∧ (cpIn (running 0 0)).mayAct (.sends { s := 1, cls := 0, port := 0 }) = true ∧ (∀ j < 4, 100 + 1 + j ∉ (running 0 0).localIn)
    ∧ (cpIn { running 0 0 with localIn := [101] }).mayAct (.sends { s := 1, cls := 0, port := 0 }) = true
    ∧ (∀ b ∈ [1, 2], (cpIn (running 0 0)).mayAct (.sendm { bn := BitVec.ofNat 5 b, x := 0, imm := 0, cls := 0, port := 1, nb := 1 }) = true ∧ ((running 0 0).bufRec b).width ∈ [1, 4, 8, 16, 32]
        ∧ ∀ i : Nat, i < 64 → ((running 0 0).placeLin ((running 0 0).bufRec b) i).traps = false)
    ∧ (running 0 0).upsets = [] ∧ ∀ p < 32, (running 0 0).readCauses 100 (8 * 0x4000 + 16 * p) 16 = [] := by decide +kernel

theorem witness_Receives :
    (∀ nb ∈ [0, 3], (cpIn (running 0 0)).mayAct (.recv { v := 8, cls := 0, nb := BitVec.ofNat 2 nb }) = true) ∧ (∀ w ∈ [0, 15], (cpIn (running 0 0)).mayAct (.recvs { s := 0, word := BitVec.ofNat 4 w, cls := 0 }) = true)
    ∧ (∀ b ∈ [1, 3], (cpIn (running 0 0)).mayAct (.recvm { bn := BitVec.ofNat 5 b, x := 0, imm := 0, cls := 0, nb := 3 }) = true ∧ ((running 0 0).bufRec b).width ∈ [1, 4, 8, 16, 32]
        ∧ ∀ i : Nat, i < 256 → ((running 0 0).placeLin ((running 0 0).bufRec b) i).traps = false)
    ∧ (running 0 0).landing = none ∧ (running 0 0).seq.mode = .run ∧ (running 0 0).pendc.length < 4 := by decide +kernel

def cpyOp (st : Nat) : CpyOp := { ch := 3, q := 0, s0 := 0, d0 := 0, g0 := 0, cls := 0, st := BitVec.ofNat 8 st }
def copying (n : Nat) (t : Tile) : Tile :=
  { t with copies := [none, none, none, some { c := 90, s0 := 0, d0 := 0, g0 := 0, gate := false, cvt := true, xpose := false, scale := false, factor := 0, src := t.bufRec 1, dst := t.bufRec 4, msk := t.bufRec 0, sr := t.seqRec 0, n := n, k := 0, cls := 0 }] }
/-- A free channel, one whose copy completes on this cycle, and one whose copy completes on the next. -/
theorem witness_CopyStarts :
    (∀ n ∈ [4, 5], ∀ i ∈ [Instr.cpy (cpyOp 0x40), .cpyg (cpyOp 0x80), .cpyw (cpyOp 0), .cpym (cpyOp 0x30)], (cpIn (copying n (running 0 0))).mayAct i = true)
    ∧ (match (copying 4 (running 0 0)).copies.getD 3 none with | some j => decide (100 < j.completion) | none => false) = false
    ∧ (match (copying 5 (running 0 0)).copies.getD 3 none with | some j => decide (100 < j.completion) | none => false) = true := by decide +kernel

theorem witness_CopyBeats :
    let t := copying 2 (running 0 0)
    ∃ j, t.copies.getD 3 none = some j ∧ 3 < t.copies.length ∧ j.gate = false
      ∧ ∀ e : Nat, e < 32 → (∃ x, t.placeLin j.src (j.s0 + (levelSteps j.sr.levels j.k).1 + (e : Int)) = .at_ x ∧ (if j.src.space = 2 then misaligned x j.src.width = false else t.readCauses 100 x j.src.width = []))
        ∧ ∃ y, t.copyDst j (j.d0 + (levelSteps j.sr.levels j.k).2) e = .at_ y := by
  refine ⟨_, rfl, by decide, rfl, fun e he => ⟨⟨8 * 0x4000 + 16 * e, ?_⟩, 8 * e, ?_⟩⟩ <;> revert e <;> decide +kernel

/-- An access of class 2 that performs by the fence's bound, and one a cycle later. -/
theorem witness_FenceAndPlaneMode :
    let o : FenceOp := { mask := 4, f := 2 }
    let t : Nat → Tile := fun n => { withSp [(9, 1)] (running 0 0) with clsAny := [0, 0, n] ++ List.replicate 13 0 }
    (∀ n ∈ [103, 104], (cpIn (t n)).mayAct (.fence o) = true ∧ (t n).chk 100 = true)
    ∧ (∀ k < 15, o.mask.getLsbD k = true → (t 103).clsAny.getD k 0 ≤ 100 + 1 + o.f.toNat)
    ∧ (o.mask.getLsbD 2 = true ∧ 100 + 1 + o.f.toNat < (t 104).clsAny.getD 2 0 ∧ ∀ j < 2, o.mask.getLsbD j = true → (t 104).clsAny.getD j 0 ≤ 100 + 1 + o.f.toNat)
    ∧ (cpIn (running 0 0)).mayAct (.pmode { sub := 15, rule := 3, ety := false }) = true := by decide +kernel

def transfer (kind : Nat) : Service := { kind := kind, c := 90, pc := 9, d := 3, wait := 0, va := 64, bytes := List.replicate 512 7, moved := 0, done := 0, total := 16, failed := none, launch := 1, who := (0, 0, 5) }
theorem witness_ServiceStarts :
    let m : SvmsgOp := { v := 8, cls := 0, nb := 1 }
    (∀ va ∈ [0, 64, 65], ∀ i ∈ [Instr.svsave ⟨3, 15⟩, .svload ⟨3, 15⟩, .svmsg m], (cpIn (withSp [(12, BitVec.ofNat 64 va)] (running 0 0))).mayAct i = true
      ∧ (cpIn { withSp [(12, BitVec.ofNat 64 va)] (running 0 0) with svc := some (transfer 2) }).mayAct i = true)
    ∧ (running 0 0).svc = none ∧ ((withSp [(12, 65)] (running 0 0)).spr 100 12).toNat % 64 ≠ 0 ∧ ((withSp [(12, 64)] (running 0 0)).spr 100 12).toNat % 64 = 0 := by decide +kernel

/-! The module's events. -/

theorem clean_digest : shaNat DefectMap.clean.bytes = 25701239967208886253891137434797080515871995594142878843856807403761446587339994311288612310233682268435581720159690 := by decide +kernel
theorem clean_verifies : ecVerify EcKey.base DefectMap.clean.bytes DefectMap.clean.sig = true := by
  have h : DefectMap.clean.sig = ecSign resetKey 1 DefectMap.clean.bytes := rfl
  rw [h]
  unfold ecVerify ecSign
  rw [clean_digest]
  decide +kernel
theorem clean_row {fx fy r : Nat} (hx : fx < 12) (hy : fy < 12) (hr : r < 16) : rowEntryOf DefectMap.clean.bytes [] fx fy r = 0x1F := by
  have h : byteAt DefectMap.clean.bytes (0x18 + (fy * 12 + fx) * 16 + r) = 0x1F := by
    unfold byteAt DefectMap.clean
    have n : ([0x4F, 0x57, 0x44, 0x4D, 1, 0, 0, 0xFF] ++ List.replicate 16 0 : List Byte).length = 24 := rfl
    rw [List.getD_eq_getElem?_getD, List.getElem?_append_left (by rw [List.length_append, n, List.length_replicate]; omega),
      List.getElem?_append_right (by rw [n]; omega), n, List.getElem?_replicate, if_pos (by omega)]
    rfl
  unfold rowEntryOf
  rw [h]
  rfl
theorem clean_fields : mapFieldsOk DefectMap.clean.bytes = true := by
  have h : allRows 0xFF (repairable DefectMap.clean.bytes [] 0xFF) = true := by
    unfold allRows repairable
    simp only [List.all_eq_true, List.mem_range, Bool.or_eq_true]
    intro fx hx
    right
    intro fy hy r hr
    rw [clean_row hx hy hr]
    rfl
  unfold mapFieldsOk
  have e : byteAt DefectMap.clean.bytes 7 = 0xFF := by decide +kernel
  simp only [e]
  rw [h]
  decide +kernel
theorem clean_list : remapValid DefectMap.clean.bytes [] = true := by
  have h := clean_fields
  unfold mapFieldsOk at h
  have e : byteAt DefectMap.clean.bytes 7 = 0xFF := by decide +kernel
  simp only [e, Bool.and_eq_true] at h
  unfold remapValid
  simp only [e]
  rw [h.2]
  rfl

/-- An event with operands and bytes, at a cycle. -/
def event (now : Nat) (n : List Nat) (b : List Byte) : State := { State.reset with now := now, arg := ⟨n, b⟩, mode := .ready }

theorem witness_BootAndMaps :
    -- power-on: the reset state verifies and is usable; a bad second stage, and a bad map signature
    (State.reset.fw.length = 5 ∧ (∀ f ∈ State.reset.fw, ecVerify State.reset.vexKey f.image f.sig = true) ∧ State.reset.map = some DefectMap.clean
      ∧ ecVerify State.reset.vexKey DefectMap.clean.bytes DefectMap.clean.sig = true ∧ mapFieldsOk DefectMap.clean.bytes = true
      ∧ ecVerify (EcKey.ofSecret State.reset.devKey) (leBytes 4 0) State.reset.remapSig = true ∧ remapValid DefectMap.clean.bytes State.reset.remap = true)
    ∧ (let fw := [FwImage.empty, { FwImage.empty with sig := [] }, FwImage.empty, FwImage.empty, FwImage.empty]
       fw.length = 5 ∧ ecVerify State.reset.vexKey [] FwImage.empty.sig = true ∧ ecVerify State.reset.vexKey [] [] = false)
    ∧ ecVerify State.reset.vexKey DefectMap.clean.bytes [] = false
    -- the built-in test: no failure, one that may be appended, one whose row is in the list already
    ∧ (let new : RemapEntry := ⟨11, 11, 15, 16⟩
       let s := { event 0 [11, 11, 16, 15] [] with testing := true }
       s.arg.n = [new.fx, new.fy, new.col, new.prow] ∧ s.isNew new = true ∧ canAppend s.mapBytes s.remap new = true ∧ s.meas.length = 8
       ∧ { s with remap := [⟨11, 11, 15, 3⟩] }.isNew new = true ∧ canAppend s.mapBytes [⟨11, 11, 15, 3⟩] new = false ∧ ({ event 0 [] [] with testing := true } : State).arg.n = [])
    -- installations
    ∧ (∀ k ∈ [1, 5], 1 ≤ k ∧ k ≤ 5 ∧ ({ event 0 [k] FwImage.empty.sig with mode := .recovery } : State).arg.nat 0 = k ∧ FwImage.empty.sig.length = 96)
    ∧ (event 0 [] (DefectMap.clean.bytes ++ DefectMap.clean.sig)).mode = .ready ∧ DefectMap.clean.bytes.length = 0x2B20
    ∧ (event 0 [] (DefectMap.clean.bytes ++ [])).arg.bytes = DefectMap.clean.bytes ++ []
    -- the full test
    ∧ ({ State.reset with mode := .serviceOnly } : State).mode = .serviceOnly ∧ ({ event 0 [3] [] with fullTest := true } : State).arg.n = [3]
    ∧ ({ event 0 [0, 11, 11, 16, 15] [] with fullTest := true } : State).arg.n = [0, (⟨11, 11, 15, 16⟩ : RemapEntry).fx, 11, 16, 15]
    ∧ ({ event 0 [1, 0, 4, 2, 15, 0, 4, 16, 15] [] with fullTest := true } : State).arg.n = [1, 0, 4, 2, 15, 0, 4, 16, 15] ∧ (0 = 0 ∧ 1 % 2 = 1)
    ∧ ({ event 0 [2, 11, 4, 2, 0, 11, 4, 0, 0] [] with fullTest := true } : State).arg.n = [2, 11, 4, 2, 0, 11, 4, 0, 0] ∧ (11 = 11 ∧ 2 / 2 % 2 = 1) := by
  refine ⟨⟨by decide, ?_, rfl, clean_verifies, clean_fields, by decide +kernel, clean_list⟩, by decide +kernel, by decide +kernel, by decide +kernel, by decide +kernel, rfl, by decide +kernel, rfl, rfl, rfl, rfl, rfl, by decide, rfl, by decide⟩
  intro f hf
  obtain rfl := List.eq_of_mem_replicate hf
  decide +kernel

theorem witness_ClockAndHeat :
    (∀ n ∈ [32, 64], 32 ≤ ({ event 4194304 [4] [] with n := n } : State).n ∧ n ≤ 64 ∧ ({ event 4194304 [4] [] with n := n } : State).nDue.getD n = n ∧ ({ event 4194304 [4] [] with n := 48, nDue := some n } : State).nDue.getD 48 = n) ∧ (event 4194304 [4] []).overAt / 65536 + 64 ≤ (event 4194304 [4] []).now / 65536 ∧ (event 4194304 [4] []).nNext = none
    ∧ (32 ≤ (event 0 [60] []).arg.nat 0 ∧ (event 0 [60] []).arg.nat 0 ≤ 64 ∧ (event 0 [60] []).arg.nat 0 ≤ (event 0 [60] []).n + 4 ∧ (event 0 [60] []).n ≤ (event 0 [60] []).arg.nat 0 + 4)
    ∧ ((event 0 [1, 7, 1, 10] []).arg.nat 0 ≤ 1 ∧ (-7 : Int) = (if (event 0 [1, 7, 1, 10] []).arg.nat 0 = 1 then -(((event 0 [1, 7, 1, 10] []).arg.nat 1 : Nat) : Int) else 7) ∧ (-10 : Int).natAbs ≤ 10)
    ∧ (event 0 [] []).mode = .ready ∧ (({ event 0 [] [] with mode := .thermalHalt } : State).halts = [] ∧ ({ event 0 [] [] with mode := .thermalHalt } : State).launches = [])
    ∧ (∀ d ∈ [0, 1], let s := event 0 [191, 0, d, 5] []
        s.arg.nat 2 ≤ 1 ∧ s.inGrid 191 0 = true ∧ (s.tile 191 0).seq.hold = .none ∧ (s.tile 191 0).launch = none ∧ (s.tile 191 0).align = none) := by decide +kernel

theorem witness_DebugUnit :
    (event 0 [191, 0, 0, 5] []).inGrid 191 0 = true ∧ (List.replicate 4096 (1 : Byte)).length = 4096
    ∧ (let t : Tile := { running 0 0 with seq := { Seq.idle with mode := .debug } }
       let s : State := { event 288 [0, 0, 4, 500] [] with tiles := [(0, t)] }
       s.arg.nat 2 = 4 ∧ (s.tile 0 0).seq.mode = .debug)
    -- the first and the last payload of a filter, and the one payload of a word
    ∧ (∀ p ∈ [(512, 0), (512, 15), (4, 0)], let t : Tile := { running 0 0 with svcIn := [⟨1, leBytes p.1 5, p.2⟩] }
       let s : State := { event 288 [0, 0] [] with tiles := [(0, t)] }
       (s.tile 0 0).svcIn = ⟨1, leBytes p.1 5, p.2⟩ :: [] ∧ s.now % 288 = 0 % 16 + 16 * (0 % 16) ∧ (s.tile 0 0).downAt = none ∧ (s.tile 0 0).svc = none ∧ s.launches = [])
    -- a request on its first cycle, and another still to come
    ∧ (let t : Tile := { running 0 0 with stopReq := [100, 170] }
       t.seq.mode = .run ∧ t.seq.due = none ∧ t.seq.hold = .none ∧ ∃ r ∈ t.stopReq, r ≤ 100)
    ∧ (let t : Tile := { running 0 0 with stopAt := some 90, seq := { Seq.idle with mode := .debug } }
       t.stopAt = some 90 ∧ t.seq.mode = .debug)
    ∧ (∀ a ∈ [0, 0x1FFFFF], (event 0 [0, 0, a, 1] []).arg.nat 2 / 4 * 4 < 0x200000) ∧ (running 0 0).pool.wf = true := by
  refine ⟨by decide +kernel, List.length_replicate, ?_⟩
  decide +kernel

theorem witness_PortAnswers :
    let s : State := { event 0 [1, 9216, 4, 17, 0, 9, 7, 40000, 52107, 0] [1] with ports := [HostPort.fresh, { mac := 5, ip4 := 7, ip6 := 8, packets := 0, discards := 0, retrans := 0 }] }
    (s.arg.nat 0 = 1 ∧ s.arg.nat 1 ≤ 9216 ∧ s.arg.nat 6 = (s.port 1).ip4 ∧ ¬ (s.arg.nat 2 = 4 ∧ s.arg.nat 4 = 1)) ∧ s.arg.nat 6 ≠ (s.port 1).ip6
    ∧ (event 0 [1, 9217, 4] []).arg.nat 1 = 9217 ∧ (event 0 [2, 64, 4] []).arg.nat 0 = 2 ∧ s.udpComes 1 7 9 40000 ∧ leAt s.arg.bytes 0 2 ≠ 0xC4A7
    ∧ (s.mode ≠ .reset ∧ s.mode ≠ .recovery) ∧ ({ s with mode := .recovery } : State).mode = .recovery
    ∧ (let e : State := { s with arg := ⟨[1, 64, 6, 58, 0, 9, 8], [1, 2]⟩ }
       e.arg.nat 6 = (e.port 1).ip6 ∧ e.arg.nat 6 ≠ (e.port 1).ip4) := by
  unfold State.udpComes; decide +kernel

/-- A frame with a packet comes to port 0, from address 9 and UDP port 40,000 to address 7. -/
def framed (p : Packet) (s : State) : State := { s with arg := ⟨[0, 1000, 4, 17, 0, 9, 7, 40000, 52107, 0], p.wire⟩ }
def packet (typ sid seq : Nat) (b : List Byte) : Packet := { typ := typ, sid := sid, seq := seq, ack := 3, sack := 0, first := true, last := false, bytes := b }
def session1 : Session :=
  { sid := 1, port := 0, own := 7, addr := 9, udp := 40000, vlan := none, admin := false, rxNext := 5, held := [], unacked := 0, msg := none, skip := false, txNext := 0, out := [], wait := [], subs := [] }
def held (seq retries : Nat) : DataPkt := { seq := seq, first := true, last := false, bytes := [1], retries := retries }

theorem witness_Sessions_open :
    ∀ role ∈ [0, 1, 2], let p := packet 3 0 0 [BitVec.ofNat 8 role, 0, 0, 0]
      (∀ m ∈ [ModState.reset, .recovery, .ready], (framed p { State.reset with mode := m }).packetComes 0 7 9 40000 0x03 p) ∧ leAt p.bytes 0 1 = role ∧ leAt p.bytes 1 3 = 0
      ∧ (1 < 2 ∨ (role = 1 ∧ 9 ∉ ([] : List Nat))) ∧ ¬ (1 < 1 ∨ (1 = 1 ∧ 9 ∉ [9]))
      ∧ 64 ≤ (List.replicate 64 session1).length ∧ (List.replicate 63 session1).length < 64 := by
  unfold State.packetComes State.udpComes Packet.inRange; decide +kernel

def holding (e : Session) (s : State) : State := { s with sessions := [e] }
theorem witness_Sessions_packets :
    (∀ e ∈ [session1, { session1 with unacked := 14 }, { session1 with unacked := 15 }], (holding e State.reset).session e.sid = some e ∧ e.out = [] ∧ e.wait = [] ∧ e.msg = none ∧ e.held = [])
    -- d = 0, 1, 64, and 2^31 and the last old one; PROBE, CLOSE and ACK
    ∧ (∀ q ∈ [(5, 0), (6, 1), (69, 64), (2 ^ 31 + 5, 2 ^ 31), (4, 2 ^ 32 - 1)], (q.1 + 2 ^ 32 - session1.rxNext) % 2 ^ 32 = q.2 ∧
        ∀ typ ∈ [1, 2, 6, 7], let p := packet typ 1 q.1 [1]
          (framed p (holding session1 State.reset)).packetComes session1.port session1.own session1.addr session1.udp typ p ∧ p.sid = session1.sid ∧ p.first = true ∧ p.last = false)
    ∧ (¬ ∃ c < 16, State.reset.isOpen c = true ∧ (State.reset.ctx c).owner = session1.sid)
    -- a packet from another UDP port
    ∧ (0, 7, 9, 40000) ≠ (session1.port, session1.own, session1.addr, 40001) ∧ (framed (packet 1 1 5 [1]) State.reset).packetComes 0 7 9 40000 1 (packet 1 1 5 [1])
    -- a held packet whose turn has come, and the timers
    ∧ (let e : Session := { session1 with held := [held 5 0] }
       let t : State := holding e { State.reset with arg := ⟨[1, 5], []⟩ }
       t.session e.sid = some e ∧ t.arg.n = [e.sid, (held 5 0).seq] ∧ (held 5 0).seq = e.rxNext ∧ (held 5 0).bytes.length ≤ 8192)
    ∧ ∀ r ∈ [11, 12], let e : Session := { session1 with out := [held 3 r], unacked := 1 }
        let t : State := holding e { State.reset with arg := ⟨[1, 3], []⟩ }
        t.session e.sid = some e ∧ t.arg.nat 0 = e.sid ∧ 0 < e.unacked ∧ held 3 r ∈ e.out ∧ (held 3 r).seq = t.arg.nat 1 ∧ (∀ q ∈ e.out, q.seq = (held 3 r).seq → q = held 3 r) := by
  unfold State.packetComes State.udpComes Packet.inRange
  refine ⟨?_, ?_, ?_, ?_, ?_, ?_, ?_⟩ <;> decide +kernel

/-! Commands of a context. -/

/-- A command of session 1 on context 2, queue 3, tag 77, at cycle 1000. -/
def command (b : List Byte) (k : Context) : State :=
  { event 1000 [1, 2, 3, 77] b with contexts := (List.replicate 16 Context.closed).set 2 k, sessions := [session1] }
def opened : Context := { Context.closed with opening := 1, owner := 1 }
def queued : Cmd := { sess := 1, ctx := 2, queue := 3, kind := 4, tag := 5, deps := [], body := [], resume := none }
def lnr0 : Lnr :=
  { img := 0, x0 := 0, y0 := 0, w := 1, h := 1, cnt := [2, 1, 1, 1], ndim := 1, order := 0, preload := 0, period := 200, param := 0x4000, dom := 0, seed := 9, rbsp := 1000, pper := 700, entry := 4
    cset := 0, level := 2, psave := 16 }
/-- Launch 1 of context 2, on the tile (0, 0). -/
def launch1 : Launch :=
  { id := 1, cmd := { queued with kind := 6 }, node := none, opening := 1, image := 0, lnrIdx := 0, lnr := lnr0, level := 2, params := [], startAt := 0, scripts := [], d := 0, lf := some 10, tstart0 := some 100
    tstart := 100, runStart := 100, phase := .running, stop := none, behind := none, stopped := none, preemptAgain := false, discardFrom := none, retire := none, ckpt := 0, resumedFrom := 0, halts := 0, resume := none, log := []
    logCount := 0, logLost := 0 }

theorem witness_ContextCommands :
    -- a closed context and an open one; nothing queued, a command to cancel, a saved launch back in its queue
    (let s := command [] Context.closed
     s.contexts.length = 16 ∧ s.arg.nat 1 < 16 ∧ (s.ctx 2).opening = 0)
    ∧ (let k : Context := { opened with queues := opened.queues.set 3 [queued] }
       let s := command (leBytes 8 5) k
       (s.ctx 2).opening ≠ 0 ∧ (s.ctx 2).closing = false ∧ s.launches = [] ∧ s.runs = [] ∧ s.jobs = [] ∧ s.loads = [] ∧ (∀ q ∈ (s.ctx 2).queues.flatMap id, q.ctx = 2)
       ∧ queued ∈ (s.ctx 2).queues.flatMap id ∧ queued.tag = leAt s.arg.bytes 0 8 ∧ queued.resume = none ∧ (∀ o ∈ (s.ctx 2).queues.flatMap id, o.tag = queued.tag → o = queued)
       ∧ (∀ o ∈ (s.ctx 2).queues.flatMap id, queued.tag ∉ o.deps))
    ∧ (let k : Context := { opened with queues := opened.queues.set 3 [{ launch1.cmd with resume := some 1 }] }
       let s : State := { command [] k with launches := [{ launch1 with phase := .saved }] }
       ∀ l ∈ s.launches, l.cmd.ctx = 2 → ∃ q ∈ (s.ctx 2).queues.flatMap id, q.resume = some l.id)
    ∧ ((command [] opened).ctx 2).queues.flatMap id = []
    -- PREEMPT of a tag and of all, without and with a halt's stop before and after its own
    ∧ (∀ b ∈ [5, 2 ^ 64 - 1], let s : State := { command (leBytes 8 b) opened with launches := [launch1] }
        s.launches = [launch1] ∧ launch1.cmd.ctx = 2 ∧ (leAt s.arg.bytes 0 8 = 2 ^ 64 - 1 ∨ launch1.cmd.tag = leAt s.arg.bytes 0 8) ∧ launch1.phase = .running ∧ launch1.lnr.psave ≠ 0
        ∧ (∀ x ∈ launch1.scripts, x.unit < 48) ∧ launch1.lnr.rbsp ≠ 0 ∧ launch1.stop = none)
    ∧ (∀ h ∈ [none, some 1048, some 1100, some 2100], let l : Launch := { launch1 with stop := some ⟨1048, h, .halt 0xA0 1000⟩ }
        l.stop = some ⟨1048, h, .halt 0xA0 1000⟩ ∧ l.behind = none ∧ l.preemptAgain = false)
    -- the commands that name no context
    ∧ (∀ k ∈ [1, 2, 3, 6, 7], (({ event 1000 [1, 0xFF, 0, 77] (leBytes 4 k) with sessions := [session1] } : State).queryBody { queued with ctx := 0xFF, kind := 13 } k).isSome = true)
    ∧ ({ event 1000 [1, 0xFF, 0, 77] [] with sessions := [session1] } : State).arg.nat 1 = 0xFF ∧ ({ event 1000 [1, 0xFF, 0, 77] [] with sessions := [session1] } : State).session 1 = some session1
    ∧ ({ event 0 [0, 0xFF] [] with mode := .reset } : State).arg.nat 0 = 0 ∧ ({ event 0 [0, 0xFF] [] with mode := .recovery } : State).mode ≠ .reset := by decide +kernel

/-! Images and commands on data. -/

/-- An id's bytes from an address. -/
def idCells (a : Nat) (b : Fin 8 → Byte) : Mem := [(a, b 0), (a + 1, b 1), (a + 2, b 2), (a + 3, b 3), (a + 4, b 4), (a + 5, b 5), (a + 6, b 6), (a + 7, b 7)]
def planeDemo : Mem := [(30843, 0x80), (30844, 1), (30982, 4)]
/-- An image of three sections with one record, for the tile (0, 0): a plane of one code block without a jump table, whose last switch entry stops, and a code half of one issue word (R400, R132, R171). -/
def imageRest : Mem := [(202, 1), (203, 1), (204, 1), (208, 1), (212, 1), (216, 1), (220, 1), (221, 228), (224, 200), (229, 0x40), (31099, 0x80), (31100, 1), (31238, 4)]
def imageTable : Mem := [(16, 3), (20, 1), (24, 0x42), (25, 0x7A), (64, 1), (72, 192), (80, 64), (96, 2), (105, 1), (112, 8), (113, 0x79), (128, 3), (136, 0x40), (137, 0x7A), (144, 2)]
def imageDemo (b : Fin 8 → Byte) : Mem := [(0, 0x4C), (1, 0x49), (2, 0x4D), (3, 0x47), (4, 1)] ++ idCells 8 b ++ imageTable ++ idCells 192 b ++ imageRest

theorem take_before (r : Mem) : ∀ (n a : Nat) (l : Mem), (∀ c ∈ r, a + n ≤ c.1) → Mem.take n a (l ++ r) = Mem.take n a l := by
  intro n
  induction n with
  | zero => intros; rfl
  | succ n ih =>
    intro a l hr
    have hr' : ∀ c ∈ r, a + 1 + n ≤ c.1 := fun c h => by have := hr c h; omega
    cases l with
    | nil =>
      have e := ih (a + 1) [] hr'
      rw [List.nil_append] at e ⊢
      cases r with
      | nil => rfl
      | cons c r =>
        have : c.1 ≠ a := by have := hr c (by simp); omega
        simp only [Mem.take, if_neg this, e]
    | cons c l =>
      have e1 := ih (a + 1) l hr'
      have e2 := ih (a + 1) (c :: l) hr'
      rw [List.cons_append] at e2 ⊢
      simp only [Mem.take]
      split <;> simp_all

theorem bytes_mid (p l r : Mem) (a n : Nat) (hp : ∀ c ∈ p, c.1 < a) (hr : ∀ c ∈ r, a + n ≤ c.1) : Mem.bytes (p ++ (l ++ r)) a n = Mem.bytes l a n := by
  have h1 : ∀ p : Mem, (∀ c ∈ p, c.1 < a) → Mem.from (p ++ (l ++ r)) a = Mem.from (l ++ r) a := by
    intro p hp
    induction p with
    | nil => rfl
    | cons c p ih => simp [Mem.from, hp c (by simp), ih fun d hd => hp d (by simp [hd])]
  have h2 : Mem.from r a = r := by
    cases r with
    | nil => rfl
    | cons c r => have := hr c (by simp); simp [Mem.from]; intro; omega
  have h3 : Mem.from (l ++ r) a = Mem.from l a ++ r := by
    clear h1
    induction l with
    | nil => simp [h2, Mem.from]
    | cons c l ih => rw [List.cons_append]; simp only [Mem.from]; split <;> simp_all
  rw [Mem.bytes, h1 p hp, h3, take_before r n a _ hr, Mem.bytes]

def imageHead : Mem := [(0, 0x4C), (1, 0x49), (2, 0x4D), (3, 0x47), (4, 1)]

theorem demo_head (b : Fin 8 → Byte) (a n : Nat) (h : a + n ≤ 8) : (imageDemo b).bytes a n = imageHead.bytes a n := by
  have := bytes_mid [] imageHead (idCells 8 b ++ imageTable ++ idCells 192 b ++ imageRest) a n (by simp) (by simp [idCells, imageTable, imageRest]; omega)
  simpa [imageDemo, imageHead, List.append_assoc] using this

theorem demo_table (b : Fin 8 → Byte) (a n : Nat) (h : 16 ≤ a) (h' : a + n ≤ 192) : (imageDemo b).bytes a n = imageTable.bytes a n := by
  have := bytes_mid (imageHead ++ idCells 8 b) imageTable (idCells 192 b ++ imageRest) a n (by simp [idCells, imageHead]; omega) (by simp [idCells, imageRest]; omega)
  simpa [imageDemo, imageHead, List.append_assoc] using this

theorem demo_rest (b : Fin 8 → Byte) (a n : Nat) (h : 200 ≤ a) : (imageDemo b).bytes a n = imageRest.bytes a n := by
  have := bytes_mid (imageHead ++ idCells 8 b ++ imageTable ++ idCells 192 b) imageRest [] a n (by simp [idCells, imageHead, imageTable]; omega) (by simp)
  simpa [imageDemo, imageHead, List.append_assoc] using this

theorem demo_secs (b : Fin 8 → Byte) : imgSecs (imageDemo b) = [⟨1, 0, 0, 0, 0, 0, 0, 192, 64, 0, 0⟩, ⟨2, 0, 0, 0, 0, 0, 0, 256, 30984, 0, 0⟩, ⟨3, 0, 0, 0, 0, 0, 0, 31296, 2, 0, 0⟩] := by
  rw [imgSecs, imgNsec, Mem.nat, demo_table b _ _ (by decide) (by decide), show leNat (imageTable.bytes 16 4) = 3 by decide +kernel, show List.range 3 = [0, 1, 2] from rfl]
  simp only [List.map, secAt]
  rw [demo_table b _ _ (by decide) (by decide), demo_table b _ _ (by decide) (by decide), demo_table b _ _ (by decide) (by decide)]
  decide +kernel

theorem demo_layout (s : State) (hs : s.sku = 0) (b : Fin 8 → Byte) : checkLayout s (imageDemo b) 31298 [⟨1, 0, 0, 0, 0, 0, 0, 192, 64, 0, 0⟩, ⟨2, 0, 0, 0, 0, 0, 0, 256, 30984, 0, 0⟩, ⟨3, 0, 0, 0, 0, 0, 0, 31296, 2, 0, 0⟩] = none := by
  have g : gapsZero (imageDemo b) 31298 3 [⟨1, 0, 0, 0, 0, 0, 0, 192, 64, 0, 0⟩, ⟨2, 0, 0, 0, 0, 0, 0, 256, 30984, 0, 0⟩, ⟨3, 0, 0, 0, 0, 0, 0, 31296, 2, 0, 0⟩] = true := rfl
  have n3 : imgNsec (imageDemo b) = 3 := by rw [imgNsec, Mem.nat, demo_table b _ _ (by decide) (by decide)]; decide +kernel
  have n1 : imgNlnr (imageDemo b) = 1 := by rw [imgNlnr, Mem.nat, demo_table b _ _ (by decide) (by decide)]; decide +kernel
  rw [checkLayout, n3, n1, hs]
  rw [g]
  simp only [Mem.nat]
  rw [demo_head b 0 4 (by decide), demo_head b 4 2 (by decide), demo_head b 6 1 (by decide), demo_head b 7 1 (by decide), demo_table b 0x18 8 (by decide) (by decide), demo_table b 0x20 32 (by decide) (by decide)]
  have e : ∀ q : Sec → Sec → Bool, anyPair (fun a b => (a.ty == 5 || a.ty == 6) && a.ty == b.ty && a.lnr == b.lnr && q a b) [(⟨1, 0, 0, 0, 0, 0, 0, 192, 64, 0, 0⟩ : Sec), ⟨2, 0, 0, 0, 0, 0, 0, 256, 30984, 0, 0⟩, ⟨3, 0, 0, 0, 0, 0, 0, 31296, 2, 0, 0⟩] = false := fun _ => rfl
  rw [e]
  decide +kernel

theorem demo_plane (b : Fin 8 → Byte) : Mem.write [] 0 ((imageDemo b).bytes 256 planeBytes) = planeDemo := by
  rw [demo_rest b _ _ (by decide)]; decide +kernel

def recDemo (v : Nat) : Lnr :=
  { img := v, x0 := 0, y0 := 0, w := 1, h := 1, cnt := [1, 1, 1, 1], ndim := 1, order := 228, preload := 0, period := 200, param := 0x4000, dom := 0, seed := 0, rbsp := 0, pper := 0, entry := 0, cset := 0, level := 0, psave := 0 }

theorem demo_rec (b : Fin 8 → Byte) : ∃ v, imgLnr (imageDemo b) [(⟨1, 0, 0, 0, 0, 0, 0, 192, 64, 0, 0⟩ : Sec), ⟨2, 0, 0, 0, 0, 0, 0, 256, 30984, 0, 0⟩, ⟨3, 0, 0, 0, 0, 0, 0, 31296, 2, 0, 0⟩] 0 = recDemo v := ⟨_, rfl⟩

theorem demo_lnr (s : State) (b : Fin 8 → Byte) : checkLnr s (imageDemo b) [(⟨1, 0, 0, 0, 0, 0, 0, 192, 64, 0, 0⟩ : Sec), ⟨2, 0, 0, 0, 0, 0, 0, 256, 30984, 0, 0⟩, ⟨3, 0, 0, 0, 0, 0, 0, 31296, 2, 0, 0⟩] false 0 = none := by
  obtain ⟨v, h⟩ := demo_rec b
  have hp : planeOf (imageDemo b) [(⟨1, 0, 0, 0, 0, 0, 0, 192, 64, 0, 0⟩ : Sec), ⟨2, 0, 0, 0, 0, 0, 0, 256, 30984, 0, 0⟩, ⟨3, 0, 0, 0, 0, 0, 0, 31296, 2, 0, 0⟩] 0 0 0 = planeDemo := by
    have : [(⟨1, 0, 0, 0, 0, 0, 0, 192, 64, 0, 0⟩ : Sec), ⟨2, 0, 0, 0, 0, 0, 0, 256, 30984, 0, 0⟩, ⟨3, 0, 0, 0, 0, 0, 0, 31296, 2, 0, 0⟩].find? (fun e => e.serves 2 0 0 0) = some (⟨2, 0, 0, 0, 0, 0, 0, 256, 30984, 0, 0⟩ : Sec) := by decide
    rw [planeOf, this]
    exact demo_plane b
  have f2 : [(⟨1, 0, 0, 0, 0, 0, 0, 192, 64, 0, 0⟩ : Sec), ⟨2, 0, 0, 0, 0, 0, 0, 256, 30984, 0, 0⟩, ⟨3, 0, 0, 0, 0, 0, 0, 31296, 2, 0, 0⟩].filter (fun e => e.ty == 2 && e.cset == 0) = [(⟨2, 0, 0, 0, 0, 0, 0, 256, 30984, 0, 0⟩ : Sec)] := by decide
  have g2 : [(⟨1, 0, 0, 0, 0, 0, 0, 192, 64, 0, 0⟩ : Sec), ⟨2, 0, 0, 0, 0, 0, 0, 256, 30984, 0, 0⟩, ⟨3, 0, 0, 0, 0, 0, 0, 31296, 2, 0, 0⟩].filter (fun e => e.serves 2 0 0 0) = [(⟨2, 0, 0, 0, 0, 0, 0, 256, 30984, 0, 0⟩ : Sec)] := by decide
  have g3 : [(⟨1, 0, 0, 0, 0, 0, 0, 192, 64, 0, 0⟩ : Sec), ⟨2, 0, 0, 0, 0, 0, 0, 256, 30984, 0, 0⟩, ⟨3, 0, 0, 0, 0, 0, 0, 31296, 2, 0, 0⟩].filter (fun e => e.serves 3 0 0 0) = [⟨3, 0, 0, 0, 0, 0, 0, 31296, 2, 0, 0⟩] := by decide
  have ht : (recDemo v).tiles = [(0, 0)] := by simp [Lnr.tiles, recDemo]
  have hf : (recDemo v).fieldsBad = false := by
    change (recDemo 0).fieldsBad = false; decide +kernel
  have hd : (planeTile planeDemo).lay.cb = 8192 ∧ 0x4000 + 4096 ≤ (planeTile planeDemo).lay.pb ∧ (planeTile planeDemo).codeLen = 2048 := by decide +kernel
  have hs : (List.range 4).any (fun port => s.leaves (recDemo v) 0 0 port && (List.range 512).any fun e => swSource ((planeTile planeDemo).switchWord e) port != 0) = false := by
    have : ∀ port ∈ List.range 4, (List.range 512).any (fun e => swSource ((planeTile planeDemo).switchWord e) port != 0) = false := by decide +kernel
    rw [List.any_eq_false]; intro p hp; simp [this p hp]
  rw [checkLnr, h]
  dsimp only
  rw [hf, ht]
  have r : (recDemo v).cset = 0 ∧ (recDemo v).x0 = 0 ∧ (recDemo v).y0 = 0 ∧ (recDemo v).param = 0x4000 ∧ (recDemo v).entry = 0 ∧ (recDemo v).rbsp = 0 := ⟨rfl, rfl, rfl, rfl, rfl, rfl⟩
  have hq : decide (0x4000 + 4096 > (planeTile planeDemo).lay.pb) = false := by simpa using hd.2.1
  rw [List.any_cons, List.any_nil]
  simp only [r, Nat.sub_zero, f2, g2, g3, hp, hs, List.any_cons, List.any_nil, demo_plane, hd.1, hd.2.2, hq]
  decide

theorem demo_planeOk : checkPlane planeDemo = none := by decide +kernel

theorem zeros_words (N : Nat) : ∀ n a, ∃ l, codeWords (List.replicate N 0) n a = .inl l ∧ ∀ e ∈ l, e.2 = 0 := by
  intro n
  induction n with
  | zero => exact fun a => ⟨[], rfl, by simp⟩
  | succ n ih =>
    intro a
    obtain ⟨l, h, hl⟩ := ih (a + 1)
    by_cases ha : a < N
    · exact ⟨(a, 0) :: l, by simp [codeWords, ha, h], by simpa using hl⟩
    · exact ⟨[], by simp [codeWords, ha], by simp⟩

theorem demo_code (p : Mem) (hl : (planeTile p).codeLen = 2048) : checkCode p [0, 0] = none := by
  have hg : (List.range (([0, 0] : List Byte).length / 2)).map (fun k => leAt [0, 0] (2 * k) 2) = [0] := by decide +kernel
  obtain ⟨l, h, hz⟩ := zeros_words 2048 2048 0
  have hr : ([0] : List Nat) ++ List.replicate (2048 - ([0] : List Nat).length) 0 = List.replicate 2048 0 := by
    exact (List.replicate_succ (n := 2047) (a := (0 : Nat))).symm
  rw [checkCode]
  simp only [-List.reduceReplicate, hl, hg, hr, h]
  rw [List.findSome?_eq_none_iff]
  intro e he
  simp [hz e he]

theorem demo_checks (s : State) (hs : s.sku = 0) (b : Fin 8 → Byte) : s.loadChecks (imageDemo b) 31298 = none := by
  have hc : (imageDemo b).bytes 31296 2 = [0, 0] := by rw [demo_rest b _ _ (by decide)]; decide +kernel
  have hn : imgNlnr (imageDemo b) = 1 := by rw [imgNlnr, Mem.nat, demo_table b _ _ (by decide) (by decide)]; decide +kernel
  have h1 := demo_layout s hs b
  have h2 := demo_lnr s b
  have h3 := demo_plane b
  have h4 := demo_secs b
  have h5 := demo_planeOk
  have h7 : (planeTile planeDemo).codeLen = 2048 := by decide +kernel
  have h6 := demo_code _ h7
  generalize imageDemo b = m at *
  generalize planeDemo = p at *
  unfold State.loadChecks
  rw [h4]
  have hw : [(⟨1, 0, 0, 0, 0, 0, 0, 192, 64, 0, 0⟩ : Sec), ⟨2, 0, 0, 0, 0, 0, 0, 256, 30984, 0, 0⟩, ⟨3, 0, 0, 0, 0, 0, 0, 31296, 2, 0, 0⟩].any (fun e => e.ty == 5 && (hdrAt m e.off).nwr != 0) = false := rfl
  have hA : (List.range 1).findSome? (checkLnr s m [(⟨1, 0, 0, 0, 0, 0, 0, 192, 64, 0, 0⟩ : Sec), ⟨2, 0, 0, 0, 0, 0, 0, 256, 30984, 0, 0⟩, ⟨3, 0, 0, 0, 0, 0, 0, 31296, 2, 0, 0⟩] false) = none := by
    rw [List.findSome?_eq_none_iff]; intro i hi; obtain rfl : i = 0 := by simpa using hi
    exact h2
  have hB : ([(⟨1, 0, 0, 0, 0, 0, 0, 192, 64, 0, 0⟩ : Sec), ⟨2, 0, 0, 0, 0, 0, 0, 256, 30984, 0, 0⟩, ⟨3, 0, 0, 0, 0, 0, 0, 31296, 2, 0, 0⟩].filter fun e => e.ty == 2).findSome? (fun e => checkPlane (Mem.write [] 0 (m.bytes e.off planeBytes))) = none := by
    rw [List.findSome?_eq_none_iff]; intro e he
    rw [show e = (⟨2, 0, 0, 0, 0, 0, 0, 256, 30984, 0, 0⟩ : Sec) by simpa using he]
    exact h3 ▸ h5
  have hC : ([(⟨1, 0, 0, 0, 0, 0, 0, 192, 64, 0, 0⟩ : Sec), ⟨2, 0, 0, 0, 0, 0, 0, 256, 30984, 0, 0⟩, ⟨3, 0, 0, 0, 0, 0, 0, 31296, 2, 0, 0⟩].filter fun e => e.ty == 3).findSome? (fun c => match [(⟨1, 0, 0, 0, 0, 0, 0, 192, 64, 0, 0⟩ : Sec), ⟨2, 0, 0, 0, 0, 0, 0, 256, 30984, 0, 0⟩, ⟨3, 0, 0, 0, 0, 0, 0, 31296, 2, 0, 0⟩].filter fun e => e.ty == 2 && e.cset == c.cset && e.meets c with
      | [] => checkLits (m.bytes c.off c.len)
      | ps => ps.findSome? fun e => checkCode (Mem.write [] 0 (m.bytes e.off planeBytes)) (m.bytes c.off c.len)) = none := by
    rw [List.findSome?_eq_none_iff]; intro e he
    obtain rfl : e = (⟨3, 0, 0, 0, 0, 0, 0, 31296, 2, 0, 0⟩ : Sec) := by simpa using he
    rw [show [(⟨1, 0, 0, 0, 0, 0, 0, 192, 64, 0, 0⟩ : Sec), ⟨2, 0, 0, 0, 0, 0, 0, 256, 30984, 0, 0⟩, ⟨3, 0, 0, 0, 0, 0, 0, 31296, 2, 0, 0⟩].filter (fun e => e.ty == 2 && e.cset == (⟨3, 0, 0, 0, 0, 0, 0, 31296, 2, 0, 0⟩ : Sec).cset && e.meets (⟨3, 0, 0, 0, 0, 0, 0, 31296, 2, 0, 0⟩ : Sec)) = [(⟨2, 0, 0, 0, 0, 0, 0, 256, 30984, 0, 0⟩ : Sec)] by decide]
    rw [hc, List.findSome?_eq_none_iff]; intro e he
    rw [show e = (⟨2, 0, 0, 0, 0, 0, 0, 256, 30984, 0, 0⟩ : Sec) by simpa using he]
    exact h3 ▸ h6
  have hD : bad3 0xFFFFFFFF ([(⟨1, 0, 0, 0, 0, 0, 0, 192, 64, 0, 0⟩ : Sec), ⟨2, 0, 0, 0, 0, 0, 0, 256, 30984, 0, 0⟩, ⟨3, 0, 0, 0, 0, 0, 0, 31296, 2, 0, 0⟩].any fun e => (e.ty == 3 && codeBad m [(⟨1, 0, 0, 0, 0, 0, 0, 192, 64, 0, 0⟩ : Sec), ⟨2, 0, 0, 0, 0, 0, 0, 256, 30984, 0, 0⟩, ⟨3, 0, 0, 0, 0, 0, 0, 31296, 2, 0, 0⟩] e) || (e.ty == 4 && dataBad m [(⟨1, 0, 0, 0, 0, 0, 0, 192, 64, 0, 0⟩ : Sec), ⟨2, 0, 0, 0, 0, 0, 0, 256, 30984, 0, 0⟩, ⟨3, 0, 0, 0, 0, 0, 0, 31296, 2, 0, 0⟩] e)) = none := by
    have hk : codeBad m [(⟨1, 0, 0, 0, 0, 0, 0, 192, 64, 0, 0⟩ : Sec), ⟨2, 0, 0, 0, 0, 0, 0, 256, 30984, 0, 0⟩, ⟨3, 0, 0, 0, 0, 0, 0, 31296, 2, 0, 0⟩] ⟨3, 0, 0, 0, 0, 0, 0, 31296, 2, 0, 0⟩ = false := by
      rw [codeBad, List.any_eq_false]
      intro q hq hb
      simp only [Bool.and_eq_true] at hb
      simp only [List.mem_cons, List.not_mem_nil, or_false] at hq
      rcases hq with rfl | rfl | rfl
      · exact absurd hb.1.1.1 (by decide)
      · have hl : 2 / 2 > (planeTile (Mem.write [] 0 (m.bytes 256 planeBytes))).codeLen := of_decide_eq_true hb.2
        rw [h3, h7] at hl
        exact absurd hl (by decide)
      · exact absurd hb.1.1.1 (by decide)
    rw [List.any_cons, List.any_cons, List.any_cons, List.any_nil, hk]
    rfl
  have key : ∀ a b c d : Option Reject, a = none → b = none → c = none → d = none → firstReject [a, b, c, d] = none := by rintro _ _ _ _ rfl rfl rfl rfl; rfl
  dsimp only
  rw [h1]
  dsimp only
  rw [hw, hn]
  exact key _ _ _ _ hA hD hB hC

def demoBase : Mem := imageHead ++ imageTable ++ imageRest
/-- The bytes of the image's id, and the id. -/
def idDemo : List Byte := slice (sha384 (demoBase.bytes 0 31298)) 0 8
def wantDemo : Nat := leNat idDemo
def imgDemo : Mem := imageDemo fun k => idDemo.getD k 0

theorem demo_agrees : idFields imgDemo (imgSecs imgDemo) = [8, 192] ∧ imageId imgDemo 31298 [8, 192] = wantDemo ∧ ∀ a ∈ [8, 192], imgDemo.nat a 8 = wantDemo := by
  have hl : idDemo.length = 8 := by simp [idDemo, slice, sha384, beBytes]
  have hb : leNat [idDemo.getD 0 0, idDemo.getD 1 0, idDemo.getD 2 0, idDemo.getD 3 0, idDemo.getD 4 0, idDemo.getD 5 0, idDemo.getD 6 0, idDemo.getD 7 0] = wantDemo := by
    rw [wantDemo]
    generalize idDemo = l at hl
    match l, hl with
    | [_, _, _, _, _, _, _, _], _ => rfl
  refine ⟨?_, ?_, ?_⟩
  · have hn : imgNlnr imgDemo = 1 := by rw [imgNlnr, Mem.nat, imgDemo, demo_table _ _ _ (by decide) (by decide)]; decide +kernel
    rw [imgDemo] at hn ⊢
    rw [demo_secs, idFields, hn]
    decide
  · have : [8, 192].foldl (fun m a => Mem.clear m a 8) imgDemo = demoBase := by
      rw [imgDemo]; generalize (fun k : Fin 8 => idDemo.getD (↑k) 0) = b; rfl
    rw [imageId, this, wantDemo, idDemo, leAt]
  · have h1 := bytes_mid imageHead (idCells 8 fun k => idDemo.getD k 0) (imageTable ++ (idCells 192 fun k => idDemo.getD k 0) ++ imageRest) 8 8 (by simp [imageHead]) (by simp [idCells, imageTable, imageRest])
    have h2 := bytes_mid (imageHead ++ (idCells 8 fun k => idDemo.getD k 0) ++ imageTable) (idCells 192 fun k => idDemo.getD k 0) imageRest 192 8 (by simp [idCells, imageHead, imageTable]) (by simp [imageRest])
    intro a ha
    rw [Mem.nat, ← hb]
    have e : a = 8 ∨ a = 192 := by simpa using ha
    rcases e with rfl | rfl
    · rw [show imgDemo = imageHead ++ ((idCells 8 fun k => idDemo.getD k 0) ++ (imageTable ++ (idCells 192 fun k => idDemo.getD k 0) ++ imageRest)) by simp [imgDemo, imageDemo, imageHead, List.append_assoc], h1]
      generalize idDemo = l; rfl
    · rw [show imgDemo = imageHead ++ (idCells 8 fun k => idDemo.getD k 0) ++ imageTable ++ ((idCells 192 fun k => idDemo.getD k 0) ++ imageRest) by simp [imgDemo, imageDemo, imageHead, List.append_assoc], h2]
      generalize idDemo = l; rfl

/-- A page table of one entry at 0x1000: 256 KiB from the virtual address 0x40000 at 0x80000, readable, writable, for service. -/
def tableDemo : Mem := Mem.put [] 0x1000 16 (2 ^ 123 + 3 * 2 ^ 124 + 2 ^ 122 + 2 ^ 121 + 2 ^ 120 + 64 * 2 ^ 76 + 128 * 2 ^ 46)
def mapped : Context := { opened with ptBase := 0x1000, ptCount := 1 }
/-- Bytes of fields (offset, width, value) from an address. -/
def fields (at_ : Nat) (l : List (Nat × Nat × Nat)) (m : Mem) : Mem := l.foldl (fun m e => m.put (at_ + e.1) e.2.1 e.2.2) m
/-- An image of one record, in DRAM. -/
def smallImage : Mem := fields 0x80000 [(0x10, 4, 1), (0x14, 4, 1), (0x40, 1, 1), (0x48, 8, 0x80), (0x50, 8, 64), (0x80 + 0xA, 1, 1), (0x80 + 0xB, 1, 1), (0x80 + 0x30, 4, 0)] tableDemo
def graphDemo : Graph := { gid := 7, nodes := [], params := [1, 2, 3] }
def hostJob (wr : Bool) (lo : Option Nat) : HostJob :=
  { cmd := { queued with ctx := 0xFF, kind := if wr then 4 else 5, tag := 77 }, write := wr, d := 900, load := [(0, 2)], pend := [(0, 0x80000, leBytes 64 1), (1, 0x80040, leBytes 64 2)], got := [], lo := lo, hi := none }
def loadJob (body : List Byte) (m : Mem) : LoadJob := { cmd := { queued with kind := 3, tag := 77, body := body }, bytes := m }
def loadingDemo (j : LoadJob) : State := { command [] opened with arg := ⟨[2, 77], []⟩, loads := [j] }

theorem witness_DataCommands :
    -- LOAD_IMAGE: the first byte of a page and the last byte of the table
    (∀ p ∈ [(0x40000, 1), (0x40000, 0x40000), (0x7FFFF, 1)], let s : State := { command (leBytes 8 p.1 ++ leBytes 8 p.2 ++ leBytes 8 0) mapped with dram := tableDemo }
      s.contexts.length = 16 ∧ s.arg.nat 1 < 16 ∧ (s.ctx 2).opening ≠ 0 ∧ imageReadCause (s.table 2) (leAt s.arg.bytes 0 8) (leAt s.arg.bytes 8 8) = none)
    -- GRAPH_DEFINE: two nodes, the second after the first, the parameters to the last
    ∧ (let b := leBytes 1 7 ++ leBytes 1 2 ++ leBytes 2 3 ++ leBytes 4 0 ++ (leBytes 8 5 ++ leBytes 2 0 ++ leBytes 2 0 ++ leBytes 2 3 ++ leBytes 2 0xFFFF ++ leBytes 8 0 ++ leBytes 8 0)
         ++ (leBytes 8 5 ++ leBytes 2 0 ++ leBytes 2 1 ++ leBytes 2 2 ++ leBytes 2 1 ++ leBytes 8 1 ++ leBytes 8 0) ++ leBytes 4 11 ++ leBytes 4 12 ++ leBytes 4 13
       let at_ : Nat → Nat → Nat → Nat := fun i o w => leAt b (8 + 32 * i + o) w
       (command b opened).arg.bytes = b ∧ leAt b 1 1 = 2 ∧ leAt b 2 2 = 3 ∧ b.length = 8 + 32 * 2 + 4 * 3
       ∧ ∀ i < 2, at_ i 12 2 ≤ 1024 ∧ at_ i 10 2 + at_ i 12 2 ≤ 3 ∧ at_ i 16 8 < 2 ^ i ∧ (at_ i 14 2 = 0xFFFF ∨ at_ i 14 2 + 1 < 3) ∧ at_ i 24 8 = 0)
    -- GRAPH_RUN and GRAPH_PATCH: the last parameter, and none
    ∧ (∀ p ∈ [(2, 1), (3, 0)], let b := leBytes 1 7 ++ leBytes 1 0 ++ leBytes 2 p.1 ++ leBytes 4 p.2 ++ leBytes 4 9
        let s := command b { opened with graphs := [graphDemo] }
        (s.ctx 2).graphs.find? (fun o => o.gid == leAt b 0 1) = some graphDemo ∧ leAt b 2 2 + leAt b 4 2 ≤ graphDemo.params.length)
    -- LAUNCH
    ∧ (let b := leBytes 8 5 ++ leBytes 2 0 ++ leBytes 2 4 ++ leBytes 4 0 ++ leBytes 8 0 ++ leBytes 4 9
       let s : State := { command b { mapped with level := 1, images := [{ id := 5, va := 0x40000, len := 0xC0 }] } with dram := smallImage }
       s.picked = none ∧ (s.imageOf 2 (leAt b 0 8)).isSome = true ∧ s.launchRefusal 2 (askCmd b (s.ctx 2).level) = none)
    -- WRITE_DRAM and READ_DRAM of two flits, of a context, its table's last flit too, and of the administrator
    ∧ (∀ va ∈ [0x40000, 0x7FF80], ∀ b ∈ [leBytes 8 va ++ leBytes 64 1 ++ leBytes 64 2, leBytes 8 va ++ leBytes 4 128 ++ leBytes 60 0], let s : State := { command b mapped with dram := tableDemo }
        s.isOpen 2 = true ∧ (leAt b 0 8 = va) ∧ ((b.length - 8) / 64 = 2 ∨ leAt b 8 4 / 64 = 2)
        ∧ ∀ i < 2, (s.translate 2 (va + 64 * i)).map (fun e => (e.1.wr, e.1.rd, e.2)) = some (true, true, 0x40000 + va + 64 * i) ∧ s.imageFlit (0x40000 + va + 64 * i) = false)
    ∧ (let s : State := { event 1000 [1, 0xFF, 0, 77] (leBytes 8 (48 * 2 ^ 36 - 64) ++ leBytes 64 1) with sessions := [{ session1 with admin := true }] }
       s.isAdmin 1 = true ∧ s.mode = .ready ∧ leAt s.arg.bytes 0 8 + (s.arg.bytes.length - 8) ≤ 48 * 2 ^ 36 ∧ s.imageFlit (48 * 2 ^ 36 - 64) = false)
    -- a job whose two flits have had their cycles, and one whose share has not come yet
    ∧ (∀ wr ∈ [false, true], ∀ lo ∈ [none, some 999, some 990], let j := hostJob wr lo
        let s : State := { event 1000 [0xFF, 77] [] with jobs := [j] }
        s.contexts.length = 16 ∧ s.arg.nat 0 = 0xFF ∧ j.cmd.ctx = 0xFF ∧ s.jobs = [j] ∧ j.cmd.tag = s.arg.nat 1 ∧ s.launches = [] ∧ s.commits = [] ∧ s.reads = [] ∧ j.lo.getD s.now ≤ j.hi.getD s.now ∧ j.got = [])
    ∧ (∀ wr ∈ [false, true], let j := hostJob wr none
        j.pend.map (·.1) = [0, 1] ∧ (∀ e ∈ j.pend, e.2.1 % 64 = 0 ∧ (j.write = true → e.2.2.length = 64)) ∧ (∀ e ∈ j.pend, ∀ f ∈ j.pend, e.2.1 = f.2.1 → e = f))
    ∧ (∀ lo ∈ [999, 990], let j := hostJob true (some lo)
        let s : State := { event 1000 [0xFF, 77] [] with jobs := [j] }
        (∀ e ∈ j.load, 0 < e.2 ∧ (s.engines.getD e.1 Engine.idle).share = [] ∧ j.lo.getD s.now + e.2 ≤ s.now + 1) ∧ (j.load.map (·.1)).Nodup)
    ∧ (∃ e ∈ (hostJob true none).load, 0 < e.2 ∧ 1000 + 1 < (hostJob true none).lo.getD 1000 + e.2)
    -- an image that is registered, and one whose id does not agree
    ∧ (let j := loadJob (leBytes 8 0x40000 ++ leBytes 8 31298 ++ idDemo) imgDemo
       let s := loadingDemo j
       s.contexts.length = 16 ∧ s.arg.nat 0 < 16 ∧ s.loads = [j] ∧ j.cmd.ctx = s.arg.nat 0 ∧ j.cmd.tag = s.arg.nat 1 ∧ (s.ctx j.cmd.ctx).closing = false ∧ leAt j.cmd.body 8 8 = 31298 ∧ leAt j.cmd.body 16 8 = wantDemo
       ∧ (imageId j.bytes 31298 (idFields j.bytes (imgSecs j.bytes)) = wantDemo ∧ ∀ a ∈ idFields j.bytes (imgSecs j.bytes), j.bytes.nat a 8 = wantDemo)
       ∧ State.loadChecks { s with loads := [] } j.bytes 31298 = none ∧ (∀ i ∈ (s.ctx j.cmd.ctx).images, i.id ≠ wantDemo) ∧ (s.ctx j.cmd.ctx).images.length < 64)
    ∧ (let j := loadJob (leBytes 8 0x40000 ++ leBytes 8 64 ++ leBytes 8 1) []
       let s := loadingDemo j
       ¬ (imageId j.bytes (leAt j.cmd.body 8 8) (idFields j.bytes (imgSecs j.bytes)) = leAt j.cmd.body 16 8 ∧ ∀ a ∈ idFields j.bytes (imgSecs j.bytes), j.bytes.nat a 8 = leAt j.cmd.body 16 8)
       ∧ (s.ctx j.cmd.ctx).queues.flatMap id = []) := by
  refine ⟨?_, ?_, ?_, ?_, ?_, ?_, ?_, ?_, ?_, ?_, ?_, ?_⟩
  case refine_11 =>
    have hl : idDemo.length = 8 := by simp [idDemo, slice, sha384, beBytes]
    have h2 : leAt (leBytes 8 0x40000 ++ leBytes 8 31298 ++ idDemo) 16 8 = wantDemo := by
      rw [leAt, slice, List.drop_left' (by simp), List.take_of_length_le (by omega), wantDemo]
    have h1 : leAt (leBytes 8 0x40000 ++ leBytes 8 31298 ++ idDemo) 8 8 = 31298 := by
      rw [List.append_assoc, show (8 : Nat) = 8 + 0 from rfl, leAt_skip, leAt_head] <;> exact Nat.mod_eq_of_lt (by decide)
    obtain ⟨a, b, c⟩ := demo_agrees
    have hc : ∀ s : State, s.sku = 0 → s.loadChecks imgDemo 31298 = none := fun s h => demo_checks s h _
    have hg : imageId imgDemo 31298 (idFields imgDemo (imgSecs imgDemo)) = wantDemo ∧ ∀ a ∈ idFields imgDemo (imgSecs imgDemo), imgDemo.nat a 8 = wantDemo := by rw [a]; exact ⟨b, c⟩
    generalize wantDemo = w at *
    generalize imgDemo = m at *
    generalize leBytes 8 0x40000 ++ leBytes 8 31298 ++ idDemo = body at *
    have hs : (loadingDemo (loadJob body m)).sku = 0 := by
      have : State.reset.sku = 0 := by decide +kernel
      exact this
    refine ⟨rfl, ?_, rfl, rfl, rfl, rfl, h1, h2, hg, hc _ hs, fun i hi => ?_, ?_⟩
    · show 2 < 16; decide
    · exact absurd (show i ∈ ([] : List Image) from hi) (by simp)
    · show 0 < 64; decide
  all_goals decide +kernel

/-! The life of a launch. -/

/-- A context with a command at the head of a queue. -/
def queuing (q : Cmd) : State :=
  { event 1000 [] [] with sessions := [session1], contexts := (List.replicate 16 Context.closed).set 2 { opened with queues := opened.queues.set q.queue [q] } }
/-- Launch 1 staged; its image holds one record and one staging script of no entry, for engine 47. -/
def staged : Launch := { launch1 with phase := .staged, lf := none, tstart0 := none, tstart := 0, runStart := 0, image := 5 }
def script47 : Script := { unit := 47, lead := 24000, reads := [], writes := [], ents := [], pins := [], ready := none }
def scriptImage : Mem := fields 0x80000 [(0x10, 4, 2), (0x14, 4, 1), (0x40, 1, 1), (0x48, 8, 0x80), (0x50, 8, 64), (0x60, 1, 5), (0x68, 8, 0xC0), (0x70, 8, 64), (0xC0, 4, 0x534B5354), (0xC4, 2, 1), (0xC6, 1, 47), (0xC0 + 16, 4, 24000)] tableDemo
/-- Launch 1 on the tile (0, 0) at a cycle, named by the event. -/
def onTile (now : Nat) (l : Launch) (t : Tile) (n : List Nat) : State := { event now n [] with launches := [l], tiles := [(0, t)] }
/-- The tile holds the plane of image 0, for the first position, in its active plane. -/
def taggedTile : Tile := { running 0 0 with cfg0 := cfgDemo.write offTag (tagBytes 0 0 0 0), lastCtx := some 1, launch := none, seq := Seq.idle }
def iterating (n : Nat) (m : TMode) : Tile := { running 0 0 with iter := some n, seq := { Seq.idle with mode := m, pc := 11 } }
def here00 (l : Launch) : Prop := ∀ x y, l.lnr.x0 ≤ x ∧ x < l.lnr.x0 + l.lnr.w ∧ l.lnr.y0 ≤ y ∧ y < l.lnr.y0 + l.lnr.h → x = 0 ∧ y = 0
theorem here00_1 : here00 launch1 ∧ here00 staged := by
  refine ⟨fun x y h => ?_, fun x y h => ?_⟩ <;> (simp only [launch1, staged, lnr0] at h; omega)

theorem witness_LaunchLife_dispatch :
    ∀ k ∈ [3, 4, 5, 7, 8, 9, 11], ∀ n ∈ [(0, 0), (3, 0), (15, 3)], let q : Cmd := { queued with queue := n.1, kind := k }
      let s := queuing q
      s.mode = .ready ∧ s.halted = false ∧ s.noDispatch = false ∧ s.decidedAt ≠ some s.now ∧ s.pointers.length = 4 ∧ s.pointers.getD n.2 0 < 256 ∧ s.contexts.length = 16 ∧ 32 + n.1 < 256 ∧ (32 + n.1) % 16 / 4 = n.2
      ∧ s.candidate (32 + n.1) = some (.head q) ∧ q.resume = none ∧ q.ctx = (32 + n.1) / 16 ∧ q.queue = (32 + n.1) % 16
      ∧ (∀ j ∈ List.range 256, j ≠ 32 + n.1 → s.candidate j = none) := by decide +kernel

theorem witness_LaunchLife_launch :
    -- a script is taken in at a resume, and at first
    (∀ r ∈ [some (5 : Nat), none], let l : Launch := { staged with scripts := [script47], resume := r }
        let s : State := { onTile 1000 l taggedTile [1, 47] with dram := scriptImage, contexts := (List.replicate 16 Context.closed).set 2 { mapped with images := [{ id := 5, va := 0x40000, len := 0x100 }] } }
        s.launchOf l.id = some l ∧ s.arg.nat 0 = l.id ∧ l.script (s.arg.nat 1) = some script47 ∧ l.phase = .staged ∧ script47.ready = none ∧ s.arg.nat 1 < 48
        ∧ ((imgScripts (s.launchImage l).1 (s.launchImage l).2 l.lnrIdx).find? (fun e => e.2.2.unit == s.arg.nat 1)).map (fun e => s.stagingFail l.cmd.ctx l.lnr (s.launchImage l).1 e.1 e.2.1 e.2.2) = some none)
    -- its tile holds the plane already
    ∧ (let s := onTile 1000 staged taggedTile [1]
       s.launchOf 1 = some staged ∧ staged.lf = none ∧ staged.resume = none ∧ staged.lnr.x0 + staged.lnr.w ≤ 256 ∧ s.regionFreeNow staged = true ∧ s.loadEarliest staged (s.launchImage staged) ≤ 1000
       ∧ (s.tile 0 0).resident staged.lnr.img staged.lnr.cset 0 0 ≠ .absent ∧ (s.tile 0 0).lastCtx = some staged.opening ∧ staged.params.length ≤ 4096)
    -- the plane in the shadow place is swapped in
    ∧ (onTile 1000 staged { taggedTile with second := true } [0, 0]).swapDue 0 0 = true
    -- the start is reached; the region has two iterations on one tile
    ∧ (let l : Launch := { staged with phase := .fixed, lf := some 10, tstart := 700, runStart := 700 }
       let s := onTile 700 l taggedTile [1]
       s.launchOf l.id = some l ∧ l.phase = .fixed ∧ s.now = l.tstart ∧ l.resume = none ∧ l.resumedFrom = 0 ∧ l.stopped = none ∧ l.tstart0 = none ∧ l.preemptAgain = false ∧ l.lnr.x0 + l.lnr.w ≤ 256)
    -- the first iteration and the last start, and one that is not drained freezes
    ∧ (∀ n ∈ [0, 1], let s := onTile (100 + 200 * n) launch1 (iterating n .between) [0, 0]
        s.runningAt 0 0 = some launch1 ∧ (s.tile 0 0).iter = some n ∧ (s.tile 0 0).gcy s.now = launch1.tstart + n / (launch1.lnr.w * launch1.lnr.h) * launch1.lnr.period ∧ (s.tile 0 0).seq.mode = .between ∧ (s.tile 0 0).draining = false)
    ∧ (let s := onTile 300 launch1 (iterating 0 .run) [0, 0]
       s.runningAt 0 0 = some launch1 ∧ (s.tile 0 0).iter = some 0 ∧ 0 + launch1.lnr.w * launch1.lnr.h < launch1.lnr.cnt.foldl (· * ·) 1 ∧ (s.tile 0 0).gcy 300 = 100 + 1 * 200 ∧ (s.tile 0 0).seq.mode = .run)
    -- a tile has drained after its first and after its last iteration
    ∧ (∀ e ∈ [0, 1], let t : Tile := { iterating e .between with draining := true, finalEnd := e == 1 }
        let s := onTile 250 launch1 t [0, 0]
        s.runningAt 0 0 = some launch1 ∧ t.draining = true ∧ t.seq.mode = .between ∧ t.mxFree ≤ 250 ∧ (∀ j ∈ t.copies, j = none) ∧ t.localIn = [] ∧ t.chains = [] ∧ t.pendc = [])
    -- the launch retires, and its bits go on the next cycle
    ∧ (let s := onTile 400 launch1 { iterating 1 .done with drainedAt := some 400 } [1]
       s.launchOf 1 = some launch1 ∧ launch1.phase = .running ∧ launch1.stop = none ∧ launch1.behind = none ∧ s.preempts = [] ∧ 0 < launch1.lnr.w * launch1.lnr.h ∧ (s.tile 0 0).drainedAt = some 400)
    ∧ (let l : Launch := { launch1 with phase := .retired, retire := some 400 }
       let s := onTile 401 l taggedTile [1]
       s.launchOf 1 = some l ∧ l.phase = .retired ∧ l.retire = some (401 - 1)) := by
  refine ⟨?_, ?_, ?_, ?_, ?_, ?_, ?_, ?_, ?_⟩ <;> decide +kernel

/-- The least start of a launch whose region is free at 300, loaded at 400: 1040; before its START_AT, at it, and passed. -/
theorem witness_LaunchLife_start :
    ∀ p ∈ [(500, 0), (500, 1040), (500, 2000), (1040, 0), (1041, 0), (1040, 1680), (1040, 1040)], let l : Launch := { staged with lf := some 400, startAt := p.2, d := 100 }
      let s := onTile p.1 l { taggedTile with freeAt := some 300 } [1]
      ∃ rf, s.regionFree l = some rf ∧ max l.d (max rf 400) + 640 = 1040 ∧ l.scripts = []
        ∧ (l.startAt = 0 ∨ (1040 ≤ l.startAt ∧ s.now ≤ l.startAt)) ∧ s.launchOf l.id = some l ∧ l.phase = .staged ∧ s.halted = false := by
  intro p hp
  refine ⟨300, ?_⟩
  revert p; decide +kernel

/-! Events of the fabric, the alignment exchange and waits. -/

/-- A word of a switch program (R37): sources of Local, ACT, TGT, HOLD, CNT. -/
def swWord (srcs act tgt span cnt : Nat) : Nat := srcs * 2 ^ 49 + span * 2 ^ 33 + act * 2 ^ 31 + tgt * 2 ^ 22 + cnt * 2 ^ 10
/-- Switch program: entry 3 goes on, 4 jumps to 7, 5 loops twice to 3, 6 loops no more, 8 ends; entry 9 sends what comes in from the west to the east, north and Local, and what the tile sends to the south. -/
def cfgSwitch : Mem := ((((((cfgDemo.put (26752 + 24) 8 (swWord 0 0 0 6 0)).put (26752 + 32) 8 (swWord 0 1 7 2 0)).put (26752 + 40) 8 (swWord 0 2 3 0 2)).put (26752 + 48) 8 (swWord 0 2 3 0 0)).put (26752 + 64) 8 (swWord 0 3 0 0 0)).put (26752 + 72) 8 (swWord (4 * 2 ^ 12 + 4 * 2 ^ 9 + 5 * 2 ^ 6 + 4) 3 0 9 0))
def routing (e : Nat) (loop : Option (Nat × Nat)) : Tile := { iterating 0 .run with cfg0 := cfgSwitch, router := { on := true, entry := e, from_ := 90, upto := 99, loop := loop, sent := none, region := some (0, 0, 17, 17) } }
def wideLaunch : Launch := { launch1 with lnr := { lnr0 with w := 17, h := 17 } }

theorem witness_FabricEvents :
    (∀ p ∈ [(3, none), (4, none), (5, none), (5, some (5, 1)), (5, some (5, 0)), (5, some (6, 1)), (6, none), (8, some (5, 1)), (511, none)], let s := onTile 100 wideLaunch (routing p.1 p.2) [0, 0]
        (s.tile 0 0).router.on = true ∧ s.now = (s.tile 0 0).router.upto + 1 ∧ (s.runningAt 0 0).isSome = true)
    -- ACT of each kind
    ∧ [3, 4, 5, 8].map (fun e => (routing 0 none).switchWord e / 2 ^ 31 % 4) = [0, 1, 2, 3]
    -- a flit from the west, one sent, and one that no entry takes; next to a crossing, and at the grid's edge
    ∧ (∀ i ∈ [0, 3, 4], let s := onTile 95 wideLaunch (routing 9 none) [0, 0, i, 77, 0]
        s.arg.nat 2 = i ∧ i ≤ 4 ∧ s.neighbour 0 0 1 = some (1, 0) ∧ s.neighbour 0 0 0 = none ∧ (s.edgeOf 0 0 0).isSome = true ∧ (s.tile 0 0).router.region = some (0, 0, 17, 17) ∧ s.neighbour 15 0 1 = some (16, 0))
    ∧ [(1, 4), (0, 4), (2, 5), (4, 4), (3, 0)].all (fun p => (routing 0 none).switchWord 9 / 2 ^ (61 - 3 * p.1) % 8 == p.2) = true
    -- an unclaimed landing at its window's end
    ∧ (let t : Tile := { iterating 0 .run with landing := some ⟨⟨5, false⟩, 96, 3⟩ }
       t.landing = some ⟨⟨5, false⟩, 96, 3⟩ ∧ 96 + 4 ≤ 100 ∧ t.seq.mode = .run ∧ t.pendc.length < 4) := by
  refine ⟨?_, ?_, ?_, ?_, ?_⟩ <;> decide +kernel

/-- Tiles (1, 1) and (2, 1) read 3 more than the others. -/
def adrift : State := { event 65548 [1, 1] [] with tiles := [(257, { Tile.powerUp with gofs := 3, align := some { a := 65539, at_ := 65536, deltas := [some 3, some 0, some 3, some 3], common := false } }), (258, { Tile.powerUp with gofs := 3 })] }
theorem witness_AlignmentExchange :
    -- a point of a tile, at its grid's corner, and next to a crossing
    (∀ p ∈ [(0, 0), (15, 3), (191, 191)], let s : State := event 65536 [p.1, p.2] []
        s.arg.n ≠ [] ∧ (s.tile p.1 p.2).gcy 65536 = 65536 ∧ 65536 % 65536 = 0 ∧ s.inGrid p.1 p.2 = true)
    -- the common point, with n's change due at once, later, and with none
    ∧ (∀ e ∈ [none, some (60, 65536), some (60, 65537)], let s : State := { event 65536 [] [] with nNext := e }
        ¬ s.arg.n ≠ [] ∧ s.now ≠ 0 ∧ s.now % 65536 = 0 ∧ s.memWf = true)
    -- a sample from the west
    ∧ (let e : AlignX := { a := 65536, at_ := 65536, deltas := [none, none, none, none], common := false }
       let s : State := { event 65544 [1, 1, 3, 65544] [] with tiles := [(257, { Tile.powerUp with align := some e })] }
       (s.tile 1 1).align = some e ∧ s.arg.nat 2 = 3 ∧ 3 < e.deltas.length ∧ s.arg.nat 3 = 65544)
    -- samples outside an exchange: in the half of the period before the point, at the point, and late
    ∧ (∀ c ∈ [98304, 131071, 131072, 65537, 98303], let s := event c [1, 1, 3, 65544] []
        (s.tile 1 1).align = none ∧ (s.tile 1 1).gcy c = c ∧ (c % 65536 = 0 ∨ 32768 ≤ c % 65536 ∨ (0 < c % 65536 ∧ c % 65536 < 32768)))
    -- a delta that has come before the point, and one held of an exchange that began at the same point
    ∧ (let t : Tile := { Tile.powerUp with earlyDeltas := [⟨3, 65536, -9⟩], align := some { a := 65536, at_ := 65530, deltas := [some 0, none, none, none], common := false } }
       (∃ e ∈ t.earlyDeltas, e.side = 3 ∧ e.a = 65536 ∧ ∀ o ∈ t.earlyDeltas, o.side = 3 → o = e) ∧ (∀ e ∈ t.earlyDeltas, e.side = 0 → e.a ≠ 65536))
    -- a tile of the common exchange beside one that has a neighbour adrift
    ∧ (let s : State := { event 65536 [] [] with tiles := [(257, { Tile.powerUp with gofs := 3 })] }
       s.inGrid 3 1 = true ∧ (∀ e ∈ s.tiles, e.2.gofs ≠ 0 → 1 < apart 3 (e.1 % 256) + apart 1 (e.1 / 256)) ∧ (s.tile 3 1).align = none ∧ s.neighbour 3 1 3 = some (2, 1)
       ∧ ∃ e ∈ s.tiles, e.2.gofs ≠ 0 ∧ apart 2 (e.1 % 256) + apart 1 (e.1 / 256) ≤ 1)
    -- the change that the point has taken up, and none
    ∧ (({ event 65548 [] [] with nDue := some 60 } : State).nDue = some 60 ∧ (event 65548 [] []).nDue = none)
    -- a comparison in a set of two, alone, in agreement; marked
    ∧ (∀ p ∈ [(true, false, [some 3, some 0, some 3, some 3]), (false, false, [some 3, some 3, some 3, some (-3)]), (false, true, [some 0, some 0, some 0, some 0])],
        let e : AlignX := { a := 65539, at_ := 65536, deltas := p.2.2, common := false }
        let t : Tile := { Tile.powerUp with gofs := 3, align := some e, reload := p.2.1 }
        let s : State := { adrift with tiles := if p.1 then [(257, t), (258, { Tile.powerUp with gofs := 3 })] else [(257, t)] }
        s.arg.n ≠ [] ∧ (s.tile 1 1).align = some e ∧ e.at_ + 12 = s.now ∧ (∀ d < 4, e.deltas.getD d none = some ((e.deltas.getD d none).getD 0)) ∧ (s.tile 1 1).seq.hold = .none ∧ (s.tile 1 1).launch = none)
    ∧ (adrift.driftSet 1 1).length = 2
    -- the tiles of the common exchange
    ∧ (let e : AlignX := { a := 65536, at_ := 65536, deltas := [some 0, some 0, some 0, none], common := true }
       let s : State := { event 65548 [] [] with tiles := [(0, { Tile.powerUp with align := some e })] }
       ¬ s.arg.n ≠ [] ∧ (s.tile 0 0).align = some e ∧ e.deltas.length = 4 ∧ e.common = true ∧ e.at_ + 12 = s.now ∧ ∀ v ∈ e.deltas, v = none ∨ v = some 0) := by
  refine ⟨?_, ?_, ?_, ?_, ?_, ?_, ?_, ?_, ?_, ?_⟩ <;> decide +kernel

def waiting (h : Hold) : Tile := { iterating 0 .run with seq := { Seq.idle with mode := .run, pc := 11, hold := h, waitPc := some (10, none) } }
theorem witness_WaitEvents :
    (∀ r ∈ [100, 101], (waiting (.waitc 95 r)).seq.hold = .waitc 95 r ∧ (waiting (.waitc 95 r)).gcy 100 = 100)
    -- a release within its bound, and a cycle beyond it; at a tile that does not wait
    ∧ (∀ b ∈ [9, 10], let t := waiting (.barw 3 90 50 b 95)
        let s := onTile 100 launch1 t [0, 0, 3]
        s.arg.nat 2 = 3 ∧ (s.tile 0 0).seq.hold = .barw 3 90 50 b 95 ∧ t.finalEnd = false ∧ t.seq.mode ≠ .frozen ∧ (t.seq.waitPc.map (·.1) = some 10) ∧ t.pendc.length < 4 ∧ 3 ≤ t.arr.length ∧ 3 ≤ t.latch.length)
    ∧ (let t := waiting .none
       t.seq.hold = .none ∧ ∀ bc ∈ [90, 91], t.seq.hold ≠ .barw 3 bc 50 9 95)
    -- a timeout
    ∧ (let t := waiting (.barw 3 50 50 9 95)
       t.seq.hold = .barw 3 50 50 9 95 ∧ 50 + 50 = 100 ∧ t.seq.mode = .run ∧ t.pendc.length < 4)
    -- a pending cause is taken
    ∧ (let t : Tile := { iterating 0 .run with pendc := [⟨0x47, 99, 5, 0, 0, false⟩], seq := { Seq.idle with mode := .run, pc := 11, due := some 100 } }
       t.seq.mode = .run ∧ t.seq.due = some 100 ∧ t.pendc = ⟨0x47, 99, 5, 0, 0, false⟩ :: [] ∧ 99 < 100 ∧ t.seq.afterLit = false ∧ t.tlvl 100 = 0 ∧ (t.spr 100 11).toNat + 16 * 0x47 < t.codeLen) := by
  refine ⟨?_, ?_, ?_, ?_, ?_⟩ <;> decide +kernel

/-- A chained command of each kind: it acts, or raises a cause because the engine is busy, a slot is not claimed, or the format entry is not valid. -/
def chained (i : Instr) (t : Tile) : Tile := { t with chains := [(100, 3, (encode i).bits)], seq := { Seq.idle with mode := .run, pc := 11 } }
theorem witness_WaitEvents_chain :
    (∀ i ∈ [Instr.msq ⟨0, 1, 1, 0, 3, false⟩, .mzero 0, .mdrain ⟨2, 1, 3⟩, .mdrainm ⟨2, 1, 1, 2, true, 3⟩], let s : State := { onTile 100 launch1 (chained i matrix) [0, 0, 3] with cur := Cur.none }
        let w : State := issuing 6 { chained i matrix with chains := [] }
        s.arg.nat 2 = 3 ∧ (s.tile 0 0).chains = [(100, 3, (encode i).bits)] ∧ decodeItem ⟨.mx, (encode i).bits⟩ = .instr i ∧ (s.tile 0 0).mxFree ≤ 100
        ∧ w.curTile = { s.tile 0 0 with chains := [] } ∧ w.cur.c = 100 ∧ w.cur.slot = 6 ∧ w.mayAct i = true ∧ (after i w).isSome = true)
    ∧ matrix.claimedAt 0 100 = true ∧ matrix.claimedAt 1 100 = true ∧ (matrix.fmtEntry 1).v = true ∧ matrix.pendc = [] ∧ matrix.claimedAt 2 100 = false ∧ (matrix.fmtEntry 0).v = false := by
  refine ⟨?_, ?_⟩ <;> decide +kernel

/-! Distaff. -/

def ctx2 (k : Context) (s : State) : State := { s with contexts := (List.replicate 16 Context.closed).set 2 k }
/-- The launch is being saved, stopped at 200. -/
def saving : Launch := { launch1 with phase := .saving, stop := some ⟨150, some 200, .preempt⟩ }
def ckptAt (off : Nat) : TileCkpt := { launch := 1, off := off, bytes := List.replicate 1536 9 }
/-- A service transfer of two payloads, one of them moved, for context 2. -/
def service (kind moved done va : Nat) (failed : Option (Nat × Nat)) : Service := { kind := kind, c := 90, pc := 9, d := 3, wait := 0, va := va, bytes := List.replicate 64 7, moved := moved, done := done, total := 2, failed := failed, launch := 1, who := (2, 0, 5) }
def inService (v : Service) : Tile := { iterating 0 .run with svc := some v, seq := { Seq.idle with mode := .run, pc := 11, hold := .service } }
def upMsg (pre : Bool) (own k : Nat) (msg : Option Service) : UpMsg := { x := 0, y := 0, at_ := 320, p := { side := 0, data := List.replicate 32 5 }, pre := pre, own := own, k := k, bad := 0, msg := msg }
/-- An image of one record and two data sections, for the positions 0 and 1, in DRAM; a launch of it on the tiles (0, 0) and (1, 0), which hold its planes. -/
def dataImage : Mem :=
  fields 0x80000 [(0x10, 4, 3), (0x14, 4, 1), (0x40, 1, 1), (0x48, 8, 0xC0), (0x50, 8, 64), (0x60, 1, 4), (0x68, 8, 0x100), (0x70, 8, 32), (0x78, 4, 0x4800), (0x80, 1, 4), (0x82, 1, 1), (0x84, 1, 1), (0x88, 8, 0x120), (0x90, 8, 32), (0x98, 4, 0x4800), (0x100, 8, 11), (0x120, 8, 12)] tableDemo
def pairLaunch : Launch := { staged with lnr := { lnr0 with w := 2, img := 5 }, params := [1, 2, 3] }
def pairTile (rx : Nat) : Tile := { running 0 0 with cfg0 := cfgDemo.write offTag (tagBytes 5 0 rx 0), lastCtx := some 1, launch := none, seq := Seq.idle }
def pairState (now : Nat) (n : List Nat) : State :=
  ctx2 { mapped with images := [{ id := 5, va := 0x40000, len := 0x140 }] } { event now n [] with launches := [pairLaunch], tiles := [(0, pairTile 0), (1, pairTile 1)], dram := dataImage }

/-- The same pair without its planes: the image has one for each position, and they differ. -/
def planesImage : Mem :=
  fields 0x80000 [(0x10, 4, 3), (0x14, 4, 1), (0x40, 1, 1), (0x48, 8, 0xC0), (0x50, 8, 64), (0x60, 1, 2), (0x68, 8, 0x100), (0x70, 8, 32768), (0x80, 1, 2), (0x82, 1, 1), (0x84, 1, 1), (0x88, 8, 0x120), (0x90, 8, 32768), (0x100, 8, 11), (0x120, 8, 12)] tableDemo
def planesState (now : Nat) (n : List Nat) : State :=
  ctx2 { mapped with images := [{ id := 5, va := 0x40000, len := 0x8120 }] } { event now n [] with launches := [pairLaunch], tiles := [(0, { pairTile 0 with cfg0 := cfgDemo }), (1, { pairTile 1 with cfg0 := cfgDemo })], dram := planesImage }

theorem witness_DistaffEvents_up :
    -- a save's first payload of a tile, the last of its checkpoint's, the first and the last of its tables'
    (∀ k ∈ [0, 47, 48, 559], let s := onTile 288 saving { iterating 0 .idle with saved := k, ckpts := [ckptAt 100] } [0, 0]
        s.arg.nat 2 ≠ 1 ∧ s.now % 288 = 0 % 16 + 16 * (0 % 16) ∧ (s.tile 0 0).upAt = none ∧ s.savingAt 0 0 = some (saving, 200) ∧ (200 < s.now ∧ (s.tile 0 0).saved < 560 ∧ s.up = [])
        ∧ (s.tile 0 0).ckpts.find? (fun e => e.launch == saving.id && e.off == 200 - saving.tstart) = some (ckptAt 100))
    -- an SVSAVE's and an SVMSG's, the last one too; a save waits for its stop
    ∧ (∀ kind ∈ [0, 2], ∀ m ∈ [0, 1], let v := service kind m 0 0x40000 none
        let s := onTile 288 launch1 (inService v) [0, 0]
        s.savingAt 0 0 = none ∧ (s.tile 0 0).svc = some v ∧ v.kind ≠ 1 ∧ v.failed = none ∧ v.moved < v.total ∧ v.c < s.now)
    -- at Markhor: a message, a payload that is written, one that no page holds, one whose page is not for service, one of a transfer given up
    ∧ (∀ p ∈ [(inService (service 2 2 0 0 none), some (service 2 2 0 0 none)), (inService (service 0 1 0 0x40000 none), none), (inService (service 0 1 0 0x90000 none), none), (iterating 0 .run, none)],
        let w := upMsg false 90 0 p.2
        let s : State := { ctx2 mapped (onTile 330 launch1 p.1 [0, 0, 1]) with up := [w], dram := tableDemo }
        s.arg.nat 2 = 1 ∧ s.up.find? (fun u => u.x == 0 && u.y == 0 && u.bad == 0 && decide (u.at_ ≤ s.now)) = some w ∧ w.pre = false ∧ w.msg = p.2 ∧ s.reads = [] ∧ s.jobs = [] ∧ w.p.data.length = 32)
    ∧ (let s : State := { ctx2 mapped (event 330 [] []) with dram := tableDemo }
       (s.translate 2 0x40000).map (fun e => (e.2, e.1.sv, e.1.wr, e.1.rd)) = some (0x80000, true, true, true) ∧ s.translate 2 0x90000 = none ∧ 0x80000 + 32 ≤ 48 * 2 ^ 36)
    ∧ (let s : State := { ctx2 mapped (event 330 [] []) with dram := Mem.put [] 0x1000 16 (2 ^ 123 + 3 * 2 ^ 124 + 2 ^ 122 + 2 ^ 121 + 64 * 2 ^ 76 + 128 * 2 ^ 46) }
       (s.translate 2 0x40000).map (fun e => (e.2, e.1.sv)) = some (0x80000, false))
    -- a save's payload at Markhor, through a page and through none
    ∧ (∀ ps ∈ [4, 16], let l : Launch := { saving with lnr := { lnr0 with psave := ps } }
        let s : State := { ctx2 mapped (onTile 330 l (iterating 0 .idle) [0, 0, 1]) with up := [upMsg true 1 0 none], dram := tableDemo }
        s.savingAt 0 0 = some (l, 200) ∧ l.id = 1 ∧ (∀ o ∈ s.up, o.pre = true → o.own = 1 → o.bad = 0) ∧ (s.translate 2 (ps * 65536)).isSome = (ps == 4)) := by
  refine ⟨?_, ?_, ?_, ?_, ?_, ?_⟩ <;> decide +kernel

theorem witness_DistaffEvents_down :
    -- an SVLOAD's payloads
    (∀ m ∈ [0, 1], ∀ va ∈ [0x40000, 0x90000], let v := service 1 m m va none
        let s : State := { ctx2 mapped (onTile 288 launch1 (inService v) [0, 0]) with dram := tableDemo }
        s.now % 288 = 0 ∧ (s.tile 0 0).downAt = none ∧ (s.tile 0 0).svc = some v ∧ v.kind = 1 ∧ v.failed = none ∧ v.moved < v.total ∧ v.c < s.now
        ∧ (s.translate v.who.1 (va + 32 * m)).map (fun e => (e.2 % 32, e.1.sv, e.1.rd)) = (if va = 0x40000 then some (0, true, true) else none) ∧ s.jobs = [] ∧ s.commits = [] ∧ s.dram.wf = true)
    -- the first plane block of one tile of a pair, whose planes differ; the data and parameter blocks of both
    ∧ (let s := planesState 288 [0, 0]
       s.loadingAt 0 0 = some pairLaunch ∧ pairLaunch.resume = none
       ∧ (ownBlocks ((pairLaunch.inField 0 0).map fun p => s.tileBlocks pairLaunch (s.launchImage pairLaunch) p.1 p.2) (s.tileBlocks pairLaunch (s.launchImage pairLaunch) 0 0))[(s.tile 0 0).loaded]?.map (fun b => (b.item, b.addr, s.mayLoad pairLaunch (s.tile 0 0) (pairLaunch.halfOf (s.launchImage pairLaunch) 0 0) b)) = some (0, 0, true))
    ∧ (let s := pairState 272 [0, 0]
       272 ≤ s.now % 288 ∧ s.launches = [] ++ pairLaunch :: [] ∧ s.launches.Nodup ∧ pairLaunch.phase = .staged ∧ pairLaunch.lf = none ∧ pairLaunch.inField 0 0 ≠ [] ∧ (s.nextShared pairLaunch 0 0).isSome = true)
    -- Markhor's answers
    ∧ (∀ k ∈ [0, 1], ∀ p ∈ [(1, 0), (2, 1), (0, 2)], let v := service k p.2 p.2 0x40000 (if p.1 = 0 then none else some (p.1, 0x40020))
        let s := onTile 400 launch1 (inService v) [0, 0, p.1]
        (s.tile 0 0).svc = some v ∧ v.kind ≠ 2 ∧ s.arg.nat 2 = p.1 ∧ (p.1 = 0 → v.failed = none ∧ v.done = v.total) ∧ (s.tile 0 0).seq.mode = .run ∧ (s.tile 0 0).pendc.length < 4) := by
  refine ⟨?_, ?_, ?_, ?_⟩ <;> decide +kernel

/-! Stops, saves, replays. -/

/-- Launch 1 is to stop at 1100 of a kind; a halt record of tile (0, 0). -/
def stopping (k : StopKind) : Launch := { launch1 with stop := some ⟨1048, some 1100, k⟩ }
def haltRec : HaltRec := { stamp := 1000, cause := 0xA0, unitKind := 0, a := 0, b := 0, px := 0, heard := true }
def haltedLaunch : Launch := { launch1 with phase := .halted, level := 0, stop := some ⟨1048, some 1100, .halt 0xA0 1000⟩, stopped := some ⟨1100, 0xA0, 1000⟩, ckpt := 1000 }

theorem witness_HaltsAndResumes_messages :
    (∀ k ∈ [1, 2, 3, 4], ((event 1050 [0, 0, 1000, k, 0xA0] []).arg.nat 3 = k))
    -- a halt's message for a launch that may stop, and one without boundaries
    ∧ (∀ r ∈ [0, 1000], let l : Launch := { launch1 with lnr := { lnr0 with rbsp := r } }
        let s : State := { event 1050 [0, 0, 1000, 2, 0xA0] [] with launches := [l], halted := true, halts := [{ haltRec with heard := false }] }
        (s.arg.nat 3 = 2 ∨ s.arg.nat 3 = 3) ∧ s.halted = true ∧ s.launches = [l] ∧ l.phase = .running ∧ l.stop = none ∧ l.runStart ≤ s.arg.nat 2 + 48)
    -- a tile's error; an engine's, and one that meets a position of a window
    ∧ (∀ cause ∈ [0xA0, 0xA8, 0xA9, 0xAA], ∀ n ∈ [[cause, 1, 5, 0], [cause, 1, 5, 0, 2, 7]], (event 1050 n []).mode = .ready ∧ (event 1050 n []).arg.nat 0 = cause)
    ∧ (¬ (5 < (event 1050 [0xA8, 1, 5, 0] []).arg.n.length) ∧ 5 < (event 1050 [0xA8, 1, 5, 0, 2, 7] []).arg.n.length) := by
  refine ⟨?_, ?_, ?_, ?_⟩ <;> decide +kernel

theorem region00 (l : Launch) (h : l.lnr = lnr0) : ∀ x y, l.holds x y → x = 0 ∧ y = 0 := by
  intro x y hxy
  simp only [Launch.holds, h, lnr0] at hxy
  omega

theorem witness_HaltsAndResumes_stops :
    -- a halt, a pre-emption, a kill and a context's kill, at the boundary
    (∀ k ∈ [StopKind.halt 0xA0 1000, .preempt, .kill, .ctxKill {} 1000], let l := stopping k
        let s : State := { onTile 1100 l (iterating 0 .run) [1] with halted := (match k with | .halt _ _ => true | _ => false), halts := (match k with | .halt _ _ => [haltRec] | _ => []) }
        s.launchOf l.id = some l ∧ s.arg.nat 0 = l.id ∧ l.phase = .running ∧ l.stop = some ⟨1048, some s.now, k⟩ ∧ (∀ h ∈ s.halts, h.cause ≠ 0xA4 ∧ h.cause ≠ 0xAB) ∧ s.preempts = []
        ∧ (s.tile 0 0).drainedAt = none ∧ (s.tile 0 0).draining = false ∧ l.lnr = lnr0)
    -- the bits leave a cycle later
    ∧ (∀ p ∈ [LPhase.killed, .saving], let l : Launch := { stopping .kill with phase := p }
        (onTile 1101 l (iterating 0 .done) [1]).launchOf l.id = some l ∧ (l.phase = .killed ∨ l.phase = .saving) ∧ l.stop = some ⟨1048, some 1100, .kill⟩ ∧ 1101 = 1100 + 1)
    -- a boundary of RBSP, one of PPER alone; with a transfer in progress
    ∧ (∀ c ∈ [1100, 800], let s := onTile c launch1 (inService (service 0 1 1 0 none)) [1]
        s.launchOf 1 = some launch1 ∧ launch1.phase = .running ∧ launch1.lnr = lnr0 ∧ ((lnr0.rbsp ≠ 0 ∧ launch1.tstart < c ∧ (c - launch1.tstart) % lnr0.rbsp = 0) ∨ (lnr0.pper ≠ 0 ∧ launch1.tstart < c ∧ (c - launch1.tstart) % lnr0.pper = 0)))
    -- a checkpoint is confirmed, of a boundary and of a stop
    ∧ (∀ l ∈ [launch1, stopping .preempt], let s := onTile 1117 l { iterating 0 .run with ckpts := [ckptAt 1000] } [1]
        s.launchOf l.id = some l ∧ 1100 + 17 = s.now ∧ l.lnr = lnr0 ∧ ((1100 - l.tstart) % l.lnr.rbsp = 0 ∨ l.stop.bind (·.b) = some 1100) ∧ (s.tile 0 0).ckpts = [ckptAt 1000] ∧ (ckptAt 1000).launch = l.id ∧ (ckptAt 1000).off + l.tstart = 1100)
    -- a resume, of a halted launch and of a saved one
    ∧ (∀ st ∈ [some (⟨1100, 0xA0, 1000⟩ : Stopped), some ⟨1100, 0, 1000⟩], let l : Launch := { launch1 with phase := .fixed, resume := some 1000, tstart := 5000, stopped := st }
        let s := onTile 6000 l { iterating 0 .idle with ckpts := [ckptAt 1000] } [1]
        s.launchOf l.id = some l ∧ l.phase = .fixed ∧ l.resume = some 1000 ∧ 1000 ≠ 0 ∧ s.now = l.tstart + 1000 ∧ l.preemptAgain = false ∧ l.lnr = lnr0 ∧ (s.tile 0 0).ckpts.find? (fun e => e.launch == l.id && e.off == 1000) = some (ckptAt 1000))
    -- a save is complete, and a save has failed
    ∧ (let j : PreemptJob := { cmd := { queued with kind := 12 }, left := [1], w1 := 0, saved := false }
       let s : State := { ctx2 opened (onTile 4000 saving { iterating 0 .idle with saved := 560 } [1]) with preempts := [j] }
       s.launchOf 1 = some saving ∧ saving.phase = .saving ∧ saving.stop = some ⟨150, some 200, .preempt⟩ ∧ saving.node = none ∧ saving.lnr = lnr0 ∧ (s.tile 0 0).saved = 560 ∧ s.up = [] ∧ s.preempts = [j] ∧ j.left = [saving.id] ∧ s.contexts.length = 16 ∧ saving.cmd.ctx < 16)
    ∧ (∀ e ∈ [0, 1], let w := { upMsg true 1 2 none with bad := 1 + e }
        let s : State := { ctx2 opened (onTile 4000 saving { iterating 0 .idle with saved := 5 } [1, e, 16 * 65536 + 64]) with up := [w] }
        200 + 16 < s.now ∧ s.up.find? (fun w => w.pre && w.own == 1 && w.bad == 1 + e && saving.lnr.psave * 65536 + 20480 * (w.x - saving.lnr.x0 + saving.lnr.w * (w.y - saving.lnr.y0)) + 32 * w.k == 16 * 65536 + 64) = some w ∧ s.arg.nat 1 = e ∧ s.arg.nat 2 = 16 * 65536 + 64) := by
  refine ⟨?_, ?_, ?_, ?_, ?_, ?_, ?_⟩ <;> decide +kernel

theorem witness_HaltsAndResumes_after :
    -- the self-test has passed: a launch is replayed, one at level 1 ends; or it has failed at a tile that no list can take in
    (let s : State := { event 9000 [1] [] with launches := [haltedLaunch], halts := [haltRec], halted := true }
     s.halts = [haltRec] ∧ haltRec.heard = true ∧ haltRec.cause ≠ 0xA4 ∧ haltRec.cause ≠ 0xAB ∧ s.halted = true ∧ s.mode = .ready ∧ haltedLaunch.phase = .halted ∧ haltedLaunch.stopped = some ⟨1100, 0xA0, 1000⟩
     ∧ s.arg.nat 0 = 1 ∧ s.noDispatch = false ∧ haltedLaunch.level ≠ 1 ∧ haltedLaunch.lnr.rbsp ≠ 0 ∧ haltedLaunch.scripts = [] ∧ haltedLaunch.halts < 8 ∧ haltedLaunch.node = none ∧ 1100 + 16 < s.now)
    ∧ (let l : Launch := { haltedLaunch with level := 1 }
       l.level = 1 ∧ l.stop = some ⟨1048, some 1100, .halt 0xA0 1000⟩)
    ∧ (let s : State := { event 9000 [0] [] with launches := [haltedLaunch], halts := [haltRec], halted := true, remap := [⟨0, 0, 0, 1⟩] }
       s.arg.nat 0 ≠ 1 ∧ haltRec.unitKind = 0 ∧ haltedLaunch.lnr = lnr0 ∧ canAppend s.mapBytes s.remap (remapAt haltRec.px haltRec.b) = false)
    -- a frozen tile's context, and one whose interval is tainted
    ∧ (let f : FreezeRec := { xpc := 10, xva := 5, xst := 0, at_ := 990, cause := 0x49 }
       let s := onTile 1000 launch1 { iterating 0 .frozen with frz := some f } [0, 2, 0, 0]
       s.launches = [launch1] ∧ launch1.cmd.ctx = s.arg.nat 1 ∧ launch1.phase = .running ∧ launch1.stop = none ∧ s.arg.nat 0 = 0 ∧ (s.tile 0 0).frz = some f ∧ (s.tile 0 0).seq.mode = .frozen ∧ (s.tile 0 0).launch = some launch1.id)
    ∧ (let s : State := { event 1000 [1, 2, 47, 3] [] with launches := [launch1], engines := List.replicate 48 { Engine.idle with taints := [(1, 980)] } }
       s.arg.nat 0 = 1 ∧ s.arg.nat 2 < 48 ∧ (s.engines[s.physEngine 47]?).map (fun g => g.taints) = some [(1, 980)]) := by
  refine ⟨?_, ?_, ?_, ?_, ?_⟩ <;> decide +kernel

/-- A taint is reported on the cycle of p itself, and after it; an engine fails its self-test in whose edge field the launch's region lies. -/
theorem witness_HaltsAndResumes_saving :
    (∀ n ∈ [200, 201], let s : State := { event n [1, 2, 47, 3] [] with launches := [saving], engines := List.replicate 48 { Engine.idle with taints := [(1, 200)] } }
      s.launches = [saving] ∧ saving.cmd.ctx = s.arg.nat 1 ∧ saving.phase = .saving ∧ saving.stop = some ⟨150, some 200, .preempt⟩ ∧ 200 ≤ s.now ∧ saving.lnr = lnr0 ∧ s.preempts = []
      ∧ s.arg.nat 0 = 1 ∧ s.arg.nat 2 < 48 ∧ (s.engines[s.physEngine 47]?).map (fun g => g.taints) = some [(1, 200)])
    ∧ (∀ e ∈ [0, 36], let h : HaltRec := { haltRec with cause := 0xA8, unitKind := 1, a := e }
      let s : State := { event 9000 [0] [] with launches := [haltedLaunch], halts := [h], halted := true }
      h.heard = true ∧ s.mode = .ready ∧ s.arg.nat 0 ≠ 1 ∧ haltedLaunch.node = none ∧ s.messagesOf haltedLaunch.id = false ∧ haltedLaunch.lnr = lnr0 ∧ engineField h.a = (s.fieldX 0, 0 / 16)) := by
  refine ⟨?_, ?_⟩ <;> decide +kernel

/-! Staging. -/

/-- A script of engine 0: an entry of two flits read from 0x40000 and injected from 2000 on, and one that lands two from 3000 on; the port 0 of the bridge sends the two that land from 3000 on, and injects two from 4000 on. -/
def script0 : Script := { unit := 0, lead := 600, reads := [⟨0x40000, 2000, 2, 4, 1, 3, 5, false⟩], writes := [⟨0x41000, 3000, 2, 4, 7⟩], ents := [], pins := [(0x40000, 0x40000, 0x80000)], ready := some 20 }
def bridge0 : Script := { unit := 48, lead := 0, reads := [], writes := [], ents := [⟨true, 7, 2, 3000, 4, 9, 1, 2, 0, 0⟩, ⟨false, 7, 2, 4000, 4, 9, 0, 0, 0, 0⟩], pins := [], ready := some 20 }
def stagedLaunch : Launch := { launch1 with scripts := [script0, bridge0] }
/-- An event of launch 1 at a cycle, with what engine 0 holds. -/
def staging (now : Nat) (l : Launch) (n : List Nat) (g : Engine) : State := { event now n [] with launches := [l], engines := List.replicate 48 Engine.idle |>.set 0 g, dram := Mem.put [] 0x80000 8 77 }
def cellAt (pos : Nat) (bad : Bool) : WinCell := ⟨1, pos, 1, 77, bad⟩
def edgeFlit (at_ : Nat) (poison : Bool) : Engine := { Engine.idle with edge := [(7, at_, ⟨66, poison⟩)] }

theorem witness_StagingEvents_edge :
    (∃ p ∈ (List.range 16).map fun x => (x, 0), (State.reset.edgeOf p.1 0 0) = some (0, 7))
    -- the first and the last landing that an entry names; one that none names, while the launch runs and after it has stopped
    ∧ (∀ p ∈ [(3100, true), (3104, true), (3108, false)], let s := staging p.1 stagedLaunch [7, 0, 5, 66, 0] Engine.idle
        s.arg.nat 2 = 5 + 0 ∧ s.edgeOf 7 0 0 = some (0, 7) ∧ s.expects 0 7 = p.2)
    ∧ (let wide : Launch := { stagedLaunch with lnr := { lnr0 with w := 8 } }
       ∀ l ∈ [wide, { wide with phase := .halted, stopped := some ⟨1098, 0xA0, 998⟩ }, { wide with phase := .killed, stop := some ⟨1048, some 1098, .kill⟩ }, { wide with phase := .retired, retire := some 1098 }],
         let s := staging 1100 l [7, 0, 5, 66, 0] Engine.idle
         s.expects 0 7 = false ∧ s.launches = [l] ∧ l.lnr.covers 7 0 = true
         ∧ (l.phase = .running ∨ (l.phase = .halted ∧ l.stopped.map (·.b) = some 1098) ∨ (l.phase = .killed ∧ l.stop.bind (·.b) = some 1098) ∨ (l.phase = .retired ∧ l.retire = some 1098))) := by
  refine ⟨⟨(7, 0), by decide, by decide +kernel⟩, ?_, ?_⟩ <;> decide +kernel

theorem witness_StagingEvents_read :
    -- the fetch of a first start
    (∀ p ∈ [LPhase.fixed, .running], let l : Launch := { stagedLaunch with phase := p }
      ∃ f, (l.fetches script0).filter (fun f => f.entry == 0) = [f] ∧ f.ks ≠ [] ∧ f.at_ = 1500
        ∧ (let s := staging 1500 l [1, 0, 0] Engine.idle
           s.launchOf l.id = some l ∧ s.arg.nat 0 = l.id ∧ l.script 0 = some script0 ∧ script0.reads[0]?.isSome = true ∧ s.reads = []))
    -- its first flit, with the second still to come, and the second
    ∧ (∀ k ∈ [0, 1], let r : Nat → PendRead := fun k => ⟨1, 0, 0, k, 1, 5 + k, 2701, 0x80000 + 64 * k, none⟩
        let rest := if k = 0 then [r 1] else []
        let s : State := { staging 2701 stagedLaunch [1, 0, 0, k] Engine.idle with reads := r k :: rest }
        s.reads = r k :: rest ∧ (r k).due = s.now ∧ (∀ q ∈ rest, q.k ≠ k) ∧ (r k).got = none ∧ s.jobs = [] ∧ s.commits = [])
    -- the first and the last injection: the flit is there, in error, or missing
    ∧ (∀ k ∈ [0, 1], ∀ w ∈ [[cellAt (5 + k) false], [cellAt (5 + k) true], []], let g : Engine := { Engine.idle with win := w }
        let s := staging (2100 + 4 * k) stagedLaunch [1, 0, 0, k] g
        s.launchOf 1 = some stagedLaunch ∧ stagedLaunch.phase = .running ∧ stagedLaunch.stop.bind (·.b) ≠ some s.now ∧ s.now = stagedLaunch.tstart + (2000 + k * 4) ∧ k < 2 ∧ stagedLaunch.resumedFrom ≤ 2000 + k * 4
        ∧ ((s.engines.getD (s.physEngine 0) Engine.idle).win.find? fun w => w.launch == 1 && w.slot == 1 && w.pos == 5 + k) = w.head?) := by
  refine ⟨fun p hp => ⟨⟨0, 1500, [0, 1]⟩, ?_⟩, ?_, ?_⟩
  · revert p; decide +kernel
  all_goals decide +kernel

theorem witness_StagingEvents_write :
    -- a flit lands, one with POISON, none; at the launch's engine, and for the bridge
    (∀ k ∈ [0, 1], ∀ g ∈ [edgeFlit (3100 + 4 * k) false, edgeFlit (3100 + 4 * k) true, Engine.idle], ∀ u ∈ [(0, 1), (48, 0)], let s := staging (3100 + 4 * k) stagedLaunch [1, u.1, u.2, k] g
        s.launchOf 1 = some stagedLaunch ∧ (stagedLaunch.script u.1).isSome = true ∧ s.now = stagedLaunch.tstart + (3000 + k * 4) ∧ k < 2 ∧ stagedLaunch.resumedFrom = 0)
    -- the decision for a boundary of RBSP, a final one and a stop; with a flit of the interval, one past it, a taint and a STAMP
    ∧ (∀ l ∈ [stagedLaunch, { stagedLaunch with phase := .retired, retire := some 3100 }, { stagedLaunch with stop := some ⟨3000, some 3100, .preempt⟩ }],
        ∀ g ∈ [{ Engine.idle with bank := [⟨1, 3100, 0x81000, 66⟩, ⟨1, 3101, 0x81040, 67⟩] }, { Engine.idle with bank := [⟨1, 3100, 0x81000, 66⟩], taints := [(1, 3100)] }, { Engine.idle with bank := [⟨1, 3100, 0x81000, 66⟩], stamps := [3052] }],
          let s := staging 3116 l [1, 3100] g
          s.launchOf 1 = some l ∧ s.arg.nat 1 = 3100 ∧ s.now = 3100 + 16 ∧ (l.retire = some 3100 ∨ l.stop.bind (·.b) = some 3100 ∨ (l.lnr.rbsp ≠ 0 ∧ l.tstart < 3100 ∧ (3100 - l.tstart) % l.lnr.rbsp = 0)) ∧ s.commits = [])
    -- the commit's end, of a launch that goes on, has retired, was killed, was killed with its context; with a job and without
    ∧ (∀ l ∈ [stagedLaunch, { stagedLaunch with phase := .retired, retire := some 3100 }, { stagedLaunch with phase := .killed, stop := some ⟨3000, some 3100, .kill⟩ }, { stagedLaunch with phase := .killed, stop := some ⟨3000, some 3100, .ctxKill {} 3000⟩ }],
        ∀ js ∈ [[], [(⟨1, 3100, [(0x81000, 66), (0x81040, 67)]⟩ : CommitJob)]], let s : State := { staging 3200 l [1, 3100] Engine.idle with commits := js }
          s.launchOf 1 = some l ∧ 3100 + 16 ≤ s.now ∧ (∀ g ∈ s.engines, g.bank = []) ∧ s.reads = [] ∧ s.jobs = [] ∧ l.node = none ∧ (∀ j ∈ s.commits, j.launch = l.id ∧ j.bound ≤ 3100 ∧ (∀ e ∈ j.pend, e.1 % 64 = 0) ∧ (j.pend.map (·.1)).Nodup)) := by
  refine ⟨?_, ?_, ?_⟩ <;> decide +kernel

theorem witness_StagingEvents_bridge :
    -- a send whose flits have landed
    (let h : Bridge := { Bridge.idle with landed := [(1, 0, 0, 66), (1, 0, 1, 67)] }
     let s : State := { staging 3104 stagedLaunch [1, 0, 0] Engine.idle with bridges := List.replicate 16 h }
     s.arg.nat 1 = 0 ∧ stagedLaunch.script (48 + 0) = some bridge0 ∧ (bridge0.ents[0]?.map (·.send)) = some true ∧ s.bridges[0]? = some h
     ∧ h.landed.filter (fun q => q.1 == 1 && q.2.1 == 0) = (List.range 2).map (fun j => (1, 0, j, if j = 0 then (66 : BitVec 512) else 67)))
    -- an injection of a message that has come, and of one that has not; its second flit
    ∧ (∀ l ∈ [stagedLaunch, { stagedLaunch with level := 0 }], ∀ m ∈ [[(9, [1, 2, 3])], []], let s : State := { staging 4100 l [1, 0, 1, 0] Engine.idle with bridges := List.replicate 16 { Bridge.idle with msgs := m } }
        (bridge0.ents[1]?.map (·.send)) = some false ∧ l.phase = .running ∧ l.stop.bind (·.b) ≠ some s.now ∧ s.now = l.tstart + (4000 + 0 * 4) ∧ 0 < s.bridges.length ∧ (s.bridges.getD 0 Bridge.idle).msgs.find? (fun m => m.1 == 9) = m.head?)
    ∧ (let q : Nat × Nat × List Byte × Bool := (1, 1, List.replicate 128 5, true)
       let s : State := { staging 4104 stagedLaunch [1, 0, 1, 1] Engine.idle with bridges := List.replicate 16 { Bridge.idle with inject := [q] } }
       s.now = stagedLaunch.tstart + (4000 + 1 * 4) ∧ 1 < 2 ∧ (s.bridges.getD 0 Bridge.idle).inject.find? (fun q => q.1 == 1 && q.2.1 == 1) = some q) := by
  refine ⟨?_, ?_, ?_⟩ <;> decide +kernel

/-! The machine as a whole. -/

/-- A well-formed instruction of a slot and one of a control item; ones that the loader rejects; an empty queue. -/
theorem witness_StepRunsDecoded :
    (let f : FetchItem := ⟨.sb, 0x02531C00⟩
     let s : State := { sa 5 6 with fetch := [f] }
     s.fetch = f :: [] ∧ decodeItem f = .instr (.add ⟨5, 6, 7, 0, 0, false⟩))
    ∧ (∀ p ∈ [(0xFFFFFFFF, 2), (0x02531C01, 3)], let f : FetchItem := ⟨.sb, p.1⟩
       ({ sa 5 6 with fetch := [f] } : State).fetch = f :: [] ∧ decodeItem f = .bad p.2)
    ∧ State.reset.fetch = [] := by
  refine ⟨⟨rfl, by decide +kernel⟩, ?_, rfl⟩
  decide +kernel

/-- The reset state lists nothing, and its first step goes on. -/
theorem witness_StepKeepsMemories : State.reset.memWf = true ∧ (match step State.reset with | .next _ => true | _ => false) = true := by
  refine ⟨by decide +kernel, rfl⟩

theorem witness_DecodeInvertsEncode :
    (∀ i ∈ [Instr.addi ⟨3, 1, 7⟩, .vld (vmem 1 0 0), .mzero 3, .endS, .trap 5, .dispatch], i.loadCause = none) ∧ decodeItem ⟨.sb, 0x02531C00⟩ = .instr (.add ⟨5, 6, 7, 0, 0, false⟩) := by
  decide +kernel

/-! Further clauses of the statements above. -/

/-- Registers 1 and, of the vector file, beat 8 · 4 are still to come. -/
def earlyTile : Tile := { withSp [(9, 1)] (running 0x2000 0) with s := { (running 0x2000 0).s with pend := [⟨1, 99, 0, 102, BitVec.allOnes 32, 0x2000⟩] }, vp := [⟨32, 99, 2, 103, BitVec.allOnes 1024, 7⟩] }
theorem witness_SlotTraps_engines :
    -- every form of the vector slot, and of the matrix slot with each state of its slots
    (let s := issuing 2 { running 0 0 with vxFree := 101 }
     s.cur.slot = 2 ∧ s.cur.c < s.curTile.vxFree ∧ ∀ i ∈ vxForms (vx 2 0), s.readsReady i = true ∧ s.regsAllotted i = true)
    ∧ (let t : Tile := { matrix with mxFree := 101 }
       let s := issuing 3 t
       let q : Nat → Nat → MsqOp := fun sa sb => { sa := BitVec.ofNat 3 sa, sb := BitVec.ofNat 3 sb, fe := 1, beats := 0, blk := 3, acc := false }
       100 < t.mxFree ∧ (∀ i ∈ [Instr.mzero 0, .mdrain ⟨2, 1, 3⟩, .mdrainm ⟨2, 1, 1, 2, true, 3⟩, .mscl ⟨false, 1, 0⟩, .mstat ⟨3, false⟩, .mclaim 2, .mrel 0], s.mayAct i = true)
       ∧ (∀ p ∈ [(0, 1), (2, 1), (0, 2)], ∀ i ∈ [Instr.msq (q p.1 p.2), .msqTa (q p.1 p.2), .msqTb (q p.1 p.2), .msqTab (q p.1 p.2), .msqIndexed ⟨0, BitVec.ofNat 3 p.1, BitVec.ofNat 3 p.2, 0, 0, 0, 3, false⟩], s.mayAct i = true)
       ∧ t.claimedAt 0 100 = true ∧ t.claimedAt 1 100 = true ∧ t.claimedAt 2 100 = false ∧ t.claimedAt 2 101 = false ∧ t.claimedAt 0 101 = true ∧ (t.mxSlots.contains 0 && decide (100 ≤ t.mxReadTo)) = false) := by
  refine ⟨?_, ?_⟩ <;> decide +kernel

/-- An early scalar read and an early vector read, by one and by both beats. -/
theorem witness_SlotTraps_early :
    earlyTile.chk 100 = true
    ∧ (∀ i ∈ [Instr.add rr, .selp rr, .stw (ri 0), .jmpIndirect 1], (earlyTile.reads 100 i).find? (fun k => decide (0 < (earlyTile.early 100 k).1)) = some (.s 1) ∧ ∀ e ∈ earlyTile.causes (issuing 0 earlyTile).cur i, 0x44 ≤ e.1)
    ∧ (2 = earlyBy earlyTile.s.pend rr.a.toNat 100 100 ∧ (ri 0).a = rr.a ∧ ((issuing 0 earlyTile).cur.slot ≠ 2 ∨ earlyTile.vxFree ≤ 100))
    ∧ (∀ b ∈ [0, 3], let o : VxOp := { vx 2 0 with beats := BitVec.ofNat 2 b }
        (∀ k < o.beats.toNat + 1, earlyBy earlyTile.vp (4 * o.va.toNat + k) 100 100 ≤ 3) ∧ (∃ k < o.beats.toNat + 1, earlyBy earlyTile.vp (4 * o.va.toNat + k) 100 100 = 3)
        ∧ ∀ i ∈ vxForms o, (issuing 2 earlyTile).regsAllotted i = true) := by
  refine ⟨?_, ?_, ?_, fun b hb => ⟨?_, ⟨0, ?_⟩, ?_⟩⟩ <;> (try revert b) <;> decide +kernel

/-- An operand is zero or infinite and the other no NaN; two numbers that are not zero; 2 to a small power and to one of 4096 or more. -/
theorem witness_VectorFloatValues_steps : ∀ f ∈ [fmtFP16, fmtBF16, fmtFP32],
    (∀ p ∈ [0, f.infPat], !(f.val p).isNaN && !(f.val (2 ^ f.fb)).isNaN && ((f.val p).isZero || (f.val (2 ^ f.fb)).isZero || (f.val p).isInf || (f.val (2 ^ f.fb)).isInf))
    ∧ (∃ x, f.val (f.bias * 2 ^ f.fb) = .num x ∧ x.m ≠ 0 ∧ f.tiny (f.bias * 2 ^ f.fb) = false ∧ x.neg = false)
    ∧ (∃ x, f.val (2 ^ f.fb) = .num x ∧ x.m ≠ 0) ∧ f.nanPat < 2 ^ f.bits := by
  intro f hf
  simp only [List.mem_cons, List.not_mem_nil, or_false] at hf
  rcases hf with rfl | rfl | rfl <;> exact ⟨by decide +kernel, ⟨_, rfl, by decide +kernel, by decide +kernel, by decide +kernel⟩, ⟨_, rfl, by decide +kernel⟩, by decide +kernel⟩
theorem witness_VectorFloatValues_powers :
    (∃ x, fmtFP32.val 0x45800000 = .num x ∧ x.m ≠ 0 ∧ (4096 : ℝ) ≤ |(if x.neg then -1 else 1) * (x.m : ℝ) * (2 : ℝ) ^ x.e|)
    ∧ ∃ x, fmtFP32.val 0x3F800000 = .num x ∧ x.m ≠ 0 ∧ |(if x.neg then -1 else 1) * (x.m : ℝ) * (2 : ℝ) ^ x.e| < (4096 : ℝ) := by
  refine ⟨⟨⟨false, 0x800000, -11⟩, by decide +kernel, by decide, ?_⟩, ⟨⟨false, 0x800000, -23⟩, by decide +kernel, by decide, ?_⟩⟩ <;> norm_num

/-- The scale and the source of the block operations: numbers, an infinity, a NaN, and no good scale. -/
theorem witness_VectorQuantisation_values :
    let s : Nat → Nat → State := fun q v => vxIn { running 0 0 with q := { (running 0 0).q with base := [BitVec.ofNat 32 q, BitVec.ofNat 32 q, BitVec.ofNat 32 q, BitVec.ofNat 32 q] }, pool := Mem.put [] (0x1F8000 + 512 * 8 + 124) 4 v }
    (∀ q ∈ [127, 255, 0x3F800000, 0, 0xBF800000], (s q 0).curTile.q32 102 0 = q)
    ∧ (∃ y, fmtFP32.val 0x3F800000 = .num y ∧ y.m ≠ 0 ∧ y.neg = false) ∧ (∃ y, fmtFP32.val 0 = .num y ∧ y.m = 0) ∧ (∃ y, fmtFP32.val 0xBF800000 = .num y ∧ y.neg = true) ∧ 127 % 256 ≠ 255 ∧ 255 % 256 = 255
    ∧ (∀ p ∈ [(0x3F800000, 0), (0x7F800000, 1), (0x7FC00000, 2)], (match fmtFP32.val ((s 127 p.1).elem (vx 6 0) 8 31) with | .num _ => 0 | .inf _ => 1 | .nan _ => 2) = p.2)
    ∧ (∀ md ∈ [0, 32, 64, 96, 128, 160, 192, 208], ∀ q ∈ [127, 0x3F800000], 16 ≤ tyWidth (vx 6 md).ty ∧ (s q 0).mayAct (.vqcvt (vx 6 md)) = true ∧ (s q 0).mayAct (.vdeq (vx 6 md)) = true) := by
  refine ⟨by decide +kernel, ⟨_, rfl, by decide, rfl⟩, ⟨_, rfl, by decide⟩, ⟨_, rfl, rfl⟩, by decide, by decide, by decide +kernel, by decide +kernel⟩

/-- A promotion that comes about, and a beat of an MSQ: the one that closes its interval, and one that does not. -/
theorem witness_PromotionValues_block :
    let a : Act := { at_ := 107, ph := 4, iss := 100, slot := 3, chk := false, k := .promote (promo 3 255) }
    a.k = .promote (promo 3 255) ∧ matrix.memWf = true ∧ a.chk = false ∧ matrix.upsets = [] := by decide +kernel
def msqJob (b q pint : Nat) : MsqJob :=
  { c := 100, slot := 3, sa := 0, sb := 1, ta := false, tb := false, ent := fmtEntryOf (fmtWord 3 3 22 pint), b := b, blk := 3, acc := false, q := q, a := [], bb := [], first := true }
theorem witness_MatrixProducts_beats :
    let a : Nat → Act := fun n => { at_ := n, ph := 4, iss := 100, slot := 3, chk := false, k := .msqBeat }
    (∀ p ∈ [(2, 0), (2, 1), (64, 63)], let j := msqJob p.1 p.2 1
      ({ matrix with msq := some j } : Tile).msq = some j ∧ j.ent.v = true ∧ (a (100 + j.q + j.q * j.ent.rate / j.ent.interval)).at_ = j.c + j.q + j.q * j.ent.rate / j.ent.interval)
    ∧ (let j := msqJob 2 1 1
       (j.q + 1) * j.ent.rate % j.ent.interval = 0 ∨ j.q + 1 = j.b)
    ∧ (let j := msqJob 2 0 1
       ¬ ((j.q + 1) * j.ent.rate % j.ent.interval = 0 ∨ j.q + 1 = j.b)) := by
  refine ⟨?_, ?_, ?_⟩ <;> decide +kernel

theorem noReleased_nil (t : Tile) (c : Nat) (h : t.vp = []) : t.noReleased c := by
  intro e he; rw [h] at he; cases he
/-- One sub-region, granule 0 of the plane, of a rule and an element type. -/
def planeTile0 (rule : Nat) (ety started : Bool) : Tile :=
  { running 0 0 with cfg0 := cfgDemo.put offRules 8 (2 ^ 63), rules := [⟨rule, ety, none⟩] ++ List.replicate 15 ⟨0, false, none⟩, wrt := if started then [0] else [] }
def wreq (rank iss : Nat) (els : List WrElem) : WReq := { rank := rank, iss := iss, slot := 4, pool := true, els := els, run := none, sink := .fpst, pre := [] }
/-- Two writers of one cycle that share a byte, in order of rank and of issue; a refused element between admitted ones. -/
theorem witness_CycleWrites_several :
    (∀ l ∈ [[wreq 1 99 [⟨8 * 0x2000, 32, 7, 0⟩], wreq 2 99 [⟨8 * 0x2001, 8, 5, 0⟩]], [wreq 2 99 [⟨8 * 0x2000, 32, 7, 0⟩], wreq 2 98 [⟨8 * 0x2000, 4, 5, 0⟩]]],
      l.Pairwise (fun p q => p.rank < q.rank ∨ p.rank = q.rank ∧ q.iss < p.iss) ∧ (∀ r ∈ l, r.run = none ∧ r.pre = [] ∧ ∀ e ∈ r.els, (e.w = 1 ∨ e.w = 4 ∨ e.w = 8 ∨ e.w = 16 ∨ e.w = 32) ∧ e.ba % min e.w 8 = 0
        ∧ matrix.partOf 100 (e.ba / 8) ≠ .plane ∧ matrix.writeCauses 100 e.ba e.w = []))
    ∧ (let l := [wreq 1 99 [⟨8 * 0x2000, 32, 7, 0⟩], wreq 2 99 [⟨8 * 0x2001, 8, 5, 0⟩]]
       let touches : WReq → Nat → Bool := fun r x => r.els.any fun e => decide (e.ba / 8 ≤ x) && decide (8 * x < e.ba + e.w)
       2 ≤ (l.filter fun r => r.pool == true && touches r 0x2001).length)
    ∧ matrix.seq.mode = .run ∧ matrix.pendc = [] ∧ matrix.dbg.getLsbD 0 = false
    -- an element in the code region, one that is not aligned, one that is both, one of a slot that nobody has claimed
    ∧ matrix.writeCauses 100 0 32 = [0x27] ∧ matrix.writeCauses 100 8 32 = [0x27, 0x28] ∧ matrix.writeCauses 100 (8 * 0x2001) 32 = [0x28] ∧ matrix.claimedAt 2 100 = false ∧ matrix.claimedAt 0 100 = true := by
  refine ⟨?_, ?_, ?_⟩ <;> decide +kernel
theorem witness_CycleWrites_plane : ∀ p ∈ [(0, false, false), (0, false, true), (1, true, false), (1, false, true), (2, true, true), (2, false, false), (3, false, false), (3, false, true)],
    let t := planeTile0 p.1 p.2.1 p.2.2
    let a := 8 * t.lay.pb
    let l := [wreq 1 99 [⟨a, 32, 0x3F800000, 0⟩], wreq 2 99 [⟨a, 32, 0x40000000, 0⟩]]
    t.noReleased 100 ∧ t.memWf = true ∧ t.lay.pb % 4 = 0 ∧ t.lay.pl % 4 = 0 ∧ t.lay.pl ≠ 0 ∧ t.ruleOf 0 = (p.1, p.2.1) ∧ t.wrt.contains 0 = p.2.2
    ∧ (∀ r ∈ l, r.run = none ∧ r.pre = [] ∧ ∀ e ∈ r.els, e.fl = 0 ∧ t.partOf 100 (e.ba / 8) = .plane ∧ t.planeWord (e.ba / 8) = 0 ∧ t.writeCauses 100 e.ba e.w = [])
    ∧ t.seq.mode = .run ∧ t.pendc = [] ∧ t.dbg.getLsbD 0 = false := by
  intro p hp
  refine ⟨noReleased_nil _ _ rfl, ?_⟩
  revert p; decide +kernel

/-- Bounds exceeded under TRAP at the first element and at a later one; an element refused when its beat is read; a tile that runs with no cause pending. -/
theorem witness_VectorMemory_refused :
    (∀ p ∈ [(2048, 0), (1985, 63)], let o := vmem 1 0 p.1
      (∀ i ∈ [Instr.vld o, .vst o], (cpIn (running 0 0)).mayAct i = true)
      ∧ (match (running 0 0).placeLin ((running 0 0).bufRec 1) (o.imm.toInt + (p.2 : Nat)) with | .trap _ _ => true | _ => false) = true
      ∧ ∀ h < p.2, ((running 0 0).placeLin ((running 0 0).bufRec 1) (o.imm.toInt + (h : Nat))).traps = false)
    ∧ (let t : Tile := { running 0 0 with cfg0 := cfgDemo.put (24960 + 32 * 7) 32 (bufWord 0 5 2 0x1F8000 16 1024), allot := 32 }
       t.placeLin (t.bufRec 7) 0 = .at_ (8 * 0x1F8000) ∧ t.readCauses 102 (8 * 0x1F8000) 16 = [0x27] ∧ (cpIn t).mayAct (.vld (vmem 7 0 0)) = true
       ∧ (t.bufRec 7).width = 16 ∧ ∀ k < 64, (t.placeLin (t.bufRec 7) (k : Nat)).traps = false)
    ∧ (running 0 0).vp = [] ∧ (running 0 0).seq.mode = .run ∧ (running 0 0).pendc = [] := by
  refine ⟨?_, ?_, ?_⟩ <;> decide +kernel

/-- A landed flit in error, and no flit. -/
theorem witness_Receives_landed : ({ running 0 0 with landing := some ⟨⟨5, true⟩, 98, 3⟩ } : Tile).landing = some ⟨⟨5, true⟩, 98, 3⟩ ∧ (running 0 0).landing = none ∧ (running 0 0).seq.mode = .run ∧ (running 0 0).pendc.length < 4 := by decide +kernel

/-- A beat whose gate's bit is 1, 0, out of its bounds, and refused; with scaling alone; a source element out of its bounds and one refused. -/
def gated (scale : Bool) (g : Int) (bit : Nat) : Tile :=
  let t : Tile := { running 0 0 with cfg0 := ((cfgDemo.put (24960 + 32 * 8) 32 (bufWord 0 0 0 0xE000 1 64)).put (24960 + 32 * 9) 32 (bufWord 0 22 0 0xF000 32 40)), pool := Mem.put [] 0xE000 1 bit }
  { t with copies := [none, none, none, some { c := 90, s0 := 0, d0 := 0, g0 := g, gate := true, cvt := false, xpose := false, scale := scale, factor := 0x40000000, src := t.bufRec 9, dst := t.bufRec 6, msk := t.bufRec 8, sr := t.seqRec 0, n := 2, k := 0, cls := 0 }] }
theorem witness_CopyBeats_gated : ∀ scale : Bool,
    (∀ bit < 2, let t := gated scale 0 bit
      ∃ j, t.copies.getD 3 none = some j ∧ j.gate = true ∧ j.k = 0 ∧ t.placeLin j.msk (j.g0 + j.k) = .at_ (8 * 0xE000) ∧ t.readCauses 92 (8 * 0xE000) 1 = [] ∧ t.rdElem true (8 * 0xE000) 1 = bit)
    ∧ (let t := gated scale 64 0
       ∃ j, t.copies.getD 3 none = some j ∧ (match t.placeLin j.msk (j.g0 + j.k) with | .trap _ _ => true | _ => false) = true)
    ∧ (let t := gated scale 0 1
       ∃ j, t.copies.getD 3 none = some j ∧ (match t.placeLin j.src (j.s0 + (levelSteps j.sr.levels j.k).1 + (31 : Nat)) with | .at_ _ => true | _ => false) = true ∧ t.seq.mode = .run ∧ t.pendc = [] ∧ t.dbg.getLsbD 1 = false ∧ t.upsets = []) := by
  intro scale
  refine ⟨fun bit hb => ⟨_, rfl, rfl, rfl, ?_⟩, ⟨_, rfl, ?_⟩, ⟨_, rfl, ?_⟩⟩ <;> revert scale <;> (try revert bit) <;> decide +kernel

theorem witness_ContextCommands_more :
    -- a context that is not closing, and nothing of it waits for its messages; a pre-emption on the cycle of TSTART; ATTEST of a session and of the management port
    (command [] Context.closed).contexts.length = 16 ∧ ((command [] Context.closed).ctx 2).closing = false ∧ (command [] opened).ending = []
    ∧ (let l : Launch := { launch1 with phase := .fixed, tstart := 1000, runStart := 1000 }
       let s : State := { command (leBytes 8 5) opened with launches := [l] }
       s.launches = [l] ∧ l.cmd.ctx = 2 ∧ l.cmd.tag = leAt s.arg.bytes 0 8 ∧ l.phase = .fixed ∧ l.runStart ≤ s.now ∧ l.lnr.psave ≠ 0 ∧ l.lnr.rbsp ≠ 0 ∧ l.stop = none ∧ ∀ x ∈ l.scripts, x.unit < 48)
    ∧ (∀ n ∈ [0, 1], (event 1000 [n, 0xFF] []).arg.nat 1 = 0xFF ∧ (event 1000 [n, 0xFF] []).arg.nat 0 = n ∧ (event 1000 [n, 0xFF] []).mode ≠ .reset) ∧ (State.reset).mode = .reset
    ∧ (∀ m ∈ [2, 3], leAt ({ event 1000 [1, 0xFF] (leBytes 4 m) with map := some DefectMap.clean } : State).arg.bytes 0 2 = m) := by decide +kernel

/-- No write to DRAM is in progress, and one is. -/
theorem witness_DataCommands_writes :
    (∀ j ∈ (event 0 [] []).jobs, j.write = false) ∧ (event 0 [] []).commits = [] ∧ (hostJob true none).write = true
    ∧ (hostJob true none).pend.map (fun e => (e.2.1 / 2 ^ 36, e.2.1 % 64, e.2.2.length)) = [(0, 0, 64), (0, 0, 64)] := by decide +kernel

/-- A tile that another context's launch used last, and one that none has used; its plane in either place. -/
theorem witness_LaunchLife_foreign :
    ∀ n ∈ [17408, 20000], ∀ p ∈ [(none, false), (some 7, false), (some 7, true)], let t : Tile := { taggedTile with lastCtx := p.1, second := p.2, cfg1 := taggedTile.cfg0 }
      let s := onTile n staged t [1]
      s.launchOf 1 = some staged ∧ s.regionFreeNow staged = true ∧ s.loadEarliest staged (s.launchImage staged) ≤ n ∧ (s.tile 0 0).resident staged.lnr.img staged.lnr.cset 0 0 ≠ .absent
      ∧ (s.tile 0 0).lastCtx ≠ some staged.opening ∧ (s.tile 0 0).pool.wf = true ∧ staged.params.length ≤ 4096 := by decide +kernel

/-- A launch that resumes, with its save area restored; its plane in either place. -/
theorem witness_LaunchLife_restored :
    ∀ b : Bool, let l : Launch := { staged with resume := some 1000, stopped := some ⟨1100, 0, 1000⟩ }
      let t : Tile := { taggedTile with second := b, restd := 560, tbl := List.replicate 16384 1 }
      let s := onTile 200000 l t [1]
      s.launchOf l.id = some l ∧ l.phase = .staged ∧ l.lf = none ∧ l.lnr = lnr0 ∧ s.regionFreeNow l = true ∧ s.loadEarliest l (s.launchImage l) ≤ s.now
      ∧ t.resident l.lnr.img l.lnr.cset 0 0 ≠ .absent ∧ t.lastCtx = some l.opening ∧ t.restd = 560 ∧ t.tbl.length = 16384 := by
  intro b
  refine ⟨rfl, rfl, rfl, rfl, ?_, ?_, ?_, rfl, rfl, List.length_replicate⟩ <;> revert b <;> decide +kernel

/-- A launch that is too late for its START_AT: the least start lies beyond it, and it has passed. -/
theorem witness_LaunchLife_late :
    ∀ p ∈ [(500, 1039), (1700, 1680), (1700, 1699)], let l : Launch := { staged with lf := some 400, startAt := p.2, d := 100 }
      let s := onTile p.1 l { taggedTile with freeAt := some 300 } [1]
      ∃ rf, s.regionFree l = some rf ∧ max l.d (max rf 400) + 640 = 1040 ∧ l.scripts = [] ∧ (p.2 < 1040 ∨ p.2 < s.now) ∧ p.2 ≠ 0
        ∧ s.launchOf l.id = some l ∧ l.phase = .staged ∧ l.resume = none ∧ l.node = none ∧ s.halted = false ∧ s.contexts.length = 16 ∧ l.cmd.ctx < 16 ∧ s.messagesOf l.id = false := by
  intro p hp
  refine ⟨300, ?_⟩
  revert p; decide +kernel

/-- A landing on an empty register, and one that displaces a flit. -/
theorem witness_FabricEvents_land : ∀ l ∈ [none, some (⟨⟨5, false⟩, 96, 3⟩ : Landing)], let w : Tile := { iterating 0 .run with landing := l }
    let a : Act := { at_ := 97, ph := phLand, iss := 0, slot := 0, chk := false, k := .land ⟨6, true⟩ 2 }
    a.k = .land ⟨6, true⟩ 2 ∧ w.landing = l ∧ w.seq.mode = .run ∧ w.pendc.length < 4 := by decide +kernel

/-- ALIGN waits since 16 cycles before the point, and since 15; at the grid's corner two neighbours are present. -/
def aligning (k : Nat) (ds : List (Option Int)) : Tile :=
  { iterating 0 .run with gofs := 3, align := some { a := 65539, at_ := 65536, deltas := ds, common := false }, seq := { Seq.idle with mode := .run, pc := 11, hold := .align 4 k 2, waitPc := some (10, none) } }
theorem witness_AlignmentExchange_align :
    (∀ k ∈ [65520, 65521], ∀ ds ∈ [[none, some 3, some 3, none], [none, some 3, some 0, none]], let s := onTile 65548 launch1 (aligning k ds) [0, 0]
      s.arg.n ≠ [] ∧ (s.tile 0 0).align = some ⟨65539, 65536, ds, false⟩ ∧ 65536 + 12 = s.now ∧ (List.range 4).filter (fun d => (s.neighbour 0 0 d).isSome) = [1, 2]
      ∧ (∀ d ∈ [1, 2], ds.getD d none = some ((ds.getD d none).getD 0)) ∧ (s.tile 0 0).launch = some 1 ∧ (if k + 16 ≤ 65536 then k = 65520 else k = 65521))
    -- a set of 17, whose first tile reports it
    ∧ (let s : State := { event 65548 [0, 0] [] with tiles := (List.range 17).map fun k => (k, { Tile.powerUp with gofs := 3 }) }
       (s.driftSet 0 0).length = 17 ∧ ∀ p ∈ s.driftSet 0 0, 256 * 0 + 0 ≤ 256 * p.2 + p.1) := by
  refine ⟨?_, ?_⟩ <;> decide +kernel

/-- The chained command acts; it finds the engine occupied, a slot unclaimed, an entry that is not valid, a record of another format. A tile that runs meets a skew. -/
theorem witness_WaitEvents_chained :
    (∀ i ∈ [Instr.msq ⟨0, 1, 1, 0, 3, false⟩, .msqTa ⟨0, 1, 1, 0, 3, false⟩, .msqTb ⟨0, 1, 1, 0, 3, false⟩, .msqTab ⟨0, 1, 1, 0, 3, false⟩, .msqIndexed ⟨0, 0, 1, 0, 0, 0, 3, false⟩, .mzero 0, .mdrain ⟨2, 1, 3⟩, .mdrain ⟨1, 1, 3⟩, .mdrainm ⟨2, 1, 1, 2, true, 3⟩],
      ∀ free ∈ [100, 101], let t := { withSp [(40, 1)] (chained i matrix) with mxFree := free }
        let s := onTile 100 launch1 t [0, 0, 3]
        s.arg.nat 2 = 3 ∧ (s.tile 0 0).chains = [(100, 3, (encode i).bits)] ∧ decodeItem ⟨.mx, (encode i).bits⟩ = .instr i ∧ (s.tile 0 0).chk 100 = false ∧ t.seq.mode = .run ∧ t.pendc = []
        ∧ t.claimedAt 0 100 = true ∧ t.claimedAt 1 100 = true ∧ (t.fmtEntry 1).v = true ∧ (4 * 0 + (t.spr 100 40).toNat) % 16 = 1 ∧ (if free ≤ 100 then t.mxFree ≤ 100 else 100 < t.mxFree))
    ∧ (matrix.fmtEntry (matrix.tagOf 3)).v = true ∧ (matrix.fmtEntry (matrix.tagOf 3)).ofmt = (matrix.bufRec 2).fmt ∧ (matrix.fmtEntry (matrix.tagOf 3)).ofmt ≠ (matrix.bufRec 1).fmt
    ∧ matrix.claimedAt 2 100 = false ∧ (matrix.fmtEntry 0).v = false := by
  refine ⟨?_, ?_⟩ <;> decide +kernel

/-- A message is the last of a launch that has ended, and one that another follows. -/
def ended : Ending := { launch := 1, cmd := launch1.cmd, node := none, fate := ⟨0, 0, 100, 3100, {}⟩ }
theorem witness_DistaffEvents_last :
    (let v := service 2 2 0 0 none
     let s : State := { onTile 330 launch1 (iterating 0 .done) [0, 0, 1] with up := [upMsg false 90 1 (some v)], ending := [ended] }
     s.arg.nat 2 = 1 ∧ s.up.find? (fun u => u.x == 0 && u.y == 0 && u.bad == 0 && decide (u.at_ ≤ s.now)) = some (upMsg false 90 1 (some v)) ∧ (upMsg false 90 1 (some v)).msg = some v
     ∧ (∃ e ∈ s.ending, e.launch = v.launch) ∧ State.messagesOf { s with up := s.up.erase (upMsg false 90 1 (some v)) } v.launch = false)
    -- what a launch was saved as comes back: the first and the last payload of its checkpoint, and of its table, also where the region is not free yet
    ∧ (∀ k ∈ [0, 47, 48, 559], let l : Launch := { staged with lnr := { lnr0 with psave := 4 }, resume := some 1000, stopped := some ⟨1100, 0, 1000⟩ }
        let t : Tile := { taggedTile with restd := k, ckpts := (if k = 0 then [] else [ckptAt 1000]), tbl := List.replicate (32 * (k - 48)) 5, freeAt := if k = 48 then none else some 0 }
        let s : State := { ctx2 mapped (onTile 288 l t [0, 0]) with dram := tableDemo }
        s.now % 288 = 0 ∧ t.downAt = none ∧ t.svc = none ∧ s.loadingAt 0 0 = some l ∧ (s.translate 2 (4 * 65536 + 20480 * 0 + 32 * k)).map (fun e => (e.2 % 32, e.1.sv, e.1.rd, decide (e.2 + 32 ≤ 48 * 2 ^ 36))) = some (0, true, true, true)
        ∧ s.jobs = [] ∧ s.commits = [] ∧ s.dram.wf = true ∧ (∀ o ∈ t.ckpts, o.bytes.length = 1536) ∧ t.tbl.length = 32 * (k - 48)) := by
  refine ⟨?_, ?_⟩ <;> decide +kernel

theorem witness_HaltsAndResumes_more :
    (event 1050 [0, 0, 1000, 1, 0xA0] []).arg.nat 3 = 1 ∧ (event 1050 [0, 0, 1000, 1, 0xA0] []).memWf = true
    ∧ (∀ cause ∈ [0xA0, 0xA1, 0xAD], (event 1050 [cause, 1, 5, 0] []).arg.nat 0 ∈ [0xA0, 0xA1, 0xA2, 0xA3, 0xA5, 0xA6, 0xA7, 0xA8, 0xA9, 0xAA, 0xAC, 0xAD])
    ∧ (let l : Launch := { stopping (.halt 0xA0 1000) with level := 1 }
       let s : State := { event 9000 [1] [] with launches := [l] }
       s.messagesOf l.id = false ∧ s.ending = []) := by decide +kernel

/-- A thermal emergency stops the one launch, of whose interval an engine holds a flit. -/
theorem witness_HaltsAndResumes_thermal :
    let l := stopping (.halt 0xA4 1000)
    let h : HaltRec := { haltRec with cause := 0xA4 }
    let s : State := { onTile 1100 l (iterating 0 .run) [1] with halted := true, halts := [h], engines := List.replicate 48 { Engine.idle with bank := [⟨1, 1099, 0x81000, 66⟩] } }
    s.launchOf l.id = some l ∧ s.arg.nat 0 = l.id ∧ l.phase = .running ∧ s.launches = [l] ∧ l.stop = some ⟨1048, some s.now, .halt 0xA4 h.stamp⟩ ∧ s.halts = [h] ∧ h.heard = true ∧ l.node = none ∧ s.messagesOf l.id = false ∧ s.noDispatch = false
      ∧ ∃ g ∈ s.engines, ∃ w ∈ g.bank, w.launch = l.id := by decide +kernel

/-- A launch that a halt which replays nothing has ended, 8 cycles after a boundary of RBSP. -/
def goneLaunch : Launch := { stagedLaunch with phase := .halted, stop := some ⟨3098, some 3108, .halt 0xA4 3050⟩, stopped := some ⟨3108, 0xA4, 3008⟩, discardFrom := some 3108 }
/-- Its engine holds a flit of each of its last two intervals, or of the last. -/
def goneState (b : Nat) (both : Bool) : State :=
  { staging (b + 16) goneLaunch [1, b] { Engine.idle with bank := (if both then [⟨1, 3099, 0x81000, 66⟩] else []) ++ [⟨1, 3105, 0x81040, 67⟩] } with launches := [], gone := [goneLaunch] }
theorem witness_StagingEvents_gone :
    -- the decision on each interval
    (∀ p ∈ [(3100, true), (3108, false)], let s := goneState p.1 p.2
      s.launchOf goneLaunch.id = none ∧ s.gone.find? (fun g => g.id == goneLaunch.id) = some goneLaunch ∧ s.arg.nat 0 = goneLaunch.id ∧ s.arg.nat 1 = p.1 ∧ s.now = p.1 + 16 ∧ s.commits = []
      ∧ (goneLaunch.stop.bind (·.b) = some p.1 ∨ (goneLaunch.lnr.rbsp ≠ 0 ∧ goneLaunch.tstart < p.1 ∧ (p.1 - goneLaunch.tstart) % goneLaunch.lnr.rbsp = 0)))
    -- the commit's end, also while a service message is still leaving
    ∧ (∀ t ∈ [iterating 0 .done, { iterating 0 .done with svc := some (service 2 1 0 0 none) }], let j : CommitJob := ⟨1, 3100, [(0x81000, 66)]⟩
        let s : State := { event 3200 [1, 3100] [] with tiles := [(0, t)], ending := if t.svc.isSome then [ended] else [], commits := [j], gone := [goneLaunch] }
        s.launchOf goneLaunch.id = none ∧ s.arg.nat 0 = goneLaunch.id ∧ (∀ e ∈ s.ending, e.launch = goneLaunch.id → s.messagesOf goneLaunch.id = true) ∧ s.arg.nat 1 = 3100 ∧ 3100 + 16 ≤ s.now
        ∧ (∀ g ∈ s.engines, g.bank = []) ∧ j.launch = goneLaunch.id ∧ j.bound ≤ 3100 ∧ s.reads = [] ∧ s.jobs = [] ∧ (∀ e ∈ j.pend, e.1 % 64 = 0) ∧ (j.pend.map (·.1)).Nodup) := by
  refine ⟨?_, ?_⟩ <;> decide +kernel
/-- R88: the interval that 3,100 closed is committed after the launch has ended, and the one that its stop closed is discarded. -/
theorem test_gone_commits :
    (after .commitDecision (goneState 3100 true)).map (fun u => (u.commits.map fun j => (j.bound, j.pend.map (·.1)), u.gone.length)) = some ([(3100, [0x81000])], 1)
    ∧ (after .commitDecision (goneState 3108 false)).map (fun u => (u.commits.length, u.gone.length, u.undecided 1)) = some (0, 0, false) := by
  refine ⟨?_, ?_⟩ <;> decide +kernel
/-- R49 and R50: a neighbour 9 cycles ahead whose sample came on the cycle the tile read 65,533, and which is corrected before the tile's comparison, shows the delta −9 there. -/
theorem test_early_sample :
    ((after .alignmentSample (event 65533 [1, 1, 3, 65542] [])).bind fun s => after .alignmentPoint { s with now := 65536, arg := ⟨[1, 1], []⟩ }).bind
      (fun u => (u.tile 1 1).align.map fun e => u.deltas 1 1 (u.tile 1 1) e) = some [(0, 0), (1, 0), (2, 0), (3, -9)] := by decide +kernel
/-- R53: n changes with the end of the exchange, not at the point. -/
theorem test_clock_after_exchange :
    (after .alignmentCompare { event 65548 [] [] with n := 64, nDue := some 60 }).map (fun s => (s.n, s.nAt, s.nDue)) = some (60, 65548, none) := by decide +kernel
/-- R267: a stop ends the requests that have come, and a later one lands after the resume. -/
theorem test_two_stops :
    (after .debugStop { event 100 [0, 0] [] with tiles := [(0, { running 0 0 with stopReq := [100, 170] })] }).map (fun s => ((s.tile 0 0).seq.mode, (s.tile 0 0).stopReq)) = some (.debug, [170]) := by decide +kernel
/-- R49: a drift carries tile (5, 5) past ten points, and its neighbours still meet theirs at 65,536. -/
theorem test_drift_points :
    (after .counterDrift (event 65000 [5, 5, 0, 700000] [])).map (fun u => ([(5, 5), (5, 4), (6, 5), (5, 6), (4, 5)] : List (Nat × Nat)).map fun p =>
      (u.agenda.filter fun d => d.item == eventItem (encode .alignmentPoint).bits ⟨[p.1, p.2], []⟩).map (·.at_)) = some [[86432], [65536], [65536], [65536], [65536]] := by decide +kernel
/-- R342: the results of four source beats of FP32 fill one beat of E4M3, each at its own cycle. -/
theorem test_vqcvt_beats : leaves (.vqcvt { vx 6 96 with beats := 3 }) (vxIn (running 0 0)) (fun t => t.vp.map fun e => (e.idx, e.avail)) = some [(16, 103), (16, 104), (16, 105), (16, 106)] := by decide +kernel

/-- A launch that has ended, with a message and without; a flit on a link and a cycle that a stopped launch's entry names; a halt that may stop the launch on this cycle. -/
theorem witness_StagingEvents_more :
    (∀ t ∈ [iterating 0 .done, { iterating 0 .done with svc := some (service 2 1 0 0 none) }], let s : State := { event 3200 [1, 0] [] with tiles := [(0, t)], ending := [ended] }
      s.arg.nat 0 = ended.launch ∧ s.ending.find? (fun o => o.launch == ended.launch) = some ended ∧ ended.node = none ∧ ended.fate.status = 0 ∧ ended.fate.cause = 0 ∧ s.messagesOf 1 = t.svc.isSome)
    ∧ (let l : Launch := { stagedLaunch with phase := .halted, stopped := some ⟨3099, 0xA0, 2999⟩ }
       let s := staging 3100 l [7, 0, 5, 66, 0] Engine.idle
       s.edgeOf 7 0 0 = some (0, 7) ∧ s.expects 0 7 = false ∧ l.namesLink 0 7 3100 = true ∧ s.launches = [l])
    ∧ (∀ n ∈ [0, 1], let l : Launch := { stagedLaunch with stop := some ⟨3090, some 3100, .halt 0xA0 3042⟩ }
        let s := staging 3100 l [1, 0, 1, 0, n] Engine.idle
        s.launchOf l.id = some l ∧ 3090 ≤ s.now ∧ s.arg.nat 4 = n)
    ∧ (let l : Launch := { stagedLaunch with phase := .retired, retire := some 3100 }
       let s : State := { staging 3200 l [1, 3100] Engine.idle with tiles := [(0, { iterating 0 .done with svc := some (service 2 1 0 0 none) })] }
       s.messagesOf l.id = true ∧ l.phase = .retired ∧ l.retire = some 3100 ∧ s.ending = []) := by
  refine ⟨?_, ?_, ?_, ?_⟩ <;> decide +kernel

/-- The clamp leaves n as it is; the module is not READY; the debug unit in a state that takes no write, and a result on its way to a register that was released. -/
theorem witness_ClockAndHeat_more :
    ({ event 0 [4] [] with n := 32 } : State).n = 32 ∧ max 32 ((32 : Int) - min 4 4) = 32 ∧ ({ event 0 [] [] with mode := .serviceOnly } : State).mode ≠ .ready ∧ State.reset.mode = .reset := by decide +kernel
theorem witness_DebugUnit_more :
    State.reset.mode = .reset ∧ (event 0 [] []).mode = .ready
    ∧ (let e : PendWrite 1024 := ⟨32, 90, 2, 94, BitVec.allOnes 1024, 7⟩
       let t : Tile := { running 0 0 with vp := [e] }
       t.vp = [e] ∧ e.avail ≤ 100 ∧ t.released e = false ∧ t.pool.wf = true ∧ ¬ e.avail ≤ 93) := by decide +kernel

/-! Corners of the statements: what they ask of rounding, of causes and losses, of runs, messages and closing contexts, and of the tree and the Roving lines. -/

/-- A watched access of each kind, and a narrow store to a word of an ADD or a SUM sub-region. -/
theorem witness_LocalMemory_causes :
    (let t : Tile := { running 0x2000 0 with dbg := 3, filt := BitVec.allOnes 4096 }
     (∀ i ∈ [Instr.ldw (ri 0), .ldb (ri 0), .stw (ri 0), .stb (ri 0)], (issuing 0 t).mayAct i = true) ∧ (t.partOf 100 0x2000).noRead = false ∧ (t.partOf 100 0x2000).noWrite = false
      ∧ t.tlvl 100 = 0 ∧ t.seq.skipIss.contains 100 = false ∧ t.dbg.getLsbD 0 = true ∧ t.dbg.getLsbD 1 = true
      ∧ ∀ m ∈ [0x9E37, 0x85EB, 0xC2B3], t.filt.getLsbD (0x2000 / 64 * m / 8 % 4096) = true)
    ∧ ∀ rule ∈ [1, 2], let t := { planeTile0 rule false false with s := (running (running 0 0).lay.pb 0).s }
      (t.spr 100 11).toNat = 0 ∧ (t.partOf 100 t.lay.pb).noWrite = false ∧ t.partOf 100 t.lay.pb = .plane ∧ (t.ruleOf (t.planeWord t.lay.pb)).1 = rule ∧ t.dbg.getLsbD 0 = false
      ∧ ∀ i ∈ [Instr.sth (ri 0), .stb (ri 0)], (issuing 0 t).mayAct i = true ∧ ((issuing 0 t).sReg 1).toNat = t.lay.pb := by decide +kernel
/-- A PMODE left rule 3 pending in a sub-region of level 1, and none. -/
theorem witness_StepTrapEndMark_rules :
    let t : Nat → Option (Nat × Bool) → Tile := fun lvl q => { planeTile0 1 false false with cfg0 := cfgDemo.put offRules 8 (2 ^ 63 + lvl * 2 ^ 58), rules := ⟨1, false, q⟩ :: List.replicate 15 ⟨0, false, none⟩ }
    ∀ q ∈ [none, some (3, true)], (t 1 q).rules[0]? = some ⟨1, false, q⟩ ∧ bitAt ((t 1 q).ruleWord 0) 63 = true ∧ bitsAt ((t 1 q).ruleWord 0) 58 2 = 1 ∧ bitsAt ((t 2 q).ruleWord 0) 58 2 ≠ 1 := by decide +kernel
/-- Zero times an infinity with a number and with an infinity, an infinity and a number with a number, and with the infinity of the other sign; numbers and an infinity. -/
theorem witness_VectorFloatValues_fma : ∀ f ∈ [fmtFP16, fmtBF16, fmtFP32],
    (let zi : Nat → Nat → Bool := fun p q => ((f.val p).isZero && (f.val q).isInf) || ((f.val p).isInf && (f.val q).isZero)
     zi 0 f.infPat = true ∧ zi f.infPat f.signBit = true ∧ zi f.infPat (2 ^ f.fb) = false ∧ (f.val 0).isNaN = false)
    ∧ (f.val f.infPat).isInf = true ∧ (f.val f.infPat).sign = false ∧ (f.val (f.infPat + f.signBit)).sign = true ∧ (f.val (2 ^ f.fb)).isNaN = false ∧ (f.val f.nanPat).isNaN = true := by decide +kernel
/-- A magnitude between the greatest finite neighbours of each format, one on a neighbour, one below the least of them that is not zero, and one beyond the greatest. -/
theorem witness_VectorConversions_rounds : ∀ g ∈ floatFormats, let f := g.1
    (∀ k ∈ [0, 1, g.2.1 - 1, g.2.1, g.2.1 + 1], let y := f.magnitude k
      let z : ExactNum := { y with m := 4 * y.m + 1, e := y.e - 2 }
      ((f.magnitude k).cmp y ≤ 0 ∧ y.cmp (f.magnitude (k + 1)) < 0) ∧ z.m ≠ 0 ∧ (f.magnitude k).cmp z ≤ 0 ∧ z.cmp (f.magnitude (k + 1)) < 0 ∧ (f.magnitude k).cmp z ≠ 0)
    ∧ ∃ j < 8, floatFormats[j]? = some g := by decide +kernel
/-- A cell whose sum is exact, one that rounds to an infinity, one that its rounding changes, and one of no sum. -/
theorem witness_PromotionValues_sums :
    let z := List.replicate 1024 0
    (∃ x, (promo 3 255).sum z 31 31 = some x ∧ ∃ y, fmtFP32.val (rne32 x).1 = .num y ∧ y.cmp x = 0)
    ∧ (∃ x, (promo 19 0x6000).sum z 0 0 = some x ∧ (rne32 x).1 % 2 ^ 31 = 0x7F800000)
    ∧ (∃ x, ({ promo 3 1 with fresh := false } : Promo).sum (List.replicate 1024 0x33800000) 0 31 = some x ∧ ∃ y, fmtFP32.val (rne32 x).1 = .num y ∧ y.cmp x ≠ 0)
    ∧ (promo 19 0x7FC0).sum z 0 0 = none :=
  ⟨⟨_, rfl, _, rfl, by decide +kernel⟩, ⟨_, rfl, by decide +kernel⟩, ⟨_, rfl, _, rfl, by decide +kernel⟩, by decide +kernel⟩
/-- A word of the plane region, aligned and not, and the first index out of a trapping record of words. -/
theorem witness_Atomics_refused :
    (∀ d ∈ [0, 2], let t : Tile := { running 0 0 with cfg0 := cfgDemo.put (24960 + 32 * 7) 32 (bufWord 0 21 0 ((running 0 0).lay.pb + d) 16 64) }
     let o : AtomOp := { s := 3, bn := 7, x := 1, v := 2, imm := 0, cls := 0 }
     (∀ i ∈ [Instr.aadd o, .amax o, .amin o, .axch o, .acas o], (cpIn t).mayAct i = true) ∧ t.placeLin (t.bufRec 7) 0 = .at_ (8 * (t.lay.pb + d)) ∧ t.partOf 102 (t.lay.pb + d) = .plane ∧ t.s.pend = []
      ∧ (match t.placeLin (t.bufRec 7) 1024 with | .trap _ _ => true | _ => false) = true ∧ t.seq.mode = .run ∧ t.pendc = []) := by decide +kernel
/-- Inputs that are taken at the first beat, at the last, and at every one; an element out of bounds under TRAP at once and last. -/
theorem witness_Sends_lost :
    (∀ l ∈ [[101], [104], [101, 102, 103, 104]], let t : Tile := { running 0 0 with localIn := l }
      (cpIn t).mayAct (.send { v := 8, cls := 0, port := 4, nb := 3 }) = true ∧ (cpIn t).mayAct (.sendm { bn := 1, x := 0, imm := 0, cls := 0, port := 1, nb := 3 }) = true)
    ∧ ∀ p ∈ [(2048, 0), (1985, 63)], let o : SendmOp := { bn := 1, x := 0, imm := BitVec.ofNat 13 p.1, cls := 0, port := 1, nb := 1 }
      (cpIn (running 0 0)).mayAct (.sendm o) = true ∧ ((running 0 0).placeLin ((running 0 0).bufRec 1) (o.imm.toInt + (p.2 : Nat))).traps = true
      ∧ ∀ h < p.2, ((running 0 0).placeLin ((running 0 0).bufRec 1) (o.imm.toInt + (h : Nat))).traps = false := by
  refine ⟨?_, ?_⟩ <;> decide +kernel

/-- A run of three nodes of one image, the second after the first; the run's command is in context 2, queue 3. -/
def runOf (ns : List NodeState) : Run :=
  { id := 4, cmd := { queued with kind := 8 }, graph := { graphDemo with nodes := [⟨5, 0, 0, 0, 0xFFFF, 0⟩, ⟨5, 0, 0, 0, 0xFFFF, 1⟩, ⟨5, 0, 0, 0, 0xFFFF, 0⟩] }, level := 2, nodes := ns, fate := none, w0 := none, w1 := 0 }
def runState (ns : List NodeState) (ls : List Launch) : State :=
  { event 1000 [] [] with sessions := [session1], contexts := (List.replicate 16 Context.closed).set 2 { mapped with images := [{ id := 5, va := 0x40000, len := 0xC0 }] }, dram := smallImage, runs := [runOf ns], launches := ls }
/-- A pre-empted launch, whose segment of level 2 has the id 6; a segment of another context, with the id given. -/
def savedLaunch : Launch := { launch1 with phase := .saved, lnr := { lnr0 with dom := 6 * 2 ^ 10 }, stopped := some ⟨900, 0, 800⟩, stop := some ⟨850, some 900, .preempt⟩ }
def otherSeg (gid : Nat) : Segment := { lvl := 2, gid := gid, opening := 9, members := [⟨1, 0, 8, false, none, false, []⟩] }
def savedQueue (gid : Nat) : State := { queuing { queued with kind := 6, resume := some 1 } with launches := [savedLaunch], segs := [otherSeg gid] }

/-- The first node; the second once the first is done, and until then the third; a pre-empted node before the others. -/
theorem witness_LaunchLife_nodes :
    (∀ p ∈ [([NodeState.waiting, .waiting, .waiting], 0), ([.done, .waiting, .dropped], 1), ([.running, .waiting, .waiting], 2), ([.waiting, .waiting, .saved 1], 2)],
      let s := runState p.1 (if p.2 = 2 ∧ p.1.head? = some .waiting then [savedLaunch] else [])
      s.candidate 35 = some (.node 4 p.2) ∧ s.runs.find? (fun o => o.id == 4) = some (runOf p.1) ∧ s.pointers.getD 0 0 < 256 ∧ s.decidedAt ≠ some s.now ∧ (runOf p.1).fate = none
      ∧ ∀ j ∈ List.range 256, j ≠ 35 → s.candidate j = none)
    ∧ (runState [.waiting, .waiting, .waiting] []).launchReady 2 5 0 = true ∧ (runState [.waiting, .waiting, .saved 1] [savedLaunch]).resumeReady 1 = true
    ∧ (runState [.waiting, .waiting, .saved 1] [savedLaunch]).launchOf 1 = some savedLaunch := by
  refine ⟨?_, ?_, ?_, ?_⟩ <;> decide +kernel
/-- A pre-empted launch at the head of its queue, without and with a clash of its group id. -/
theorem witness_LaunchLife_again :
    ∀ p ∈ [(7, false), (6, true)], let s := savedQueue p.1
      s.candidate 35 = some (.head { queued with kind := 6, resume := some 1 }) ∧ s.resumeReady 1 = true ∧ s.launchOf 1 = some savedLaunch ∧ s.segClash savedLaunch.lnr savedLaunch.opening = p.2
      ∧ savedLaunch.node = none ∧ savedLaunch.cmd.ctx < 16 ∧ s.messagesOf 1 = false ∧ (∀ r ∈ s.runs, 16 * r.cmd.ctx + r.cmd.queue ≠ 35) ∧ ∀ j ∈ List.range 256, j ≠ 35 → s.candidate j = none := by decide +kernel
/-- An iteration that has issued END and not drained is overrun at its next start. -/
theorem witness_LaunchLife_overrun :
    let t : Tile := { iterating 0 .between with draining := true }
    let s := onTile 300 launch1 t [0, 0]
    s.runningAt 0 0 = some launch1 ∧ t.iter = some 0 ∧ 0 + launch1.lnr.w * launch1.lnr.h < launch1.lnr.cnt.foldl (· * ·) 1 ∧ (s.tile 0 0).gcy 300 = 100 + 1 * 200 ∧ t.seq.mode = .between ∧ t.frz = none ∧ t.tlvl 300 = 0 := by decide +kernel

/-- The third node of a run is picked; its image holds its record, and nothing refuses its launch. -/
theorem witness_DataCommands_node :
    let s : State := { runState [.done, .running, .running] [] with picked := some (4, 2), arg := ⟨[1, 2, 3, 5], []⟩ }
    s.runs.find? (fun o => o.id == 4) = some (runOf [.done, .running, .running]) ∧ (runOf [.done, .running, .running]).graph.nodes[2]? = some ⟨5, 0, 0, 0, 0xFFFF, 0⟩
    ∧ (s.imageOf 2 5).isSome = true ∧ s.launchRefusal 2 (askNode (runOf [.done, .running, .running]) ⟨5, 0, 0, 0, 0xFFFF, 0⟩) = none := by decide +kernel
/-- A node's launch ends, DONE or FAULTED: others are to come, others run, it is the last; a run that failed before. -/
theorem witness_DataCommands_nodeEnds :
    ∀ p ∈ [([NodeState.done, .running, .waiting], 0, false), ([.done, .running, .done], 0, false), ([.running, .running, .waiting], 0x10, false), ([.done, .running, .saved 9], 0x1B, false), ([.done, .running, .dropped], 0x10, true)],
      let e : Ending := { launch := 1, cmd := { queued with kind := 8 }, node := some (4, 1), fate := ⟨p.2.1, 0, 100, 3100, {}⟩ }
      let r : Run := { runOf p.1 with fate := if p.2.2 then some ⟨0x10, 0x27, 90, 80, {}⟩ else none }
      let s : State := { runState [] [] with runs := [r], ending := [e], arg := ⟨[1, 0], []⟩ }
      s.contexts.length = 16 ∧ r.cmd.ctx < 16 ∧ s.ending.find? (fun o => o.launch == s.arg.nat 0) = some e ∧ s.messagesOf e.launch = false ∧ e.node = some (r.id, 1) ∧ s.runs = [r] ∧ 1 < r.nodes.length
      ∧ s.noDispatch = false ∧ e.cmd.ctx = r.cmd.ctx ∧ (s.ctx r.cmd.ctx).closing = false := by decide +kernel

/-! Messages and commands with launches and runs in flight. -/

/-- A command message (R100): kind, context, queue, dependences, a tag of 77, a body. -/
def message (kind ctx queue : Nat) (deps : List Nat) (body : List Byte) : List Byte :=
  leBytes 1 kind ++ leBytes 1 ctx ++ leBytes 1 queue ++ leBytes 1 deps.length ++ leBytes 4 (32 + 8 * deps.length + body.length) ++ leBytes 8 77 ++ leBytes 16 0 ++ deps.flatMap (leBytes 8) ++ body
/-- It comes in the last packet due to session 1, whose context 2 is as given. -/
def receiving (m : ModState) (k : Context) (b : List Byte) : State := framed { packet 1 1 5 b with last := true } { holding session1 State.reset with mode := m, contexts := (List.replicate 16 Context.closed).set 2 k }
/-- A queue of the numbered context with its command 5, or 256 of them. -/
def full (n : Nat) : Context := { opened with queues := opened.queues.set 3 (List.replicate n queued), kept := [(8, 0), (9, 0x10)] }
theorem witness_Sessions_message :
    (∀ m ∈ [message 11 2 3 [5] (leBytes 8 1), message 13 2 0 [] (leBytes 8 4)], let s := receiving .ready (full 1) m
      s.session 1 = some session1 ∧ s.packetComes session1.port session1.own session1.addr session1.udp 1 { packet 1 1 5 m with last := true } ∧ (5 + 2 ^ 32 - session1.rxNext) % 2 ^ 32 = 0
      ∧ session1.held = [] ∧ session1.unacked < 15 ∧ m.length ≤ 2 ^ 24 + 4096 ∧ s.contexts.length = 16 ∧ session1.msg = none)
    -- a message in two packets
    ∧ (let e : Session := { session1 with msg := some (List.replicate 31 1) }
       (holding e State.reset).session e.sid = some e ∧ e.skip = false ∧ (List.replicate 31 (1 : Byte)).length < 32) := by
  dsimp only [State.packetComes, State.udpComes, Packet.inRange]
  refine ⟨?_, ?_⟩ <;> decide +kernel
/-- Two messages that break their form: a kind and a level that are not. -/
theorem witness_Sessions_malformed : ∀ m ∈ [message 16 2 0 [] [], message 11 2 3 [] (leBytes 8 3)], 32 ≤ m.length ∧ ¬ WellFormedCommand m := by
  intro m hm
  simp only [List.mem_cons, List.not_mem_nil, or_false] at hm
  rcases hm with rfl | rfl <;> refine ⟨by decide +kernel, fun h => ?_⟩
  · exact absurd h.2.2.2.2.2.2.2.1 (by decide +kernel)
  · exact absurd h.2.2.2.2.2.2.2.2.2.2.2.2.2.2.2.2.2.2.2.2.1 (by decide +kernel)
/-- A message of every kind, at bounds of its fields. -/
theorem witness_Sessions_wellFormed :
    ∀ m ∈ [message 1 2 0 [] (leBytes 8 0x1000 ++ leBytes 8 1), message 2 2 0 [] [], message 3 2 15 [] (leBytes 8 0x1000 ++ leBytes 16 1), message 4 2 3 [5] (leBytes 72 0), message 4 0xFF 0 [] (leBytes 72 0), message 5 2 3 [] (leBytes 8 0 ++ leBytes 8 64),
      message 6 2 3 [8] (leBytes 24 0), message 7 2 3 [] (leBytes 8 256 ++ leBytes 32 0), message 8 2 3 [] (leBytes 8 0), message 9 2 3 [] (leBytes 8 (2 ^ 32) ++ leBytes 4 0), message 10 2 0 [] (leBytes 8 5),
      message 11 2 3 [5, 8, 9] (leBytes 8 1), message 12 2 0 [] (leBytes 8 5), message 13 2 0 [] (leBytes 8 4), message 14 0xFF 0 [] (leBytes 32 0), message 15 2 0 [] (leBytes 8 1)],
      WellFormedCommand m := by
  intro m hm
  simp only [List.mem_cons, List.not_mem_nil, or_false] at hm
  rcases hm with rfl | rfl | rfl | rfl | rfl | rfl | rfl | rfl | rfl | rfl | rfl | rfl | rfl | rfl | rfl | rfl <;> dsimp only [WellFormedCommand, Cmd.queued] <;> and_intros <;> decide +kernel
/-- What turns commands of context 2 away: the state, a closed or closing context, another owner, a used tag, a full queue; a dependence that is pending, that is done, and that failed. -/
theorem witness_Sessions_command :
    (∀ m ∈ [ModState.serviceOnly, .ready, .thermalHalt, .recovery], (receiving m opened []).mode = m)
    ∧ (∀ k ∈ [Context.closed, { opened with closing := true }, { opened with owner := 2 }, opened], ((receiving .ready k []).ctx 2 = k))
    ∧ Context.closed.opening = 0 ∧ opened.opening ≠ 0 ∧ opened.closing = false ∧ opened.owner = 1 ∧ session1.admin = false
    ∧ (let s := receiving .ready (full 1) []
       s.pending 2 77 = false ∧ s.pending 2 5 = true ∧ s.pending 2 8 = false ∧ s.pending 2 9 = false ∧ s.pending 2 6 = false ∧ ((full 1).kept.find? fun u => u.1 == 6) = none
       ∧ ((full 1).kept.find? fun u => u.1 == 8).map (·.2) = some 0 ∧ ((full 1).kept.find? fun u => u.1 == 9).map (·.2) = some 0x10 ∧ (∀ o ∈ (full 1).queues.flatMap id, 77 ∉ o.deps))
    ∧ ((receiving .ready { full 1 with queues := opened.queues.set 3 [{ queued with tag := 77 }] } []).pending 2 77 = true)
    ∧ ((full 255).queues.getD 3 []).length < 256 ∧ 256 ≤ ((full 256).queues.getD 3 []).length := by decide +kernel

/-- CANCEL and CLOSE_CONTEXT meet a launch that runs, from its TSTART on, with boundaries and without, and its run; one that is staged, one that has retired, and a run of which nothing runs. -/
theorem witness_ContextCommands_running :
    (∀ l ∈ [launch1, { launch1 with phase := .fixed, runStart := 1000, lnr := { lnr0 with rbsp := 0 } }], let s : State := { command (leBytes 8 5) opened with launches := [l] }
      s.contexts.length = 16 ∧ s.arg.nat 1 = 2 ∧ (s.ctx 2).opening ≠ 0 ∧ (s.ctx 2).closing = false ∧ s.launches = [l] ∧ l.cmd.ctx = 2 ∧ l.stop = none ∧ (l.phase = .running ∨ (l.phase = .fixed ∧ l.runStart ≤ s.now))
      ∧ s.runs = [] ∧ l.node = none ∧ l.cmd.tag = leAt s.arg.bytes 0 8 ∧ (s.ctx 2).queues.flatMap id = [])
    ∧ (let l : Launch := { launch1 with cmd := { queued with kind := 8 }, node := some (4, 1) }
       let s : State := { command (leBytes 8 5) opened with launches := [l], runs := [runOf [.done, .running, .waiting]] }
       s.launches = [l] ∧ s.runs = [runOf [.done, .running, .waiting]] ∧ l.node = some ((runOf []).id, 1) ∧ (runOf []).cmd.ctx = 2 ∧ (runOf []).cmd.tag = leAt s.arg.bytes 0 8)
    ∧ (∀ l ∈ [{ launch1 with phase := .staged, tstart0 := none }, { launch1 with phase := .fixed, runStart := 1001, tstart0 := none }, { launch1 with phase := .retired }],
        let s : State := { command (leBytes 8 5) opened with launches := [l] }
        s.launches = [l] ∧ (s.ctx 2).closing = false ∧ l.cmd.ctx = 2 ∧ l.cmd.tag = leAt s.arg.bytes 0 8 ∧ l.node = none ∧ s.runs = [] ∧ l.stopped = none ∧ s.messagesOf l.id = false
        ∧ (l.phase = .staged ∨ (l.phase = .fixed ∧ s.now < l.runStart) ∨ l.phase = .retired))
    ∧ (let r := runOf [.done, .waiting, .dropped]
       let s : State := { command (leBytes 8 5) opened with runs := [r] }
       s.runs = [r] ∧ (s.ctx 2).closing = false ∧ r.cmd.ctx = 2 ∧ r.cmd.tag = leAt s.arg.bytes 0 8 ∧ r.fate = none ∧ s.launches = [] ∧ .running ∉ r.nodes ∧ ∃ n ∈ r.nodes, n ≠ .done) := by
  refine ⟨?_, ?_, ?_, ?_⟩ <;> decide +kernel
/-- QUERY of each selector, in context 2 and in none; SUBSCRIBE to a context of its own and of another session; the last of a closing context. -/
theorem witness_ContextCommands_query :
    (∀ n ∈ [1, 4, 5, 6], ((command (leBytes 8 n) opened).queryBody { queued with kind := 13 } n).isSome = true)
    ∧ (let s : State := { command [] opened with launches := [launch1, { launch1 with id := 2, phase := .staged }], segs := [otherSeg 6, { otherSeg 7 with members := [⟨0, 0, 1, true, none, false, []⟩] }] }
       [launch1].Sublist s.launches ∧ s.launches.Nodup ∧ s.segs.Nodup ∧ launch1.cmd.ctx = 2 ∧ launch1.phase = .running ∧ (otherSeg 6).lvl < 4 ∧ (otherSeg 6).gid < 1024)
    ∧ (∀ p ∈ [(1, false), (2, true), (2, false)], let s : State := { command (leBytes 8 3) { opened with owner := p.1 } with sessions := [{ session1 with admin := p.2 }] }
        s.session 1 = some { session1 with admin := p.2 } ∧ (s.ctx 2).owner = p.1 ∧ (s.ctx 2).opening ≠ 0)
    ∧ (let s : State := { command [] { opened with closing := true, closeCmd := some { queued with kind := 2, tag := 70 } } with arg := ⟨[1, 0], []⟩, ending := [{ launch := 1, cmd := launch1.cmd, node := none, fate := ⟨2, 0, 100, 3100, {}⟩ }] }
       s.contexts.length = 16 ∧ s.messagesOf 1 = false ∧ launch1.cmd.ctx < 16 ∧ (s.ctx 2).closing = true ∧ s.launches = [] ∧ s.runs = [] ∧ s.jobs = [] ∧ s.loads = [] ∧ s.noDispatch = false ∧ s.arg.nat 0 = 1)
    ∧ (event 0 [1] []).ports[session1.port]?.isSome = true := by
  refine ⟨?_, ?_, ?_, ?_, ?_⟩ <;> decide +kernel

/-- Tile (0, 0) alone hands something over at cycle 100; its segment of level 2 has other members too. -/
def handing (o : Emit) (ms : List Member) : State :=
  { event 100 [0, 0] [] with tiles := [(0, { running 0 0 with out := [o] }), (1, running 0 0)], segs := [{ lvl := 2, gid := 6, opening := 1, members := ms }] }
theorem hands_over (o : Emit) (ms : List Member) : (handing o ms).handsOver 0 0 o :=
  ⟨by decide, [], { running 0 0 with out := [o] }, [(1, running 0 0)], by rfl, rfl, fun e he => by simp only [List.nil_append, List.mem_singleton] at he; subst he; decide +kernel⟩
def member (x y : Nat) (a : Option Nat) (st : List Nat) : Member := { x := x, y := y, launch := 1, exc := false, arrived := a, ended := false, strobes := st }
/-- The last arrival, at a node of a field, of a group and of the root; one that is not the last; a member that is excused; an end and a freeze. -/
theorem witness_WaitEvents_tree :
    (∀ o ms, (handing o ms).handsOver 0 0 o)
    ∧ (∀ o ∈ [Emit.arrive 2, .ended, .froze 0x27], ∀ ms ∈ [[member 0 0 none [], member 1 0 (some 90) []], [member 0 0 none [], member 40 0 (some 90) []], [member 0 0 none [], member 180 180 (some 90) []],
        [member 0 0 none [], { member 1 0 none [] with exc := true }]],
      let s := handing o ms
      s.segs.find? (fun g => g.lvl == 2 && g.has 0 0) = some { lvl := 2, gid := 6, opening := 1, members := ms }
      ∧ (∀ m ∈ ms, m.exc = false → ((if m.x = 0 ∧ m.y = 0 then some (m.arrived.getD 100) else m.arrived).getD 101) ≤ 100) ∧ (∃ m ∈ ms, m.exc = false ∧ m.x = 0 ∧ m.y = 0))
    ∧ (∃ m ∈ [member 0 0 none [], member 1 0 none []], m.exc = false ∧ ¬ (m.x = 0 ∧ m.y = 0) ∧ m.arrived = none)
    -- strobes of one count, on one cycle and on two
    ∧ (∀ a ∈ [100, 99], let ms := [member 0 0 none [50], member 1 0 none [50, a]]
        (handing (.strobe 2) ms).segs.find? (fun g => g.lvl == 2 && g.has 0 0) = some { lvl := 2, gid := 6, opening := 1, members := ms } ∧ (∀ k ∈ ms, k.x = 0 ∧ k.y = 0 → k = member 0 0 none [50]) ∧ (member 0 0 none [50]).strobes.length = 1)
    -- a tile of no segment
    ∧ ∀ g ∈ (handing (.arrive 3) []).segs, g.lvl = 3 → g.has 0 0 = false := by
  refine ⟨hands_over, ?_, ?_, ?_, ?_⟩ <;> decide +kernel
/-- Two messages wait in one field, a TRIG of slot 0 and an ALERT of slot 5, and one in another; nothing else falls due on the cycle. -/
theorem witness_HaltsAndResumes_injection :
    let p : Nat → Nat → Nat → RovPend := fun fx slot k => ⟨fx, 0, slot, ⟨1000, k, 0, 0, 0⟩⟩
    let s : State := { event 1050 [] [] with roving := [p 0 0 1, p 0 5 2, p 3 7 1], agenda := [] }
    s.fetch = [] ∧ s.roving ≠ [] ∧ s.nextPick = none ∧ (p 0 5 2).goesBefore (p 0 0 1) ∧ (p 0 5 1).goesBefore (p 0 6 1) := by
  unfold RovPend.goesBefore
  decide +kernel
theorem witness_HaltsAndResumes_handed : (handing .trig []).handsOver 0 0 .trig ∧ (handing (.alert 0xA0) []).handsOver 0 0 (.alert 0xA0) := ⟨hands_over _ _, hands_over _ _⟩

/-! Ill-formed terms: each check refuses one. -/

theorem illformed_scalar :
    (Instr.add ⟨3, 1, 2, 0, 0, true⟩).loadCause = some 3 ∧ (Instr.add ⟨3, 1, 2, 1, 0, false⟩).loadCause = some 3 ∧ (Instr.add ⟨3, 1, 2, 0, 1, false⟩).loadCause = some 3
    ∧ (Instr.absS ⟨3, 1, 1, 0, 0, false⟩).loadCause = some 3 ∧ (Instr.absS ⟨3, 1, 0, 0, 0, true⟩).loadCause = some 3
    ∧ (Instr.fcvti ⟨3, 1, 0, 0, 5, false⟩).loadCause = some 2 ∧ (Instr.fcvti ⟨3, 1, 0, 0, 4, false⟩).loadCause = none ∧ (Instr.selp ⟨3, 1, 2, 1, 7, false⟩).loadCause = some 3
    ∧ (Instr.ffma ⟨3, 1, 2, 4, 1, false⟩).loadCause = some 3 ∧ (Instr.ptos ⟨3, 1, 0, 0, 0, false⟩).loadCause = some 3
    ∧ (Instr.shli ⟨3, 1, 32⟩).loadCause = some 3 ∧ (Instr.shli ⟨3, 1, 31⟩).loadCause = none ∧ (Instr.seth ⟨3, 65536⟩).loadCause = some 3 ∧ (Instr.movk ⟨3, 1⟩).loadCause = some 3
    ∧ (Instr.rdsp ⟨3, 0, 48⟩).loadCause = some 2 ∧ (Instr.rdsp ⟨3, 0, 64 + 6⟩).loadCause = some 2 ∧ (Instr.rdsp ⟨3, 0, 64⟩).loadCause = none ∧ (Instr.rdsp ⟨3, 1, 0⟩).loadCause = some 3 ∧ (Instr.wrsp ⟨1, 1, 9⟩).loadCause = some 3
    ∧ (Instr.rdcyc ⟨3, 0, 2⟩).loadCause = some 3 ∧ (Instr.rdwp ⟨3, 0, 4⟩).loadCause = some 3 ∧ (Instr.peq ⟨1, 1, 2, true⟩).loadCause = some 3 ∧ (Instr.lit ⟨1, 0⟩ 5).loadCause = some 3 := by decide +kernel

theorem illformed_control :
    (Instr.tree ⟨0, ⟨false, 3, 5⟩, ⟨true, 0, 0⟩, ⟨false, 0, 0⟩, ⟨false, 0, 0⟩⟩).loadCause = some 3 ∧ (Instr.tree ⟨2, ⟨false, 3, 5⟩, ⟨true, 0, 0⟩, ⟨false, 0, 0⟩, ⟨false, 0, 1⟩⟩).loadCause = some 3
    ∧ (Instr.loopCounted ⟨0, 0, 0, 2⟩ 4).loadCause = some 2 ∧ (Instr.loopCounted ⟨0, 0, 1, 0⟩ 4).loadCause = some 2 ∧ (Instr.bara 0).loadCause = some 2 ∧ (Instr.step 0).loadCause = some 2
    ∧ (Instr.barw ⟨1, 0, 0⟩).loadCause = some 2 ∧ (Instr.barw ⟨1, 5, 6⟩).loadCause = some 2 ∧ (Instr.barw ⟨0, 5, 5⟩).loadCause = some 2 ∧ (Instr.barw ⟨1, 5, 5⟩).loadCause = none := by decide +kernel

theorem illformed_vector :
    (Instr.vadd ⟨1, 2, 3, 1, 0, 0, 3, 0⟩).loadCause = some 3 ∧ (Instr.vadd ⟨1, 2, 3, 0, 0, 0, 4, 0⟩).loadCause = some 2 ∧ (Instr.vadd ⟨1, 2, 3, 0, 0, 0, 3, 1⟩).loadCause = some 2
    ∧ (Instr.mand ⟨8, 2, 3, 0, 0, 0, 0, 0⟩).loadCause = some 3 ∧ (Instr.mand ⟨1, 2, 3, 0, 0, 1, 0, 0⟩).loadCause = some 2 ∧ (Instr.mand ⟨1, 2, 3, 0, 1, 0, 0, 0⟩).loadCause = some 2
    ∧ (Instr.vrsum ⟨32, 2, 0, 0, 0, 0, 3, 0⟩).loadCause = some 3 ∧ (Instr.vqscale ⟨4, 0, 0, 0, 0, 0, 0, 0⟩).loadCause = some 3 ∧ (Instr.vshli ⟨1, 2, 0, 0, 0, 0, 1, 8⟩).loadCause = some 2 ∧ (Instr.vshli ⟨1, 2, 0, 0, 0, 0, 1, 7⟩).loadCause = none
    ∧ (Instr.vmulw ⟨1, 2, 3, 0, 0, 0, 1, 0⟩).loadCause = some 2 ∧ (Instr.vcvt ⟨2, 2, 0, 0, 0, 0, 3, 8 * 11⟩).loadCause = some 2 ∧ (Instr.vcvt ⟨2, 2, 0, 0, 0, 0, 3, 8 * 3 + 6⟩).loadCause = some 2
    ∧ (Instr.vwiden ⟨1, 2, 0, 0, 0, 0, 1, 0⟩).loadCause = some 2 ∧ (Instr.vwiden ⟨2, 2, 0, 0, 0, 0, 4, 1⟩).loadCause = some 2 ∧ (Instr.vnarrow ⟨2, 2, 0, 0, 0, 0, 1, 16⟩).loadCause = some 2
    ∧ (Instr.vext ⟨1, 0, 0, 0, 1, 0, 0, 2⟩).loadCause = some 2 ∧ (Instr.vext ⟨1, 0, 0, 0, 0, 0, 3, 2⟩).loadCause = some 2 ∧ (Instr.vsplat ⟨1, 2, 0, 0, 0, 0, 3, 1⟩).loadCause = some 3 ∧ (Instr.vshrink ⟨0, 0, 0, 0, 0, 0, 0, 17⟩).loadCause = some 2 := by decide +kernel

theorem illformed_matrix_memory :
    (Instr.msq ⟨1, 1, 0, 0, 0, false⟩).loadCause = some 2 ∧ (Instr.msqTa ⟨1, 1, 0, 0, 0, false⟩).loadCause = none ∧ (Instr.msqTab ⟨1, 1, 0, 0, 0, false⟩).loadCause = some 2 ∧ (Instr.msqIndexed ⟨3, 1, 1, 0, 0, 0, 0, false⟩).loadCause = some 2
    ∧ (Instr.send ⟨8, 0, 5, 0⟩).loadCause = some 2 ∧ (Instr.send ⟨8, 0, 4, 0⟩).loadCause = none ∧ (Instr.cpy ⟨0, 0, 0, 0, 0, 0, 8⟩).loadCause = some 3 ∧ (Instr.cpy ⟨0, 0, 0, 0, 0, 0, 128⟩).loadCause = some 2 ∧ (Instr.cpyg ⟨0, 0, 0, 0, 0, 0, 0⟩).loadCause = some 2
    ∧ (Instr.cpyw ⟨0, 0, 0, 0, 1, 0, 0⟩).loadCause = some 3 ∧ (Instr.pmode ⟨0, 3, true⟩).loadCause = some 2 ∧ (Instr.pmode ⟨0, 3, false⟩).loadCause = none := by decide +kernel

/-! Words written out field by field from the spec's encodings (R273 to R281) beside those of Obligations.DecodeWords. -/

theorem decode_scalar :
    decodeItem ⟨.sa, 0x1B * 2 ^ 25 + 9 * 2 ^ 20 + 4 * 2 ^ 15 + 5 * 2 ^ 10⟩ = .instr (.div ⟨9, 4, 5, 0, 0, false⟩) ∧ decodeItem ⟨.sb, 0x1B * 2 ^ 25 + 9 * 2 ^ 20 + 4 * 2 ^ 15 + 5 * 2 ^ 10⟩ = .bad 2
    ∧ decodeItem ⟨.sb, 0x33 * 2 ^ 25 + 9 * 2 ^ 20 + 4 * 2 ^ 15 + 5 * 2 ^ 10 + 6 * 2 ^ 5⟩ = .instr (.ffma ⟨9, 4, 5, 6, 0, false⟩) ∧ decodeItem ⟨.sb, 0x29 * 2 ^ 25 + 9 * 2 ^ 20 + 0xABCDE⟩ = .instr (.movi ⟨9, 0xABCDE⟩)
    ∧ decodeItem ⟨.sa, 0x40 * 2 ^ 25 + 5 * 2 ^ 20 + 4 * 2 ^ 15 + 6 * 2 ^ 10⟩ = .instr (.peq ⟨5, 4, 6, false⟩) ∧ decodeItem ⟨.sa, 0x49 * 2 ^ 25 + 5 * 2 ^ 20 + 6 * 2 ^ 15 + 7 * 2 ^ 10⟩ = .instr (.pand ⟨5, 6, 7⟩)
    ∧ decodeItem ⟨.sa, 0x65 * 2 ^ 25 + 5 * 2 ^ 20 + 6 * 2 ^ 15 + 0x7FFC⟩ = .instr (.stw ⟨5, 6, 0x7FFC⟩) ∧ decodeItem ⟨.sa, 0x51 * 2 ^ 25 + 6 * 2 ^ 15 + 9⟩ = .instr (.wrsp ⟨0, 6, 9⟩) := by decide +kernel

theorem decode_control :
    decodeItem ⟨.ct, 0x2 * 2 ^ 44 + 2 ^ 43 + 9 * 2 ^ 37⟩ = .instr (.jmpIndirect 9) ∧ decodeItem ⟨.ct, 0x3 * 2 ^ 44 + 9 * 2 ^ 36⟩ = .instr (.call 9)
    ∧ decodeItem ⟨.ct, 0x8 * 2 ^ 44 + 2 * 2 ^ 42 + 50 * 2 ^ 20 + 9⟩ = .instr (.barw ⟨2, 50, 9⟩) ∧ decodeItem ⟨.ct, 0xA * 2 ^ 44 + 0x1234 * 2 ^ 28⟩ = .instr (.trap 0x1234)
    ∧ decodeItem ⟨.ct, 0xF * 2 ^ 44 + 2 * 2 ^ 40⟩ = .instr .preemptpt ∧ decodeItem ⟨.ct, 0xF * 2 ^ 44 + 5 * 2 ^ 40⟩ = .bad 2
    ∧ decodeItem ⟨.ct, 0x5 * 2 ^ 44 + 3 * 2 ^ 42 + 2 ^ 41 + 6 * 2 ^ 38 + 3 * 2 ^ 20 + 7 * 2 ^ 12 + 5⟩ = .instr (.loopUntil ⟨3, 3, 7, 5⟩ 6) := by decide +kernel

theorem decode_engines :
    decodeItem ⟨.vx, 0x01 * 2 ^ 40 + 9 * 2 ^ 34 + 10 * 2 ^ 28 + 11 * 2 ^ 22 + 5 * 2 ^ 13 + 3 * 2 ^ 11 + 2 * 2 ^ 8⟩ = .instr (.vadd ⟨9, 10, 11, 0, 5, 3, 2, 0⟩)
    ∧ decodeItem ⟨.vx, 0x50 * 2 ^ 40 + 8 * 2 ^ 34 + 10 * 2 ^ 28 + 6 * 2 ^ 8 + 3 * 8 + 2⟩ = .instr (.vcvt ⟨8, 10, 0, 0, 0, 0, 6, 26⟩)
    ∧ decodeItem ⟨.mx, 0x01 * 2 ^ 27 + 3 * 2 ^ 24 + 4 * 2 ^ 21 + 9 * 2 ^ 16 + 255 * 2 ^ 8 + 7 * 2 + 1⟩ = .instr (.msq ⟨3, 4, 9, 255, 7, true⟩)
    ∧ decodeItem ⟨.mx, 0x07 * 2 ^ 27 + 3 * 2 ^ 22 + 4 * 2 ^ 17 + 5 * 2 ^ 14 + 6 * 2 ^ 11 + 2 ^ 10 + 7 * 2⟩ = .instr (.mdrainm ⟨3, 4, 5, 6, true, 7⟩)
    ∧ decodeItem ⟨.mx, 0x0A * 2 ^ 27 + 2 ^ 26 + 9 * 2 ^ 21 + 300 * 2 ^ 12⟩ = .instr (.mscl ⟨true, 9, 300⟩) ∧ decodeItem ⟨.mx, 0x0C * 2 ^ 27⟩ = .bad 2 := by decide +kernel

/-! Single steps: what an instruction leaves in the tile at a later cycle. Expected values are worked by hand from the rule named. -/

def sLeaves (i : Instr) (s : State) : Option (BitVec 32) := leaves i s fun t => t.s32 200 3
def pLeaves (i : Instr) (s : State) : Option Bool := leaves i s fun t => t.pr 200 3
/-- R292: wrap, saturation, shifts by the low five bits, signed and unsigned orders. -/
theorem test_arith : sLeaves (.add rr) (sa 0xFFFFFFFF 2) = some 1 ∧ sLeaves (.sub rr) (sa 0 1) = some 0xFFFFFFFF ∧ sLeaves (.adds rr) (sa 0x7FFFFFFF 1) = some 0x7FFFFFFF ∧ sLeaves (.subs rr) (sa 0x80000000 1) = some 0x80000000
    ∧ sLeaves (.shl rr) (sa 1 33) = some 2 ∧ sLeaves (.sra rr) (sa 0x80000000 31) = some 0xFFFFFFFF ∧ sLeaves (.rol rr) (sa 0x80000001 4) = some 0x18 ∧ sLeaves (.andn rr) (sa 0xF0 0x30) = some 0xC0
    ∧ sLeaves (.minS rr) (sa 0x80000000 1) = some 0x80000000 ∧ sLeaves (.minu rr) (sa 0x80000000 1) = some 1 ∧ sLeaves (.slt rr) (sa 0x80000000 1) = some 1 ∧ sLeaves (.sltu rr) (sa 0x80000000 1) = some 0 := by decide +kernel
/-- R292: absolute value of the least number, counts, bit reversal, products' high words. -/
theorem test_counts : sLeaves (.absS ⟨3, 1, 0, 0, 0, false⟩) (sa 0xFFFFFFFB 0) = some 5 ∧ sLeaves (.clz ⟨3, 1, 0, 0, 0, false⟩) (sa 0 0) = some 32 ∧ sLeaves (.popc ⟨3, 1, 0, 0, 0, false⟩) (sa 0xF00F0000 0) = some 8
    ∧ sLeaves (.brev ⟨3, 1, 0, 0, 0, false⟩) (sa 1 0) = some 0x80000000 ∧ sLeaves (.mul rr) (sa 0x10001 0x10001) = some 0x20001 ∧ sLeaves (.mulh rr) (sa 0xFFFFFFFF 2) = some 0xFFFFFFFF ∧ sLeaves (.mulhu rr) (sa 0xFFFFFFFF 2) = some 1 := by decide +kernel
/-- R292: division rounds toward zero, the remainder has the dividend's sign. -/
theorem test_division : sLeaves (.div rr) (sa 0xFFFFFFF9 2) = some 0xFFFFFFFD ∧ sLeaves (.rem rr) (sa 0xFFFFFFF9 2) = some 0xFFFFFFFF ∧ sLeaves (.divu rr) (sa 0xFFFFFFF9 2) = some 0x7FFFFFFC ∧ sLeaves (.remu rr) (sa 0xFFFFFFF9 2) = some 1 := by decide +kernel
/-- R274: immediates are extended as the table says. -/
theorem test_immediates : sLeaves (.addi (ri 0x7FFF)) (sa 5 0) = some 4 ∧ sLeaves (.ori (ri 0x7FFF)) (sa 0 0) = some 0x7FFF ∧ sLeaves (.sltiu (ri 0x7FFF)) (sa 5 0) = some 1 ∧ sLeaves (.movi ⟨3, 0xFFFFF⟩) (sa 0 0) = some 0xFFFFFFFF ∧ sLeaves (.shri (ri 31)) (sa 0x80000000 0) = some 1 := by decide +kernel
/-- R296, R207: 1.5 + 1.5, 1 × −0, an overflow's infinity, the conversions. -/
theorem test_float : sLeaves (.fadd rr) (sa 0x3FC00000 0x3FC00000) = some 0x40400000 ∧ sLeaves (.fmul rr) (sa 0x3F800000 0x80000000) = some 0x80000000 ∧ sLeaves (.fadd rr) (sa 0x7F7FFFFF 0x7F7FFFFF) = some 0x7F800000
    ∧ sLeaves (.fcvti ⟨3, 1, 0, 0, 0, false⟩) (sa 0x40200000 0) = some 2 ∧ sLeaves (.icvtf ⟨3, 1, 0, 0, 0, false⟩) (sa 0xFFFFFFFF 0) = some 0xBF800000 ∧ sLeaves (.fneg ⟨3, 1, 0, 0, 0, false⟩) (sa 0x3F800000 0) = some 0xBF800000 := by decide +kernel
/-- R300, R301: compares write predicates. -/
theorem test_predicates : pLeaves (.peq ⟨3, 1, 2, false⟩) (sa 7 7) = some true ∧ pLeaves (.plt ⟨3, 1, 2, false⟩) (sa 0xFFFFFFFF 0) = some true ∧ pLeaves (.pltu ⟨3, 1, 2, false⟩) (sa 0xFFFFFFFF 0) = some false ∧ pLeaves (.pflt ⟨3, 1, 2, false⟩) (sa 0x80000000 0) = some false
    ∧ pLeaves (.pset ⟨3, 0, 1⟩) (sa 0 0) = some true ∧ leaves (.peq ⟨0, 1, 2, false⟩) (sa 7 8) (fun t => t.pr 200 0) = some true := by decide +kernel
/-- R166: a write of S0 is discarded. -/
theorem test_s0 : leaves (.add ⟨0, 1, 2, 0, 0, false⟩) (sa 5 6) (fun t => t.s32 200 0) = some 0 := by decide +kernel
/-- R303: RDSP reads XLVL; WRSP cuts the value to the register's width. -/
theorem test_specials : sLeaves (.rdsp ⟨3, 0, 6⟩) (issuing 0 (withSp [(6, 77)] (running 0 0))) = some 77 ∧ leaves (.wrsp ⟨0, 1, 9⟩) (sa 0xFFFFFFFF 0) (fun t => t.spr 200 9) = some 1 := by decide +kernel
/-- What the accesses that are owed leave. -/
def mLeaves (i : Instr) (s : State) : Option (BitVec 32) := leaves i s fun t => (t.acts.foldl (fun u a => u.perform 0 0 ⟨.word, 0⟩ a) t).s32 200 3
/-- R305: the loads read what the pool holds, sign-extended or not. -/
theorem test_loads : (let s := issuing 0 { running 0x2000 0 with pool := Mem.put [] 0x2004 4 0x80FF0102 }
    mLeaves (.ldw ⟨3, 1, 4⟩) s = some 0x80FF0102 ∧ mLeaves (.ldh ⟨3, 1, 6⟩) s = some 0xFFFF80FF ∧ mLeaves (.ldhu ⟨3, 1, 6⟩) s = some 0x80FF ∧ mLeaves (.ldb ⟨3, 1, 6⟩) s = some 0xFFFFFFFF ∧ mLeaves (.ldbu ⟨3, 1, 7⟩) s = some 0x80) := by decide +kernel
/-- R314: the back-edge of an exhausted level that starts at 0 puts START − 1, all ones, into XVA. -/
theorem test_loopTrap_start0 : (({ running 0 0 with seq := { (running 0 0).seq with loopTrap := [(0, 1, 0)], pc := 0 } } : Tile).trapDue 100).map (fun i => (i.cause, i.xva)) = some (0x06, 2 ^ 64 - 1) := by decide +kernel
/-- R313, R314: a LOOP of count 0 in the last word of an exhausted level leaves START as the next word, where cause 0x06 is due; else it goes behind its own body. -/
theorem test_loop_exhausted : ∀ l ∈ [[], [(11, 2, 0)]],
    leaves (.loopCounted ⟨0, 0, 4, 2⟩ 0) { issuing 5 { running 0 0 with seq := { (running 0 0).seq with loopTrap := l, pc := 11 } } with cur := { (issuing 5 (running 0 0)).cur with pc := 20 } } (fun t => t.seq.pc) = some (if l = [] then 23 else 11) := by decide +kernel
/-- R182: RDWP in the word that starts a copy reads 0. -/
theorem test_wp_starts : sLeaves (.rdwp ⟨3, 0, 2⟩) { issuing 0 (withSp [(24, 9)] (running 0 0)) with cur := { (issuing 0 (running 0 0)).cur with starts := some 2 } } = some 0 := by decide +kernel
/-- R310: a direct target from the table, and one from a register's low 16 bits. -/
theorem test_jumps : leaves (.jmp 2) (issuing 2 (running 0 0)) (fun t => t.seq.xfer) = some (some 7) ∧ leaves (.jmpIndirect 1) (issuing 2 (running 0x10005 0)) (fun t => t.seq.xfer) = some (some 5) := by decide +kernel
/-- R336: VSPLAT writes a vector register. -/
theorem test_lanes : (let s := vxIn { running 0xFFFF 0 with pool := Mem.put [] (0x1F8000 + 128 * 8) 4 0x01FF7F80 }
    leaves (.vsplat { vd := 4, va := 1, vb := 0, vc := 0, mask := 0, beats := 0, ty := 2, md := 0 }) s (fun t => t.vp.isEmpty) = some false) := by decide +kernel
/-- R350, R360: MCLAIM takes a slot, MREL gives it back. -/
theorem test_slots : leaves (.mclaim 2) mxs (fun t => t.claimedAt 2 102) = some true ∧ leaves (.mrel 0) mxs (fun t => t.claimedAt 0 102) = some false := by decide +kernel

end Sys2Proof.Tests
end

/-! Slot instructions that raise no cause of their own: what each shape of effect writes (R291 to R304). -/

namespace Sys2Proof.Machine

/-- The instruction raises only the causes that every slot shares: an early read, the allotment, an occupied vector engine, the order of its class (R164, R165, R170, R231). -/
def NoOwnCause (i : Instr) : Prop := ∀ (t : Tile) (cur : Cur),
  t.causes cur i = t.earlyCause cur.c i ++ t.allotCause cur.c i ++ [] ++ (if cur.slot = 2 then t.vxBusy cur.c else []) ++ t.orderCause cur.c i

section
variable {s : State} {i : Instr} {o : RR} {d : BitVec 5} {lat : Nat} {v w : Word} {r : Word × Flags} {eff : Tile → Tile}

theorem acts_of_noOwnCause (own : NoOwnCause i) (hx : exec i s = slotOp i s eff) (h : s.mayAct i = true) : Acts s i eff :=
  acts_of hx (causes_nil h (own _ _))

/-- An effect that puts `w` in S[d] writes any `v` equal to it. -/
theorem writesScalar_putS (own : NoOwnCause i) (hx : exec i s = slotOp i s eff)
    (he : eff s.curTile = s.curTile.putS s.cur d lat w) (hv : w = v) (h : s.mayAct i = true) : WritesScalar s i d lat v :=
  writesScalar_of (acts_of_noOwnCause own hx h) (hv ▸ he)

theorem writesScalar_rr (f : Word → Word → Word) (own : NoOwnCause i) (hx : exec i s = slotOp i s fun t => t.rr s.cur o lat f)
    (hv : f (s.sReg o.a) (s.opnd o.kb o.b) = v) (h : s.mayAct i = true) : WritesScalar s i o.d lat v :=
  writesScalar_putS own hx rfl hv h

theorem writesScalar_r1 (f : Word → Word) (own : NoOwnCause i) (hx : exec i s = slotOp i s fun t => t.r1 s.cur o lat f)
    (hv : f (s.sReg o.a) = v) (h : s.mayAct i = true) : WritesScalar s i o.d lat v :=
  writesScalar_putS own hx rfl hv h

theorem writesScalar_ri {o : RI} (f : Word → Word) (own : NoOwnCause i) (hx : exec i s = slotOp i s fun t => t.ri s.cur o f)
    (hv : f (s.sReg o.a) = v) (h : s.mayAct i = true) : WritesScalar s i o.d 1 v :=
  writesScalar_putS own hx rfl hv h

theorem writesScalarFl_fp2 (f : Word → Word → Word × Flags) (own : NoOwnCause i) (hx : exec i s = slotOp i s fun t => t.fp2 s.cur o lat f)
    (hr : f (s.sReg o.a) (s.opnd o.kb o.b) = r) (h : s.mayAct i = true) : WritesScalarFl s i o.d lat r :=
  writesScalarFl_of (acts_of_noOwnCause own hx h) (hr ▸ rfl)

theorem writesScalarFl_fp1 (f : Word → Word × Flags) (own : NoOwnCause i) (hx : exec i s = slotOp i s fun t => t.fp1 s.cur o lat f)
    (hr : f (s.sReg o.a) = r) (h : s.mayAct i = true) : WritesScalarFl s i o.d lat r :=
  writesScalarFl_of (acts_of_noOwnCause own hx h) (hr ▸ rfl)

theorem writesPred_pc2 {o : PC} {b : Bool} (f : Word → Word → Bool) (own : NoOwnCause i) (hx : exec i s = slotOp i s fun t => t.pc2 s.cur o f)
    (hb : f (s.sReg o.a) (s.opnd o.kb o.b) = b) (h : s.mayAct i = true) : WritesPred s i o.pd b :=
  writesPred_of (acts_of_noOwnCause own hx h) (hb ▸ rfl)

theorem writesPredFl_pcf {o : PC} {r : Bool × Flags} (f : Word → Word → Bool × Flags) (own : NoOwnCause i)
    (hx : exec i s = slotOp i s fun t => t.pcf s.cur o f) (hr : f (s.sReg o.a) (s.opnd o.kb o.b) = r) (h : s.mayAct i = true) :
    WritesPredFl s i o.pd r :=
  writesPredFl_of (acts_of_noOwnCause own hx h) (hr ▸ rfl)

theorem writesPred_pl2 {o : PL} (f : Bool → Bool → Bool) (own : NoOwnCause i) (hx : exec i s = slotOp i s fun t => t.pl2 s.cur o f)
    (h : s.mayAct i = true) : WritesPred s i o.pd (f (s.pReg o.pa) (s.pReg o.pb)) :=
  writesPred_of (acts_of_noOwnCause own hx h) rfl

end

end Sys2Proof.Machine

/-! Integer and immediate instructions (R292, R294): the scalar unit's operations as the rules write them. -/

namespace Sys2Proof.Machine

/-! Shifts and rotation. -/

theorem shl_eq_ofNat (a : Word) (n : Nat) : a <<< n = BitVec.ofNat 32 (a.toNat * 2 ^ n) := by
  apply BitVec.eq_of_toNat_eq
  rw [BitVec.toNat_shiftLeft, Nat.shiftLeft_eq, BitVec.toNat_ofNat]

theorem shr_eq_ofNat (a : Word) (n : Nat) : a >>> n = BitVec.ofNat 32 (a.toNat / 2 ^ n) := by
  rw [← Nat.shiftRight_eq_div_pow, ← BitVec.toNat_ushiftRight, BitVec.ofNat_toNat, BitVec.setWidth_eq]

theorem sra_eq_ofInt (a : Word) (n : Nat) : a.sshiftRight n = BitVec.ofInt 32 (a.toInt / 2 ^ n) := by
  rw [BitVec.sshiftRight, Int.shiftRight_eq_div_pow]; norm_cast

theorem aluRol_eq (a b : Word) : aluRol a b = (a <<< (b.toNat % 32)) ||| (a >>> (32 - b.toNat % 32)) := by
  rw [aluRol, shCount, BitVec.rotateLeft_def, Nat.mod_mod]

/-! Order and saturation. -/

theorem aluMin_eq (a b : Word) : aluMin a b = if a.toInt < b.toInt then a else b := by
  simp [aluMin, BitVec.slt_eq_decide]
theorem aluMax_eq (a b : Word) : aluMax a b = if a.toInt < b.toInt then b else a := by
  simp [aluMax, BitVec.slt_eq_decide]
theorem aluMinu_eq (a b : Word) : aluMinu a b = if a.toNat < b.toNat then a else b := by
  simp [aluMinu, BitVec.ult_eq_decide]
theorem aluMaxu_eq (a b : Word) : aluMaxu a b = if a.toNat < b.toNat then b else a := by
  simp [aluMaxu, BitVec.ult_eq_decide]

theorem bool32_decide (p : Prop) [Decidable p] : bool32 (decide p) = if p then 1 else 0 := by
  simp [bool32]
theorem bool32_beq (a b : Word) : bool32 (a == b) = if a = b then 1 else 0 := by
  simp [bool32]

theorem sat32_eq (i : Int) : sat32 i = BitVec.ofInt 32 (max (-2147483648) (min 2147483647 i)) := by
  have h : clampInt (-2147483648) 2147483647 i = max (-2147483648) (min 2147483647 i) := by
    unfold clampInt; split_ifs <;> omega
  rw [sat32, h]

theorem aluAbs_eq (a : Word) : aluAbs a = BitVec.ofNat 32 a.toInt.natAbs := by
  unfold aluAbs
  apply BitVec.eq_of_toNat_eq
  have hm := BitVec.msb_eq_decide a
  have hi := BitVec.toInt_eq_msb_cond a
  have := a.isLt
  cases h : a.msb <;> simp [h] at hi hm ⊢ <;> omega

/-! Counts. -/

/-- The recursion of `popCount` counts the ones among the low `n` bits. -/
theorem popCount_eq_countP (n v : Nat) : popCount n v = ((List.range n).filter fun k => v.testBit k).length := by
  induction n generalizing v with
  | zero => rfl
  | succ n ih =>
    rw [popCount, ih, List.range_succ_eq_map, List.filter_cons, List.filter_map, Nat.testBit_zero]
    have hs : ((fun k => v.testBit k) ∘ Nat.succ) = fun k => (v / 2).testBit k := by
      funext k; simp [Nat.testBit_succ]
    rw [hs]
    rcases Nat.mod_two_eq_zero_or_one v with h | h <;> simp [h]; omega

theorem aluPopc_eq (a : Word) : aluPopc a = BitVec.ofNat 32 ((List.range 32).filter fun k => a.getLsbD k).length := by
  rw [aluPopc, popCount_eq_countP]; rfl

theorem aluClz_eq (a : Word) : aluClz a = BitVec.ofNat 32 (if a = 0 then 32 else 31 - Nat.log2 a.toNat) := by
  have hn : clzW 32 a.toNat = if a = 0 then 32 else 31 - Nat.log2 a.toNat := by
    rw [clzW, Nat.mod_eq_of_lt a.isLt, bitLen]
    have h0 : a.toNat = 0 ↔ a = 0 := by simp [BitVec.toNat_eq]
    simp only [h0]
    split_ifs <;> omega
  rw [aluClz, hn]

/-! Products. -/

theorem aluMul_eq (a b : Word) : aluMul a b = BitVec.ofInt 32 (a.toInt * b.toInt) := by
  rw [aluMul, BitVec.ofInt_mul, BitVec.ofInt_toInt, BitVec.ofInt_toInt]

theorem aluMulh_eq (a b : Word) : aluMulh a b = (BitVec.ofInt 64 (a.toInt * b.toInt)).extractLsb' 32 32 := by
  apply BitVec.eq_of_toNat_eq
  simp only [aluMulh, BitVec.toNat_ofInt, BitVec.extractLsb'_toNat, Nat.shiftRight_eq_div_pow]
  generalize a.toInt * b.toInt = p
  omega

theorem aluMulhu_eq (a b : Word) : aluMulhu a b = (BitVec.ofNat 64 (a.toNat * b.toNat)).extractLsb' 32 32 := by
  apply BitVec.eq_of_toNat_eq
  simp only [aluMulhu, BitVec.toNat_ofNat, BitVec.extractLsb'_toNat, Nat.shiftRight_eq_div_pow]
  generalize a.toNat * b.toNat = p
  omega

/-! Fields that the loader holds at zero (R273, R274). -/

theorem x_of_binCause {o : RR} (h : o.binCause = none) : o.x = 0 := by
  simp only [RR.binCause, firstCause] at h
  split_ifs at h
  simp_all

theorem fields_of_unCause {o : RR} (h : o.unCause = none) : o.b = 0 ∧ o.kb = false ∧ o.x = 0 := by
  simp only [RR.unCause, firstCause] at h
  split_ifs at h
  simp_all

/-- Settles O1: each form's effect is one write of S[d], and its function is the one that R292 gives. -/
theorem integerResults : Obligations.IntegerResults := by
  intro s o a b sh clamp forms
  refine ⟨?_, ?_, ?_⟩
  · simp only [forms, List.forall_mem_cons]
    exact ⟨writesScalar_rr (· + ·) (fun _ _ => rfl) rfl rfl,
      writesScalar_rr (· - ·) (fun _ _ => rfl) rfl rfl,
      writesScalar_rr (· &&& ·) (fun _ _ => rfl) rfl rfl,
      writesScalar_rr (· ||| ·) (fun _ _ => rfl) rfl rfl,
      writesScalar_rr (· ^^^ ·) (fun _ _ => rfl) rfl rfl,
      writesScalar_rr (fun a b => a &&& ~~~b) (fun _ _ => rfl) rfl rfl,
      writesScalar_rr (fun a b => a <<< shCount b) (fun _ _ => rfl) rfl (shl_eq_ofNat _ _),
      writesScalar_rr (fun a b => a >>> shCount b) (fun _ _ => rfl) rfl (shr_eq_ofNat _ _),
      writesScalar_rr (fun a b => a.sshiftRight (shCount b)) (fun _ _ => rfl) rfl (sra_eq_ofInt _ _),
      writesScalar_rr aluRol (fun _ _ => rfl) rfl (aluRol_eq _ _),
      writesScalar_rr aluMin (fun _ _ => rfl) rfl (aluMin_eq _ _),
      writesScalar_rr aluMax (fun _ _ => rfl) rfl (aluMax_eq _ _),
      writesScalar_rr aluMinu (fun _ _ => rfl) rfl (aluMinu_eq _ _),
      writesScalar_rr aluMaxu (fun _ _ => rfl) rfl (aluMaxu_eq _ _),
      writesScalar_rr (fun a b => bool32 (a.slt b)) (fun _ _ => rfl) rfl (bool32_decide _),
      writesScalar_rr (fun a b => bool32 (a.ult b)) (fun _ _ => rfl) rfl (bool32_decide _),
      writesScalar_rr (fun a b => bool32 (a == b)) (fun _ _ => rfl) rfl (bool32_beq _ _),
      writesScalar_rr (fun a b => sat32 (a.toInt + b.toInt)) (fun _ _ => rfl) rfl (sat32_eq _),
      writesScalar_rr (fun a b => sat32 (a.toInt - b.toInt)) (fun _ _ => rfl) rfl (sat32_eq _),
      writesScalar_r1 aluAbs (fun _ _ => rfl) rfl (aluAbs_eq _),
      writesScalar_r1 aluClz (fun _ _ => rfl) rfl (aluClz_eq _),
      writesScalar_r1 aluPopc (fun _ _ => rfl) rfl (aluPopc_eq _),
      writesScalar_r1 aluBrev (fun _ _ => rfl) rfl rfl,
      writesScalar_rr aluMul (fun _ _ => rfl) rfl (aluMul_eq _ _),
      writesScalar_rr aluMulh (fun _ _ => rfl) rfl (aluMulh_eq _ _),
      writesScalar_rr aluMulhu (fun _ _ => rfl) rfl (aluMulhu_eq _ _),
      writesScalar_putS (eff := fun t => t.rr s.cur o 1 fun a b => if t.pr s.cur.c o.x.toNat then a else b) (fun _ _ => rfl) rfl rfl rfl,
      List.forall_mem_nil _⟩
  · have un : o.unCause = none → o.b = 0 ∧ o.kb = false := fun h => by
      obtain ⟨hb, hkb, -⟩ := fields_of_unCause h
      exact ⟨hb, hkb⟩
    simp only [List.forall_mem_cons]
    exact ⟨un, un, un, un, List.forall_mem_nil _⟩
  · have bin {P : Prop} (_ : P) (h : o.binCause = none) := x_of_binCause h
    have un {P : Prop} (_ : P) (h : o.unCause = none) := (fields_of_unCause h).2.2
    simp only [forms, List.forall_mem_cons]
    exact ⟨bin, bin, bin, bin, bin, bin, bin, bin, bin, bin, bin, bin, bin, bin, bin, bin, bin, bin, bin, un, un, un, un, bin, bin, bin,
      fun h _ => (h rfl).elim, List.forall_mem_nil _⟩

/-! Immediates. -/

theorem toInt_signExtend_imm (n : BitVec 15) : (n.signExtend 32).toInt = n.toInt :=
  BitVec.toInt_signExtend_of_le (by decide)

/-- Settles O3: each form's effect is one write of S[d] at c + 1, of the value that R294 gives. -/
theorem immediateResults : Obligations.ImmediateResults := by
  intro s o l a n forms
  have slti : bool32 (a.slt (o.imm.signExtend 32)) = if a.toInt < o.imm.toInt then 1 else 0 := by
    rw [BitVec.slt_eq_decide, toInt_signExtend_imm, bool32_decide]
  have seth : (l.imm.setWidth 16 ++ (s.sReg l.d).setWidth 16 : BitVec 32)
      = BitVec.ofNat 32 (l.imm.toNat % 65536 * 65536 + (s.sReg l.d).toNat % 65536) := by
    apply BitVec.eq_of_toNat_eq
    rw [BitVec.toNat_append, ← Nat.shiftLeft_add_eq_or_of_lt (BitVec.isLt _), Nat.shiftLeft_eq, BitVec.toNat_setWidth, BitVec.toNat_setWidth, BitVec.toNat_ofNat]
    omega
  simp only [forms, List.forall_mem_cons]
  exact ⟨writesScalar_ri (· + o.imm.signExtend 32) (fun _ _ => rfl) rfl rfl,
    writesScalar_ri (· &&& o.imm.setWidth 32) (fun _ _ => rfl) rfl rfl,
    writesScalar_ri (· ||| o.imm.setWidth 32) (fun _ _ => rfl) rfl rfl,
    writesScalar_ri (· ^^^ o.imm.setWidth 32) (fun _ _ => rfl) rfl rfl,
    writesScalar_ri (· <<< (o.imm.toNat % 32)) (fun _ _ => rfl) rfl (shl_eq_ofNat _ _),
    writesScalar_ri (· >>> (o.imm.toNat % 32)) (fun _ _ => rfl) rfl (shr_eq_ofNat _ _),
    writesScalar_ri (·.sshiftRight (o.imm.toNat % 32)) (fun _ _ => rfl) rfl (sra_eq_ofInt _ _),
    writesScalar_ri (fun a => bool32 (a.slt (o.imm.signExtend 32))) (fun _ _ => rfl) rfl slti,
    writesScalar_ri (fun a => bool32 (a.ult (o.imm.signExtend 32))) (fun _ _ => rfl) rfl (bool32_decide _),
    writesScalar_putS (eff := fun t => t.putS s.cur l.d 1 (l.imm.signExtend 32)) (fun _ _ => rfl) rfl rfl rfl,
    writesScalar_putS (eff := fun t => t.putS s.cur l.d 1 ((l.imm.setWidth 16 ++ (t.s32 s.cur.c l.d.toNat).setWidth 16 : BitVec 32)))
      (fun _ _ => rfl) rfl rfl seth,
    writesScalar_putS (eff := fun t => t.putS s.cur l.d 1 (t.kreg s.cur.c)) (fun _ _ => rfl) rfl rfl rfl,
    List.forall_mem_nil _⟩

end Sys2Proof.Machine

/-! Transfers (R309, R310). -/

namespace Sys2Proof.Machine

/-- What the transfers of CT share: with no delay slot pending they raise no cause of their own. -/
theorem acts_transfer {s : State} {i : Instr} {eff : Tile → Tile}
    (own : s.curTile.causes s.cur i = s.curTile.earlyCause s.cur.c i ++ s.curTile.allotCause s.cur.c i ++ dlyCause s.cur
      ++ (if s.cur.slot = 2 then s.curTile.vxBusy s.cur.c else []) ++ s.curTile.orderCause s.cur.c i)
    (hx : exec i s = slotOp i s eff) (hd : s.cur.dly = none) (h : s.mayAct i = true) : Acts s i eff :=
  acts_of hx (causes_nil h (own.trans (by rw [dlyCause, hd]; rfl)))

/-- CALL's return address: past the delay slot, which a LIT makes three halfwords long (R310). -/
def Tile.returnAddr (t : Tile) (pc : Nat) : Word := BitVec.ofNat 32 (pc + if t.half (pc + 1) / 2 ^ 4 % 2 ^ 9 = 511 then 4 else 2)

theorem Tile.link_eq (t : Tile) (cur : Cur) : t.link cur = t.pushRW cur.c cur.slot (rwS 31 1 (t.returnAddr cur.pc)) := by
  simp only [Tile.link, Tile.returnAddr, bitsAt, beq_iff_eq]
  rfl

/-- A CALL leaves its target pending and the return address in S31 at c + 1, and the other parts of its tile as they were (R310). -/
theorem calls_of_acts {s : State} {i : Instr} {tgt : Nat} (ha : Acts s i fun t => (t.takeTransfer tgt).link s.cur) :
    Gives (exec i s) fun u => OnlyTile s u ∧ ScalarWritten s.curTile u.curTile 31 (s.cur.c + 1) (s.curTile.returnAddr s.cur.pc)
      ∧ { u.curTile with s := s.curTile.s } = s.curTile.takeTransfer tgt := by
  obtain ⟨u, hn, ho, ht⟩ := ha
  have hl := ht.trans (Tile.link_eq _ _)
  refine ⟨u, hn, ho, ?_, ?_⟩ <;> rw [hl]
  · exact scalarWritten_pushRW (s.curTile.takeTransfer tgt) s.cur.c s.cur.slot 31 1 _
  · exact pushRW_scalar_frame (s.curTile.takeTransfer tgt) s.cur.c s.cur.slot 31 1 _

/-- Whether a test of TREE holds at issue (R309). -/
def Tile.testHolds (t : Tile) (c : Nat) (x : TreeTest) : Bool := t.pr c x.pred.toNat != x.neg
/-- The tests that TREE evaluates, in order. -/
def treeTests (o : TreeOp) : List TreeTest := [o.t0, o.t1, o.t2, o.t3].take (o.last.toNat + 1)

theorem find?_treeTests (t : Tile) (c : Nat) (o : TreeOp) :
    (treeTests o).find? (t.testHolds c) = ((treeTests o).zipIdx.find? fun e => t.testHolds c e.1).map Prod.fst := by
  conv_lhs => rw [← List.zipIdx_map_fst 0 (treeTests o), List.find?_map]
  rfl

theorem treeSel_of_none {t : Tile} {c : Nat} {o : TreeOp} (h : (treeTests o).find? (t.testHolds c) = none) : t.treeSel c o = 5 := by
  rw [find?_treeTests, Option.map_eq_none_iff] at h
  show (match (treeTests o).zipIdx.find? fun e => t.testHolds c e.1 with | some e => e.2 + 1 | none => 5) = 5
  rw [h]

/-- TREE selects the number of its first test that holds. -/
theorem treeSel_of_some {t : Tile} {c : Nat} {o : TreeOp} {x : TreeTest} (h : (treeTests o).find? (t.testHolds c) = some x) :
    ∃ k, [o.t0, o.t1, o.t2, o.t3][k]? = some x ∧ t.treeSel c o = k + 1 := by
  rw [find?_treeTests, Option.map_eq_some_iff] at h
  obtain ⟨⟨y, k⟩, hf, rfl⟩ := h
  refine ⟨k, ?_, ?_⟩
  · have hk := List.mem_zipIdx_iff_getElem?.mp (List.mem_of_find?_eq_some hf)
    rw [treeTests, List.getElem?_take] at hk
    split_ifs at hk
    exact hk
  · show (match (treeTests o).zipIdx.find? fun e => t.testHolds c e.1 with | some e => e.2 + 1 | none => 5) = k + 1
    rw [hf]

/-- TREE transfers to the target of its first test that holds. -/
theorem tree_transfers {s : State} {o : TreeOp} {x : TreeTest} (hd : s.cur.dly = none) (h : s.mayAct (.tree o) = true)
    (hx : (treeTests o).find? (s.curTile.testHolds s.cur.c) = some x) :
    Acts s (.tree o) fun t => t.takeTransfer (t.target x.target.toNat) := by
  obtain ⟨u, hn, ho, ht⟩ := acts_transfer rfl (i := .tree o) (s := s) (show execTree o s = slotOp (.tree o) s _ from rfl) hd h
  refine ⟨u, hn, ho, ht.trans ?_⟩
  obtain ⟨k, hk, hsel⟩ := treeSel_of_some hx
  simp only [hsel]
  match k, hk with
  | 0, hk | 1, hk | 2, hk | 3, hk => cases hk; rfl

/-- A TREE none of whose tests holds leaves its tile as it is. -/
theorem tree_falls_through {s : State} {o : TreeOp} (hd : s.cur.dly = none) (h : s.mayAct (.tree o) = true)
    (hx : (treeTests o).find? (s.curTile.testHolds s.cur.c) = none) : Acts s (.tree o) id := by
  obtain ⟨u, hn, ho, ht⟩ := acts_transfer rfl (i := .tree o) (s := s) (show execTree o s = slotOp (.tree o) s _ from rfl) hd h
  refine ⟨u, hn, ho, ht.trans ?_⟩
  simp only [treeSel_of_none hx]
  rfl

/-- Settles O15: each form's effect is the pending target, of the table or of a register, and CALL's link beside it. -/
theorem transfers : Obligations.Transfers := by
  intro s o n r t c table holds lit ret goes calls hd
  have gives {i : Instr} {tgt : Nat} (ha : Acts s i fun t => t.takeTransfer tgt) : goes i tgt := ha
  refine ⟨fun h => gives (acts_transfer rfl rfl hd h), fun h => gives (acts_transfer rfl rfl hd h),
    fun h => calls_of_acts (acts_transfer rfl rfl hd h), fun h => calls_of_acts (acts_transfer rfl rfl hd h),
    fun h => gives (acts_transfer rfl rfl hd h), fun h => ?_⟩
  cases hx : ([o.t0, o.t1, o.t2, o.t3].take (o.last.toNat + 1)).find? holds with
  | some x => exact tree_transfers hd h hx
  | none => exact tree_falls_through hd h hx

end Sys2Proof.Machine

/-! Special registers (R302 to R304). -/

namespace Sys2Proof.Machine

/-! A read that is made at the end of its cycle: what filling a write in flight does to later reads. -/

/-- A register file with the writes in flight of one register and one slot's word filled with a value. -/
def RegFile.fill {w : Nat} (f : RegFile w) (iss slot idx : Nat) (v : BitVec w) : RegFile w :=
  { f with pend := fillPend f.pend iss slot idx (BitVec.allOnes w) v }

/-- Filling the writes of one register leaves the reads of every other as they are. -/
theorem RegFile.read_fill_ne {w : Nat} (f : RegFile w) (iss slot : Nat) {idx i : Nat} (v : BitVec w) (c : Nat) (h : i ≠ idx) :
    (f.fill iss slot idx v).read i c = f.read i c := by
  simp only [RegFile.read, RegFile.fill, fillPend, List.foldl_map]
  congr 1
  funext x e
  split_ifs with he
  · obtain ⟨-, -, rfl⟩ := he
    have skip : ∀ y, ({ e with val := y } : PendWrite w).apply i c x = x :=
      fun y => PendWrite.apply_of_ne (e := { e with val := y }) (.inl h.symm) x
    exact (skip _).trans (skip e.val).symm
  · rfl

/-- The latest write of a register, of all its bits, reads as what it is filled with once it is available. -/
theorem RegFile.read_fill_push {w : Nat} (f : RegFile w) (iss slot idx av : Nat) (m x v : BitVec w) {c : Nat} (hm : m = BitVec.allOnes w)
    (h : av ≤ c) : ((f.push ⟨idx, iss, slot, av, m, x⟩).fill iss slot idx v).read idx c = v := by
  simp only [RegFile.read, RegFile.fill, RegFile.push, fillPend, List.map_append, List.map_cons, List.map_nil, foldl_append_one, and_self, if_true]
  rw [PendWrite.apply_full _ _ _ _ _ _ _ _ _ hm, if_pos ⟨rfl, h⟩]
  simp

/-- A scalar result that is filled when it is found reads as that value from its availability cycle on, and no other register changes. -/
theorem s32_of_filled {t u : Tile} {iss slot d off : Nat} {x v : Word} {k i : Nat}
    (hu : u.s = (t.pushRW iss slot (rwS d off x)).s.fill iss slot d v) (h : iss + off ≤ k ∨ i ≠ d) :
    u.s32 k i = if i = d ∧ i ≠ 0 then v else t.s32 k i := by
  unfold Tile.s32
  by_cases hi : i = 0
  · simp [hi]
  · rw [if_neg hi, if_neg hi, hu]
    by_cases hd : i = d
    · subst hd
      have hp : t.pushRW iss slot (rwS i off x)
          = { t with s := t.s.push ⟨i, iss, slot, iss + off, BitVec.ofNat 32 0xFFFFFFFF, BitVec.ofNat 32 x.toNat⟩ } := by
        unfold Tile.pushRW; exact if_neg hi
      rw [hp, if_pos ⟨rfl, hi⟩]
      exact RegFile.read_fill_push _ _ _ _ _ _ _ _ (by decide) (h.resolve_right (· rfl))
    · rw [RegFile.read_fill_ne _ _ _ _ _ hd, if_neg fun e => hd e.1]
      have hw := scalarWritten_pushRW t iss slot d off x k i
      simpa only [Tile.s32, if_neg hi, if_neg fun e : i = d ∧ _ => hd e.1] using hw

/-! FPST: a write of it restarts its flags (R167). -/

/-- From its availability on, a write of FPST reads with the flags set since then. -/
theorem fpstAt_pushRW (t : Tile) (iss slot off : Nat) (v : BitVec 64) {k : Nat} (h : iss + off ≤ k) :
    (t.pushRW iss slot ⟨.sp, spFPST, off, 0x1F, v.toNat⟩).fpstAt k = (v &&& 0x1F) ||| (flagsBetween t.fp (iss + off) k).setWidth 64 := by
  have bits : ∀ a : BitVec 64, ((a &&& ~~~0x1F#64) ||| (v &&& 0x1F#64)) &&& 0x1F#64 = v &&& 0x1F#64 := fun a => by
    rw [BitVec.and_or_distrib_right, BitVec.and_assoc, BitVec.and_assoc, BitVec.and_self, show ~~~0x1F#64 &&& 0x1F#64 = 0#64 by decide,
      BitVec.and_zero, BitVec.zero_or]
  simp only [Tile.pushRW, Tile.fpstAt, RegFile.push, foldl_append_one, BitVec.ofNat_toNat, BitVec.setWidth_eq, true_and, if_pos h]
  exact congrArg (· ||| _) (bits _)

/-! RDSP, RDCYC, RDWP. -/

/-- RDCYC of the low half: the counter's low half, and its high half latched (R304). -/
theorem gives_rdcyc_low {s : State} {i : Instr} {d : BitVec 5} (ha : Acts s i fun t => t.rdcyc s.cur d false) :
    Gives (exec i s) fun u => OnlyTile s u
      ∧ ScalarWritten s.curTile u.curTile d.toNat (s.cur.c + 1) ((BitVec.ofNat 64 (s.curTile.gcy s.cur.c)).setWidth 32)
      ∧ u.curTile.cycLatch = some ((BitVec.ofNat 64 (s.curTile.gcy s.cur.c)).extractLsb' 32 32)
      ∧ OnlyScalars s.curTile { u.curTile with cycLatch := s.curTile.cycLatch } := by
  obtain ⟨u, hn, ho, ht⟩ := ha
  let t' : Tile := { s.curTile with cycLatch := some ((BitVec.ofNat 64 (s.curTile.gcy s.cur.c)).extractLsb' 32 32) }
  have frame := pushRW_scalar_frame t' s.cur.c s.cur.slot d.toNat 1 ((BitVec.ofNat 64 (s.curTile.gcy s.cur.c)).setWidth 32)
  refine ⟨u, hn, ho, ?_, ?_, ?_⟩ <;> rw [ht]
  · exact scalarWritten_pushRW t' s.cur.c s.cur.slot d.toNat 1 _
  · exact congrArg Tile.cycLatch frame
  · exact congrArg (fun x : Tile => { x with cycLatch := s.curTile.cycLatch }) frame

/-! What RDSP reads of each register (R302). -/

section
variable (t : Tile) (cur : Cur) (d : BitVec 5) (hi : Bool)

theorem rdspEff_wp {ch : Nat} (h : ch < 4) :
    t.rdspEff cur d (22 + ch) hi = t.putS cur d 1 (if hi then 0 else BitVec.ofNat 32 (t.wpNow cur ch)) := by
  unfold Tile.rdspEff
  rw [if_neg (by simp only [spGCY]; omega), if_pos (by simp only [spWP]; omega), show 22 + ch - spWP 0 = ch by simp only [spWP]; omega]

theorem rdspEff_unnamed {n : Nat} (h : 27 ≤ n ∧ n ≤ 31) : t.rdspEff cur d n hi = t.putS cur d 1 0 := by
  unfold Tile.rdspEff
  rw [if_neg (by simp only [spGCY]; omega), if_neg (by simp only [spWP]; omega), if_neg (by simp only [spFPST]; omega),
    if_neg (by simp only [spPART]; omega), if_pos h]

theorem rdspEff_plain {n : Nat} (h1 : n ≠ 1) (hw : ¬ (22 ≤ n ∧ n ≤ 25)) (h8 : n ≠ 8) (h5 : n ≠ 5) (hu : ¬ (27 ≤ n ∧ n ≤ 31)) :
    t.rdspEff cur d n hi = t.putS cur d 1 (half32 (t.spr cur.c n) hi) := by
  unfold Tile.rdspEff
  rw [if_neg (show ¬ n = spGCY from h1), if_neg (show ¬ (spWP 0 ≤ n ∧ n ≤ spWP 3) from hw), if_neg (show ¬ n = spFPST from h8),
    if_neg (show ¬ n = spPART from h5), if_neg hu]

end

/-- RDSP of FPST's low half leaves one action, at the end of its cycle, that gives S[d] the flags that it then finds (R167, R302). -/
theorem gives_rdsp_fpst {s : State} {i : Instr} {d : BitVec 5} (ha : Acts s i fun t => t.rdspEff s.cur d spFPST false) :
    Gives (exec i s) fun u => OnlyTile s u ∧ ∃ a : Act, u.curTile.acts = s.curTile.acts ++ [a] ∧ a.at_ = s.cur.c ∧
      ∀ (x y : Nat) (ev : FetchItem) (w : Tile), w.s = u.curTile.s → ∀ k j, s.cur.c + 1 ≤ k ∨ j ≠ d.toNat →
        (w.perform x y ev a).s32 k j = if j = d.toNat ∧ j ≠ 0 then (w.fpstAt s.cur.c).setWidth 32 else s.curTile.s32 k j := by
  obtain ⟨u, he, ho, ht⟩ := ha
  have frame : { s.curTile.putS s.cur d 1 0 with s := s.curTile.s } = s.curTile := pushRW_scalar_frame s.curTile s.cur.c s.cur.slot d.toNat 1 0
  refine ⟨u, he, ho, ⟨s.cur.c, phEnd, s.cur.c, s.cur.slot, s.curTile.chk s.cur.c, .rdFpst d.toNat⟩, ?_, rfl, ?_⟩
  · have acts := congrArg Tile.acts frame
    rw [ht]
    exact congrArg (· ++ _) acts
  · intro x y ev w hw k j hk
    exact s32_of_filled (x := 0) (congrArg (·.fill s.cur.c s.cur.slot d.toNat ((w.fpstAt s.cur.c).setWidth 32)) (hw.trans (congrArg Tile.s ht))) hk

/-- WPch as a word reads it at its issue (R182). -/
theorem ofNat_wpNow (t : Tile) (cur : Cur) (ch : Nat) : BitVec.ofNat 32 (t.wpNow cur ch) = if cur.starts = some ch then 0 else
    match t.copies.getD ch none with
    | some j => BitVec.ofNat 32 (min (cur.c - (j.c + 4 + j.sg)) j.n)
    | none => BitVec.ofNat 32 (t.spr cur.c (22 + ch)).toNat := by
  unfold Tile.wpNow Tile.wp
  split_ifs
  · rfl
  · cases t.copies.getD ch none <;> rfl

/-! WRSP. -/

/-- WRSP keeps of each half the bits that its register has (R303). -/
theorem wrspMask_eq {n : Nat} (hn : n < 48) (hw : spWritable n = true) (hi : Bool) :
    wrspMask n hi = if hi then (if n = 12 then 0x0000FFFF00000000 else if n = 16 ∨ n = 20 then 0xFFFFFFFF00000000 else 0)
      else if n = 8 then 0x1F else if n = 9 then 1 else if n = 11 then 0xFFFFFFF0 else if n = 17 ∨ n = 21 then 0xFFFFFFE0
      else if 32 ≤ n ∧ n ≤ 35 then 0x800FFFFF else if 36 ≤ n ∧ n ≤ 39 then 0xFFFF else 0xFFFFFFFF := by
  decide +revert

theorem spWritable_iff {n : Nat} (hn : n < 48) :
    spWritable n = true ↔ ¬ (n ≤ 5 ∨ n = 10 ∨ n = 13 ∨ (22 ≤ n ∧ n ≤ 25) ∨ (27 ≤ n ∧ n ≤ 31)) := by
  decide +revert

theorem wrspEff_of_writable (t : Tile) (cur : Cur) {n : Nat} (hi : Bool) (a : Word) (hw : spWritable n = true) :
    t.wrspEff cur n hi a = t.pushRW cur.c cur.slot
      ⟨.sp, n, 1, (wrspMask n hi).toNat, (if hi then a.setWidth 64 <<< 32 else a.setWidth 64 : BitVec 64).toNat⟩ := by
  simp only [Tile.wrspEff, hw, if_true]

/-- A register marked R is left as it is (R303). -/
theorem wrspEff_of_readOnly (t : Tile) (cur : Cur) {n : Nat} (hi : Bool) (a : Word) (hw : ¬ spWritable n = true) : t.wrspEff cur n hi a = t := by
  simp only [Tile.wrspEff, hw, if_false, Bool.false_eq_true]

/-- Settles O9: RDSP by the register that it names, RDCYC and RDWP by the same reads, WRSP by whether its register is writable. -/
theorem specialRegisters : Obligations.SpecialRegisters := by
  refine ⟨?_, ?_⟩
  · intro s o t c n hi half g cyc wp
    have cyc_of : ∀ {i : Instr} {h : Bool}, Acts s i (fun t => t.rdcyc s.cur o.d h) → cyc i h := fun {i h} ha => by
      cases h with
      | true => exact writesScalar_of ha rfl
      | false => exact gives_rdcyc_low ha
    have own : NoOwnCause (.rdsp o) := fun _ _ => rfl
    have hx : exec (.rdsp o) s = slotOp (.rdsp o) s fun t => t.rdspEff s.cur o.d n hi := rfl
    refine ⟨fun h => ⟨fun hn => ?gcy, fun ch hch hn => ?wp, fun hn hh => ?fpstHigh, fun hn hh => ?fpst, fun hn => ?part, fun h27 h31 => ?unnamed,
      fun h1 hw h8 h5 hu => ?plain⟩, fun h => ?rdcyc, fun h => ?rdwp⟩
    case gcy =>
      rw [hn] at hx
      exact cyc_of (acts_of_noOwnCause own hx h)
    case wp =>
      rw [hn] at hx
      exact writesScalar_putS own hx (rdspEff_wp _ _ _ _ hch) (congrArg (fun v => if hi then 0 else v) (ofNat_wpNow t s.cur ch)) h
    case fpstHigh =>
      rw [hn, hh] at hx
      exact writesScalar_putS own hx rfl rfl h
    case fpst =>
      rw [hn, hh] at hx
      exact gives_rdsp_fpst (acts_of_noOwnCause own hx h)
    case part =>
      rw [hn] at hx
      exact writesScalar_putS own hx rfl rfl h
    case unnamed => exact writesScalar_putS own hx (rdspEff_unnamed _ _ _ _ ⟨h27, h31⟩) rfl h
    case plain => exact writesScalar_putS own hx (rdspEff_plain _ _ _ _ h1 hw h8 h5 hu) rfl h
    case rdcyc => exact cyc_of (acts_of_noOwnCause (fun _ _ => rfl) rfl h)
    case rdwp =>
      exact writesScalar_putS (eff := fun t => t.putS s.cur o.d 1 (BitVec.ofNat 32 (t.wpNow s.cur (o.imm.toNat % 4))))
        (fun _ _ => rfl) rfl rfl (ofNat_wpNow _ _ _) h
  · intro s o t n hi a low high readOnly h hn
    have hx : exec (.wrsp o) s = slotOp (.wrsp o) s fun t => t.wrspEff s.cur n hi (t.s32 s.cur.c o.a.toNat) := rfl
    obtain ⟨u, he, ho, ht⟩ := acts_of_noOwnCause (fun _ _ => rfl) hx h
    by_cases hw : spWritable n = true
    · have hp := ht.trans (wrspEff_of_writable t s.cur hi a hw)
      refine ⟨u, he, ho, hp ▸ pushRW_sp_frame .., fun hr => absurd hr ((spWritable_iff hn).mp hw), fun _ => ?_, fun h8 hh k hk => ?_⟩
      · rw [hp, show (if hi then high n else low n) = wrspMask n hi from (wrspMask_eq hn hw hi).symm]
        exact specialWritten_pushRW t s.cur.c s.cur.slot n 1 _ _
      · rw [hp, h8, hh]
        exact fpstAt_pushRW t _ _ 1 _ hk
    · have hp := ht.trans (wrspEff_of_readOnly t s.cur hi a hw)
      have hr : readOnly := not_not.mp (mt (spWritable_iff hn).mpr hw)
      exact ⟨u, he, ho, hp ▸ rfl, fun _ => hp, fun h => absurd hr h, fun h8 => absurd (h8 ▸ rfl) hw⟩

end Sys2Proof.Machine

/-! FP32 patterns: what they denote, and their order (R188, R189). -/

namespace Sys2Proof.Machine

/-! What a pattern denotes. -/

theorem msb_eq_div (a : Word) : (a.toNat / 2 ^ 31 % 2 == 1) = a.msb := by
  have := a.isLt
  rw [BitVec.msb_eq_decide, Bool.eq_iff_iff]
  simp only [beq_iff_eq, decide_eq_true_eq]
  omega

theorem getLsbD_22_eq (a : Word) : a.getLsbD 22 = decide (a.toNat / 2 ^ 22 % 2 = 1) := by
  rw [BitVec.getLsbD, Nat.testBit_eq_decide_div_mod_eq]

/-- The finite number of a magnitude's pattern, with a sign. -/
def fp32Num (neg : Bool) (k : Nat) : ExactNum := { fmtFP32.magnitude k with neg := neg }

theorem fp32Num_of_lt (neg : Bool) {k : Nat} (h : k < 2 ^ 23) : fp32Num neg k = ⟨neg, k, -149⟩ := by
  unfold fp32Num Fmt.magnitude
  rw [if_pos (show k < 2 ^ fmtFP32.fb from h)]; rfl
theorem fp32Num_of_le (neg : Bool) {k : Nat} (h : 2 ^ 23 ≤ k) : fp32Num neg k = ⟨neg, 2 ^ 23 + k % 2 ^ 23, (k / 2 ^ 23 : Nat) - 127 - 23⟩ := by
  unfold fp32Num Fmt.magnitude
  rw [if_neg (show ¬ k < 2 ^ fmtFP32.fb from Nat.not_lt.mpr h)]; rfl

/-- The fields of an FP32 pattern: sign, 8 exponent bits, 23 fraction bits (R188). -/
theorem fmtFP32_val (p : Nat) : fmtFP32.val p =
    if p / 2 ^ 23 % 2 ^ 8 = 255 then (if p % 2 ^ 23 = 0 then .inf (p / 2 ^ 31 % 2 == 1) else .nan (decide (p % 2 ^ 23 < 2 ^ 22)))
    else if p / 2 ^ 23 % 2 ^ 8 = 0 then .num ⟨p / 2 ^ 31 % 2 == 1, p % 2 ^ 23, 1 - 127 - 23⟩
    else .num ⟨p / 2 ^ 31 % 2 == 1, 2 ^ 23 + p % 2 ^ 23, (p / 2 ^ 23 % 2 ^ 8 : Nat) - 127 - 23⟩ := by
  simp [Fmt.val, fmtFP32, Fmt.signBit]
  rfl

/-- A pattern is a NaN, an infinity or a number, by the bits below its sign (R189). -/
theorem val32_eq (a : Word) : val32 a = if isNaN32 a then .nan (isSNaN32 a) else if isInf32 a then .inf a.msb
    else .num (fp32Num a.msb (a.toNat % 2 ^ 31)) := by
  have hlt := a.isLt
  rw [val32, fmtFP32_val, msb_eq_div]
  by_cases hn : isNaN32 a = true
  · have h : 0x7F800000 < a.toNat % 2 ^ 31 := of_decide_eq_true hn
    have hs : decide (a.toNat % 2 ^ 23 < 2 ^ 22) = isSNaN32 a := by
      rw [isSNaN32, hn, getLsbD_22_eq, Bool.true_and, ← decide_not, decide_eq_decide]; omega
    rw [if_pos hn, if_pos (by omega), if_neg (by omega), hs]
  rw [if_neg hn]
  have hn' : ¬ 0x7F800000 < a.toNat % 2 ^ 31 := fun h => hn (decide_eq_true h)
  by_cases hi : isInf32 a = true
  · have h : a.toNat % 2 ^ 31 = 0x7F800000 := beq_iff_eq.mp hi
    rw [if_pos hi, if_pos (by omega), if_pos (by omega)]
  · have h : a.toNat % 2 ^ 31 ≠ 0x7F800000 := fun h => hi (beq_iff_eq.mpr h)
    have he : a.toNat / 2 ^ 23 % 2 ^ 8 = a.toNat % 2 ^ 31 / 2 ^ 23 := by omega
    have hm : a.toNat % 2 ^ 23 = a.toNat % 2 ^ 31 % 2 ^ 23 := by omega
    rw [if_neg hi, if_neg (by omega), he, hm]
    generalize a.toNat % 2 ^ 31 = k
    by_cases hk : k < 2 ^ 23
    · rw [if_pos (by omega), Nat.mod_eq_of_lt hk, fp32Num_of_lt _ hk]; rfl
    · rw [if_neg (by omega), fp32Num_of_le _ (by omega)]

theorem val32_of_finite {a : Word} (hn : isNaN32 a = false) (hi : isInf32 a = false) :
    val32 a = .num (fp32Num a.msb (a.toNat % 2 ^ 31)) := by
  rw [val32_eq, hn, hi]; rfl
theorem val32_of_inf {a : Word} (hi : isInf32 a = true) : val32 a = .inf a.msb := by
  have hn : isNaN32 a = false := by
    have h : a.toNat % 2 ^ 31 = 0x7F800000 := beq_iff_eq.mp hi
    rw [isNaN32, h]; rfl
  rw [val32_eq, hn, hi]; rfl
theorem val32_of_nan {a : Word} (hn : isNaN32 a = true) : val32 a = .nan (isSNaN32 a) := by
  rw [val32_eq, if_pos hn]

@[simp] theorem isNaN_val32 (a : Word) : (val32 a).isNaN = isNaN32 a := by
  rw [val32_eq]; split_ifs with h <;> simp [FVal.isNaN, h]
@[simp] theorem isSNaN_val32 (a : Word) : (val32 a).isSNaN = isSNaN32 a := by
  rw [val32_eq]; split_ifs with h <;> simp [FVal.isSNaN, isSNaN32, h]
theorem sign_val32 {a : Word} (h : isNaN32 a = false) : (val32 a).sign = a.msb := by
  rw [val32_eq, h]; split_ifs <;> simp_all [FVal.sign, fp32Num]

theorem sigFlag_val32 (l : List Word) : sigFlag (l.map val32) = invOf l := by
  simp [sigFlag, invOf, List.any_map, Function.comp_def]

theorem finite32_eq_some {a : Word} {u : ExactNum} : finite32 a = some u ↔ val32 a = .num u := by
  show (match val32 a with | .num x => some x | _ => none) = some u ↔ _
  cases val32 a <;> simp

/-! The order of patterns is that of their values. -/

/-- A magnitude's value in units of the least subnormal, 2^-149. -/
def fp32Units (k : Nat) : Nat := if k < 2 ^ 23 then k else (2 ^ 23 + k % 2 ^ 23) * 2 ^ (k / 2 ^ 23 - 1)

theorem fp32Units_strictMono : StrictMono fp32Units := by
  refine strictMono_nat_of_lt_succ fun k => ?_
  unfold fp32Units
  by_cases hk : k + 1 < 2 ^ 23
  · rw [if_pos (by omega), if_pos hk]; omega
  rw [if_neg hk]
  by_cases hs : k < 2 ^ 23
  · rw [if_pos hs, show k + 1 = 2 ^ 23 by omega]; norm_num; omega
  rw [if_neg hs]
  by_cases hc : (k + 1) % 2 ^ 23 = 0
  · obtain ⟨j, hj⟩ : ∃ j, k / 2 ^ 23 = j + 1 := ⟨k / 2 ^ 23 - 1, by omega⟩
    rw [hc, show (k + 1) / 2 ^ 23 - 1 = j + 1 by omega, show k / 2 ^ 23 - 1 = j by omega, show k % 2 ^ 23 = 2 ^ 23 - 1 by omega, pow_succ]
    have := Nat.two_pow_pos j
    omega
  · rw [show (k + 1) / 2 ^ 23 = k / 2 ^ 23 by omega, show (k + 1) % 2 ^ 23 = k % 2 ^ 23 + 1 by omega]
    exact Nat.mul_lt_mul_of_pos_right (by omega) (Nat.two_pow_pos _)

/-- Lowering the exponent at which a number is read scales the integer. -/
theorem ExactNum.at_mul_pow (x : ExactNum) {e₀ e₁ : Int} (h : e₀ ≤ e₁) (hx : e₁ ≤ x.e) : x.at e₀ = x.at e₁ * 2 ^ (e₁ - e₀).toNat := by
  have he : (x.e - e₀).toNat = (x.e - e₁).toNat + (e₁ - e₀).toNat := by omega
  simp only [ExactNum.at, he, pow_add]
  split_ifs <;> push_cast <;> ring

theorem ExactNum.cmp_neg_iff {x y : ExactNum} {e₀ : Int} (hx : e₀ ≤ x.e) (hy : e₀ ≤ y.e) : x.cmp y < 0 ↔ x.at e₀ < y.at e₀ := by
  rw [x.at_mul_pow (e₁ := min x.e y.e) (by omega) (by omega), y.at_mul_pow (e₁ := min x.e y.e) (by omega) (by omega),
    Int.mul_lt_mul_right (by positivity)]
  simp only [ExactNum.cmp]
  split_ifs <;> omega

theorem ExactNum.cmp_eq_zero_iff {x y : ExactNum} {e₀ : Int} (hx : e₀ ≤ x.e) (hy : e₀ ≤ y.e) : x.cmp y = 0 ↔ x.at e₀ = y.at e₀ := by
  rw [x.at_mul_pow (e₁ := min x.e y.e) (by omega) (by omega), y.at_mul_pow (e₁ := min x.e y.e) (by omega) (by omega),
    mul_left_inj' (by positivity)]
  simp only [ExactNum.cmp]
  split_ifs with h h
  · exact iff_of_false (by decide) fun e => by omega
  · omega
  · omega

theorem le_fp32Num_e (neg : Bool) (k : Nat) : -149 ≤ (fp32Num neg k).e := by
  rcases Nat.lt_or_ge k (2 ^ 23) with h | h
  · rw [fp32Num_of_lt _ h]
  · rw [fp32Num_of_le _ h]; dsimp only; omega

theorem fp32Num_at (neg : Bool) (k : Nat) : (fp32Num neg k).at (-149) = if neg then -(fp32Units k : Int) else fp32Units k := by
  rcases Nat.lt_or_ge k (2 ^ 23) with h | h
  · rw [fp32Num_of_lt _ h, fp32Units, if_pos h]
    simp [ExactNum.at]
  · rw [fp32Num_of_le _ h, fp32Units, if_neg (show ¬ k < 2 ^ 23 by omega)]
    simp only [ExactNum.at, show (((k / 2 ^ 23 : Nat) : Int) - 127 - 23 - -149).toNat = k / 2 ^ 23 - 1 by omega]

theorem fKey_eq (a : Word) : fKey a = if a.msb then -((a.toNat % 2 ^ 31 : Nat) : Int) else (a.toNat % 2 ^ 31 : Nat) := by
  have := a.isLt
  rw [fKey, BitVec.msb_eq_decide]
  split_ifs <;> simp_all <;> omega

/-- Numbers are ordered as their signed magnitudes. -/
theorem fp32Num_at_lt (s t : Bool) (j k : Nat) : (fp32Num s j).at (-149) < (fp32Num t k).at (-149) ↔
    (if s then -(j : Int) else j) < if t then -(k : Int) else k := by
  rw [fp32Num_at, fp32Num_at]
  have hjk : fp32Units j < fp32Units k ↔ j < k := fp32Units_strictMono.lt_iff_lt
  have hkj : fp32Units k < fp32Units j ↔ k < j := fp32Units_strictMono.lt_iff_lt
  have hj : 0 < fp32Units j ↔ 0 < j := fp32Units_strictMono.lt_iff_lt (a := 0)
  have hk : 0 < fp32Units k ↔ 0 < k := fp32Units_strictMono.lt_iff_lt (a := 0)
  cases s <;> cases t <;> simp <;> omega

theorem fKey_of_inf {a : Word} (hi : isInf32 a = true) : fKey a = if a.msb then -0x7F800000 else 0x7F800000 := by
  rw [fKey_eq, show a.toNat % 2 ^ 31 = 0x7F800000 from beq_iff_eq.mp hi]; rfl

theorem fKey_bounds {a : Word} (hn : isNaN32 a = false) (hi : isInf32 a = false) : -0x7F800000 < fKey a ∧ fKey a < 0x7F800000 := by
  have hn' : ¬ 0x7F800000 < a.toNat % 2 ^ 31 := of_decide_eq_false hn
  have hi' : a.toNat % 2 ^ 31 ≠ 0x7F800000 := beq_eq_false_iff_ne.mp hi
  rw [fKey_eq]
  split_ifs <;> omega

/-- Patterns that are no NaN are ordered as their keys, infinities included. -/
theorem lt_val32 {a b : Word} (ha : isNaN32 a = false) (hb : isNaN32 b = false) :
    (val32 a).lt (val32 b) = decide (fKey a < fKey b) := by
  rw [Bool.eq_iff_iff, decide_eq_true_eq]
  cases hia : isInf32 a <;> cases hib : isInf32 b
  · rw [val32_of_finite ha hia, val32_of_finite hb hib, fKey_eq a, fKey_eq b, ← fp32Num_at_lt,
      ← ExactNum.cmp_neg_iff (le_fp32Num_e _ _) (le_fp32Num_e _ _)]
    exact decide_eq_true_iff
  · have := fKey_bounds ha hia
    rw [val32_of_finite ha hia, val32_of_inf hib, fKey_of_inf hib]
    cases b.msb <;> simp [FVal.lt] <;> omega
  · have := fKey_bounds hb hib
    rw [val32_of_inf hia, val32_of_finite hb hib, fKey_of_inf hia]
    cases a.msb <;> simp [FVal.lt] <;> omega
  · rw [val32_of_inf hia, val32_of_inf hib, fKey_of_inf hia, fKey_of_inf hib]
    cases a.msb <;> cases b.msb <;> decide

theorem eq_val32 {a b : Word} (ha : isNaN32 a = false) (hb : isNaN32 b = false) :
    (val32 a).eq (val32 b) = decide (fKey a = fKey b) := by
  rw [Bool.eq_iff_iff, decide_eq_true_eq]
  cases hia : isInf32 a <;> cases hib : isInf32 b
  · have hab := fp32Num_at_lt a.msb b.msb (a.toNat % 2 ^ 31) (b.toNat % 2 ^ 31)
    have hba := fp32Num_at_lt b.msb a.msb (b.toNat % 2 ^ 31) (a.toNat % 2 ^ 31)
    rw [← fKey_eq a, ← fKey_eq b] at hab hba
    rw [val32_of_finite ha hia, val32_of_finite hb hib]
    refine decide_eq_true_iff.trans ((ExactNum.cmp_eq_zero_iff (le_fp32Num_e _ _) (le_fp32Num_e _ _)).trans ?_)
    omega
  · have := fKey_bounds ha hia
    rw [val32_of_finite ha hia, val32_of_inf hib, fKey_of_inf hib]
    cases b.msb <;> simp [FVal.eq] <;> omega
  · have := fKey_bounds hb hib
    rw [val32_of_inf hia, val32_of_finite hb hib, fKey_of_inf hia]
    cases a.msb <;> simp [FVal.eq] <;> omega
  · rw [val32_of_inf hia, val32_of_inf hib, fKey_of_inf hia, fKey_of_inf hib]
    cases a.msb <;> cases b.msb <;> decide

/-- A NaN is neither below nor equal to anything. -/
theorem unordered_val32 {a b : Word} (h : isNaN32 a || isNaN32 b) : (val32 a).lt (val32 b) = false ∧ (val32 a).eq (val32 b) = false := by
  rcases (Bool.or_eq_true _ _).mp h with ha | hb
  · rw [val32_of_nan ha]; exact ⟨rfl, rfl⟩
  · rw [val32_of_nan hb]; cases val32 a <;> exact ⟨rfl, rfl⟩

theorem fp32_nanPat (f : Flags) : fp32 (fmtFP32.nanPat, f) = (nan32, f) := rfl
theorem fp32_toNat (a : Word) (f : Flags) : fp32 (a.toNat, f) = (a, f) := by
  rw [fp32, BitVec.ofNat_toNat, BitVec.setWidth_eq]

/-! FMIN and FMAX (R298). -/

/-- The order of FMIN and FMAX, with −0 below +0. -/
theorem below_val32 {a b : Word} (ha : isNaN32 a = false) (hb : isNaN32 b = false) :
    ((val32 a).lt (val32 b) || ((val32 a).eq (val32 b) && (val32 a).sign && !(val32 b).sign))
      = decide (fKey a < fKey b ∨ (fKey a = fKey b ∧ a.msb = true ∧ b.msb = false)) := by
  rw [lt_val32 ha hb, eq_val32 ha hb, sign_val32 ha, sign_val32 hb]
  simp [Bool.and_assoc]

theorem fpMinMax_eq (mx : Bool) (a b : Word) : fpMinMax mx a b =
    if isSNaN32 a || isSNaN32 b then (nan32, fINV) else if isNaN32 a && isNaN32 b then (nan32, 0)
    else if isNaN32 a then (b, 0) else if isNaN32 b then (a, 0)
    else (if decide (fKey a < fKey b ∨ (fKey a = fKey b ∧ a.msb = true ∧ b.msb = false)) = mx then b else a, 0) := by
  show fp32 (if (val32 a).isSNaN || (val32 b).isSNaN then (fmtFP32.nanPat, fINV) else if (val32 a).isNaN && (val32 b).isNaN then (fmtFP32.nanPat, 0)
    else if (val32 a).isNaN then (b.toNat, 0) else if (val32 b).isNaN then (a.toNat, 0)
    else (if ((val32 a).lt (val32 b) || ((val32 a).eq (val32 b) && (val32 a).sign && !(val32 b).sign)) == mx then b.toNat else a.toNat, 0)) = _
  rw [isNaN_val32, isNaN_val32, isSNaN_val32, isSNaN_val32]
  cases ha : isNaN32 a
  case false =>
    cases hb : isNaN32 b
    case false =>
      rw [below_val32 ha hb]
      simp only [apply_ite fp32, apply_ite (Prod.mk · (0 : Flags)), fp32_nanPat, fp32_toNat, beq_iff_eq]
    case true => simp [apply_ite fp32, fp32_nanPat, fp32_toNat]
  case true => cases isNaN32 b <;> simp [apply_ite fp32, fp32_nanPat, fp32_toNat]

/-- Settles O6: both forms compute `fpMinMax`. -/
theorem floatMinMax : Obligations.FloatMinMax := by
  intro s o a b below res
  exact ⟨writesScalarFl_fp2 (fpMinMax false) (fun _ _ => rfl) rfl (fpMinMax_eq false a b),
    writesScalarFl_fp2 (fpMinMax true) (fun _ _ => rfl) rfl (fpMinMax_eq true a b)⟩

end Sys2Proof.Machine

/-! Compares, predicate logic and PTOS (R300, R301). -/

namespace Sys2Proof.Machine

theorem not_decide_lt {α : Type} [LinearOrder α] (x y : α) : (!decide (x < y)) = decide (y ≤ x) := by
  rw [← decide_not, decide_eq_decide, not_lt]

theorem fpCompare_lt (a b : Word) : fpCompare 1 a b =
    (!(isNaN32 a || isNaN32 b) && decide (fKey a < fKey b), if isNaN32 a || isNaN32 b then fINV else 0) := by
  show ((val32 a).lt (val32 b), if (val32 a).isNaN || (val32 b).isNaN then fINV else 0) = _
  rw [isNaN_val32, isNaN_val32]
  cases hn : isNaN32 a || isNaN32 b
  · obtain ⟨ha, hb⟩ := (Bool.or_eq_false_iff).mp hn
    rw [lt_val32 ha hb]; rfl
  · rw [(unordered_val32 hn).1]; rfl

theorem fpCompare_le (a b : Word) : fpCompare 2 a b =
    (!(isNaN32 a || isNaN32 b) && decide (fKey a ≤ fKey b), if isNaN32 a || isNaN32 b then fINV else 0) := by
  show ((val32 a).lt (val32 b) || (val32 a).eq (val32 b), if (val32 a).isNaN || (val32 b).isNaN then fINV else 0) = _
  rw [isNaN_val32, isNaN_val32]
  cases hn : isNaN32 a || isNaN32 b
  · obtain ⟨ha, hb⟩ := (Bool.or_eq_false_iff).mp hn
    have hle : (decide (fKey a < fKey b) || decide (fKey a = fKey b)) = decide (fKey a ≤ fKey b) := by
      rw [← Bool.decide_or, decide_eq_decide, le_iff_lt_or_eq]
    rw [lt_val32 ha hb, eq_val32 ha hb, hle]; rfl
  · obtain ⟨hlt, heq⟩ := unordered_val32 hn
    rw [hlt, heq]; rfl

theorem fpCompare_unordered (a b : Word) : fpCompare 3 a b = (isNaN32 a || isNaN32 b, invOf [a, b]) := by
  show ((val32 a).isNaN || (val32 b).isNaN, if (val32 a).isSNaN || (val32 b).isSNaN then fINV else 0) = _
  rw [isNaN_val32, isNaN_val32, isSNaN_val32, isSNaN_val32]
  simp [invOf]

/-- A sum of the powers of two at the places where `p` holds has just these bits. -/
theorem testBit_sum_of_bits (p : Nat → Bool) (n : Nat) :
    (List.range n).foldl (fun acc i => acc + if p i then 2 ^ i else 0) 0 < 2 ^ n ∧
    ∀ k, ((List.range n).foldl (fun acc i => acc + if p i then 2 ^ i else 0) 0).testBit k = (decide (k < n) && p k) := by
  induction n with
  | zero => simp
  | succ n ih =>
    rw [List.range_succ, foldl_append_one]
    generalize (List.range n).foldl (fun acc i => acc + if p i then 2 ^ i else 0) 0 = v at ih ⊢
    obtain ⟨hlt, hbit⟩ := ih
    refine ⟨by rw [pow_succ]; split_ifs <;> omega, fun k => ?_⟩
    rcases lt_trichotomy k n with hk | rfl | hk
    · have hv : (v + if p n then 2 ^ n else 0).testBit k = v.testBit k := by
        split_ifs
        · rw [add_comm, Nat.testBit_two_pow_add_gt hk]
        · rfl
      rw [hv, hbit]; simp [hk, Nat.lt_succ_of_lt hk]
    · cases hp : p k
      · simp [hbit]
      · rw [if_pos rfl, add_comm, Nat.testBit_two_pow_add_eq, hbit]; simp
    · have hs : v + (if p n then 2 ^ n else 0) < 2 ^ k :=
        lt_of_lt_of_le (by rw [pow_succ]; split_ifs <;> omega) (Nat.pow_le_pow_right two_pos hk)
      rw [Nat.testBit_lt_two_pow hs]; simp; omega

/-- PTOS's value: the predicates in the low eight bits (R301). -/
theorem getLsbD_ofNat_preds (t : Tile) (c k : Nat) : (BitVec.ofNat 32 (t.preds c)).getLsbD k = (decide (k < 8) && t.pr c k) := by
  rw [BitVec.getLsbD_ofNat, Tile.preds, (testBit_sum_of_bits (t.pr c) 8).2 k]
  by_cases hk : k < 8
  · simp [hk, show k < 32 by omega]
  · simp [hk]

/-- Settles O8: each form puts the truth of its test in P[pd]; PTOS's value has the predicates as its bits. -/
theorem predicates : Obligations.Predicates := by
  refine ⟨?_, ?_⟩
  · intro s o a b forms nan floats
    refine ⟨?_, ?_⟩
    · simp only [forms, List.forall_mem_cons]
      exact ⟨writesPred_pc2 (fun a b => a == b) (fun _ _ => rfl) rfl rfl,
        writesPred_pc2 (fun a b => a != b) (fun _ _ => rfl) rfl (decide_not.symm),
        writesPred_pc2 (fun a b => a.slt b) (fun _ _ => rfl) rfl rfl,
        writesPred_pc2 (fun a b => a.ult b) (fun _ _ => rfl) rfl rfl,
        writesPred_pc2 (fun a b => !(a.slt b)) (fun _ _ => rfl) rfl (not_decide_lt _ _),
        writesPred_pc2 (fun a b => !(a.ult b)) (fun _ _ => rfl) rfl (not_decide_lt _ _),
        List.forall_mem_nil _⟩
    · simp only [floats, List.forall_mem_cons]
      exact ⟨writesPredFl_pcf (fpCompare 1) (fun _ _ => rfl) rfl (fpCompare_lt _ _),
        writesPredFl_pcf (fpCompare 2) (fun _ _ => rfl) rfl (fpCompare_le _ _),
        writesPredFl_pcf (fpCompare 3) (fun _ _ => rfl) rfl (fpCompare_unordered _ _),
        List.forall_mem_nil _⟩
  · intro s o q forms
    refine ⟨?_, fun h => ?_⟩
    · simp only [forms, List.forall_mem_cons]
      exact ⟨writesPred_pl2 (· && ·) (fun _ _ => rfl) rfl,
        writesPred_pl2 (· || ·) (fun _ _ => rfl) rfl,
        writesPred_pl2 (· != ·) (fun _ _ => rfl) rfl,
        writesPred_pl2 (fun a _ => !a) (fun _ _ => rfl) rfl,
        fun h => writesPred_of (acts_of_noOwnCause (eff := fun t => t.putP s.cur o.pd (o.pb.getLsbD 0)) (fun _ _ => rfl) rfl h) rfl,
        List.forall_mem_nil _⟩
    · refine ⟨BitVec.ofNat 32 (s.curTile.preds s.cur.c), ?_, getLsbD_ofNat_preds _ _, ?_⟩
      · exact getLsbD_ofNat_preds _ _ 0
      · exact writesScalar_putS (eff := fun t => t.putS s.cur q.d 1 (BitVec.ofNat 32 (t.preds s.cur.c))) (fun _ _ => rfl) rfl rfl rfl h

end Sys2Proof.Machine

/-! FRCP, FRSQ and the refinement steps (R297, R299). -/

namespace Sys2Proof.Machine

/-! Integer quotients and roots. -/

theorem bitLen_eq {m n : Nat} (h₁ : 2 ^ n ≤ m) (h₂ : m < 2 ^ (n + 1)) : bitLen m = n + 1 := by
  have h0 : m ≠ 0 := by have := Nat.two_pow_pos n; omega
  rw [bitLen, if_neg h0, (Nat.log2_eq_iff h0).mpr ⟨h₁, h₂⟩]

theorem lt_two_pow_bitLen (m : Nat) : m < 2 ^ bitLen m := by
  unfold bitLen
  split_ifs with h
  · omega
  · exact Nat.lt_log2_self

theorem bitLen_le {m n : Nat} (h : m < 2 ^ n) : bitLen m ≤ n := by
  unfold bitLen
  split_ifs with h0
  · omega
  · exact (Nat.log2_lt h0).mpr h

/-- The quotient rounded to the nearest, ties to even, as FRCP forms it (R297). -/
def nearestQuot (n d : Nat) : Nat := if 2 * (n % d) > d ∨ (2 * (n % d) = d ∧ n / d % 2 = 1) then n / d + 1 else n / d

/-- For an odd divisor there is no tie, and the rounded quotient lies within half a unit. -/
theorem nearestQuot_error {n d : Nat} (hd : d % 2 = 1) : (2 * (nearestQuot n d * d : Nat) - 2 * n : Int).natAbs < d := by
  have hdiv := Nat.div_add_mod n d
  have hmod := Nat.mod_lt n (show 0 < d by omega)
  unfold nearestQuot
  generalize n / d = q at *
  generalize n % d = r at *
  split_ifs
  · rw [Nat.add_mul, Nat.mul_comm q d]
    generalize d * q = p at *
    omega
  · rw [Nat.mul_comm q d]
    generalize d * q = p at *
    omega

/-- Bit by bit, the root keeps below the number, and the number below the next candidate. -/
theorem isqrtFrom_spec (k n r : Nat) (hr : r * r ≤ n) (hn : n < (r + 2 ^ k) * (r + 2 ^ k)) :
    isqrtFrom k n r * isqrtFrom k n r ≤ n ∧ n < (isqrtFrom k n r + 1) * (isqrtFrom k n r + 1) := by
  induction k generalizing r with
  | zero => exact ⟨hr, hn⟩
  | succ k ih =>
    rw [isqrtFrom]
    rw [pow_succ, mul_two, ← add_assoc] at hn
    split_ifs with h
    · exact ih _ h hn
    · exact ih _ hr (by omega)

theorem isqrt_spec (n : Nat) : isqrt n * isqrt n ≤ n ∧ n < (isqrt n + 1) * (isqrt n + 1) := by
  refine isqrtFrom_spec _ n 0 (Nat.zero_le _) ?_
  rw [zero_add, ← pow_add]
  exact (lt_two_pow_bitLen n).trans_le (Nat.pow_le_pow_right two_pos (by omega))

/-- Half of a root, rounded to the nearest: for a divisor with an odd factor above 1 the exact root of 2^41 / (d 2^v) lies strictly within half a unit of it (R297). -/
theorem halfRoot_bounds {d v : Nat} (hd : d % 2 = 1) (h₁ : 1 < d) (hle : d * 2 ^ v ≤ 2 ^ 41) :
    let q := (isqrt (2 ^ 41 / (d * 2 ^ v)) + 1) / 2
    1 ≤ q ∧ (2 * q - 1) ^ 2 * (d * 2 ^ v) < 2 ^ 41 ∧ 2 ^ 41 < (2 * q + 1) ^ 2 * (d * 2 ^ v) := by
  intro q
  have hD : 0 < d * 2 ^ v := by positivity
  obtain ⟨hlo, hhi⟩ := isqrt_spec (2 ^ 41 / (d * 2 ^ v))
  have hq : q = (isqrt (2 ^ 41 / (d * 2 ^ v)) + 1) / 2 := rfl
  generalize isqrt (2 ^ 41 / (d * 2 ^ v)) = r at *
  have hlo' : r * r * (d * 2 ^ v) ≤ 2 ^ 41 := (Nat.le_div_iff_mul_le hD).mp hlo
  have hhi' : 2 ^ 41 < (r + 1) * (r + 1) * (d * 2 ^ v) := (Nat.div_lt_iff_lt_mul hD).mp hhi
  have hr : 1 ≤ r := by
    by_contra h
    have : r = 0 := by omega
    subst this
    omega
  -- the odd factor keeps every square from the number itself
  have ne : ∀ k, k ^ 2 * (d * 2 ^ v) ≠ 2 ^ 41 := fun k h => by
    have hdvd : d ∣ 2 ^ 41 := ⟨k ^ 2 * 2 ^ v, by rw [← h]; ring⟩
    have hc : Nat.Coprime d (2 ^ 41) := (Nat.coprime_two_right.mpr (Nat.odd_iff.mpr hd)).pow_right _
    have := Nat.Coprime.eq_one_of_dvd hc hdvd
    omega
  refine ⟨by omega, lt_of_le_of_ne ?_ (ne _), lt_of_lt_of_le hhi' ?_⟩
  · refine le_trans (Nat.mul_le_mul_right _ ?_) hlo'
    rw [← pow_two]; exact Nat.pow_le_pow_left (by omega) 2
  · refine Nat.mul_le_mul_right _ ?_
    rw [← pow_two]; exact Nat.pow_le_pow_left (by omega) 2

/-! The fields of a normal number. -/

/-- The exponent of a normal magnitude, and its approximation's divisor, 8193 + 2f with f the top 12 fraction bits (R297). -/
def fp32Exp (k : Nat) : Int := (k / 2 ^ 23 : Nat) - 127
def approxDivisor (k : Nat) : Nat := 8193 + 2 * (k / 2 ^ 11 % 4096)

theorem fp32Num_top (neg : Bool) {k : Nat} (hk : 2 ^ 23 ≤ k) : (fp32Num neg k).e + bitLen (fp32Num neg k).m - 1 = fp32Exp k := by
  rw [fp32Num_of_le _ hk, bitLen_eq (n := 23) (by dsimp only; omega) (by dsimp only; omega), fp32Exp]
  dsimp only
  omega

theorem fp32Num_fraction (neg : Bool) {k : Nat} (hk : 2 ^ 23 ≤ k) :
    8193 + 2 * ((splitAt (fp32Num neg k).m (fp32Num neg k).e (fp32Exp k - 12)).1 - 4096) = approxDivisor k := by
  rw [fp32Num_of_le _ hk, splitAt, if_neg (by rw [fp32Exp]; dsimp only; omega)]
  simp only [show (fp32Exp k - 12 - (((k / 2 ^ 23 : Nat) : Int) - 127 - 23)).toNat = 11 by rw [fp32Exp]; omega, approxDivisor]
  omega

theorem fp32Num_not_tiny (neg : Bool) {k : Nat} (hk : 2 ^ 23 ≤ k) : ¬ ((fp32Num neg k).m = 0 ∨ fp32Exp k < -126) := by
  rw [fp32Num_of_le _ hk, fp32Exp]
  dsimp only
  omega

theorem fp32Num_tiny (neg : Bool) {k : Nat} (hk : k < 2 ^ 23) :
    (fp32Num neg k).m = 0 ∨ (fp32Num neg k).e + bitLen (fp32Num neg k).m - 1 < -126 := by
  have := bitLen_le hk
  rw [fp32Num_of_lt _ hk]
  dsimp only
  omega

/-! The approximations of a number (R297). -/

theorem rcpVal_tiny (neg : Bool) {k : Nat} (hk : k < 2 ^ 23) : rcpVal (.num (fp32Num neg k)) = (.inf neg, fDZ) := by
  simp only [rcpVal, if_pos (fp32Num_tiny neg hk)]
  rfl

theorem rsqVal_tiny (neg : Bool) {k : Nat} (hk : k < 2 ^ 23) : rsqVal (.num (fp32Num neg k)) = (.inf neg, fDZ) := by
  simp only [rsqVal, if_pos (fp32Num_tiny neg hk)]
  rfl

theorem approxDivisor_odd (k : Nat) : approxDivisor k % 2 = 1 := by rw [approxDivisor]; omega

/-- FRCP's integer has 13 bits for every fraction (R297). -/
theorem bitLen_nearestQuot (k : Nat) : bitLen (nearestQuot (2 ^ 26) (approxDivisor k)) = 13 := by
  have hd : 8193 ≤ approxDivisor k ∧ approxDivisor k ≤ 16383 := by unfold approxDivisor; omega
  have herr := nearestQuot_error (n := 2 ^ 26) (approxDivisor_odd k)
  generalize approxDivisor k = d at *
  generalize nearestQuot (2 ^ 26) d = q at *
  refine bitLen_eq (n := 12) (show 4096 ≤ q from ?_) (show q < 8192 from ?_) <;> by_contra h
  · have : q * d ≤ 4095 * d := Nat.mul_le_mul_right d (by omega)
    omega
  · have : 8192 * d ≤ q * d := Nat.mul_le_mul_right d (by omega)
    omega

theorem rcpVal_normal (neg : Bool) {k : Nat} (hk : 2 ^ 23 ≤ k) : rcpVal (.num (fp32Num neg k)) =
    if fp32Exp k ≤ 125 then (.num ⟨neg, nearestQuot (2 ^ 26) (approxDivisor k), -13 - fp32Exp k⟩, 0) else (.num ⟨neg, 0, 0⟩, fUF) := by
  have hq := bitLen_nearestQuot k
  simp only [rcpVal, fp32Num_top neg hk, if_neg (fp32Num_not_tiny neg hk), fp32Num_fraction neg hk]
  rw [nearestQuot] at hq ⊢
  rw [hq]
  by_cases he : fp32Exp k ≤ 125
  · rw [if_pos he, if_neg (by omega)]; rfl
  · rw [if_neg he, if_pos (by omega)]; rfl

theorem rsqVal_neg {k : Nat} (hk : 2 ^ 23 ≤ k) : rsqVal (.num (fp32Num true k)) = (.nan false, fINV) := by
  simp only [rsqVal, fp32Num_top true hk, if_neg (fp32Num_not_tiny true hk)]
  rfl

/-- FRSQ's integer: half the root of 2^41 over the divisor, doubled for an odd exponent (R297). -/
def halfRoot (k : Nat) : Nat := (isqrt (2 ^ 41 / (approxDivisor k * 2 ^ (fp32Exp k % 2).toNat)) + 1) / 2

theorem rsqVal_normal {k : Nat} (hk : 2 ^ 23 ≤ k) :
    rsqVal (.num (fp32Num false k)) = (.num ⟨false, halfRoot k, -13 - (fp32Exp k - fp32Exp k % 2) / 2⟩, 0) := by
  have h2 : ((fp32Exp k % 2).toNat : Int) = fp32Exp k % 2 := by omega
  simp only [rsqVal, fp32Num_top false hk, if_neg (fp32Num_not_tiny false hk), fp32Num_fraction false hk, h2]
  rfl

/-! The approximations of a pattern. -/

section
variable {a : Word}

theorem not_special_of_lt (h : a.toNat % 2 ^ 31 < 0x7F800000) : isNaN32 a = false ∧ isInf32 a = false := by
  refine ⟨decide_eq_false ?_, beq_eq_false_iff_ne.mpr ?_⟩ <;> omega

theorem val32_of_lt (h : a.toNat % 2 ^ 31 < 0x7F800000) : val32 a = .num (fp32Num a.msb (a.toNat % 2 ^ 31)) :=
  val32_of_finite (not_special_of_lt h).1 (not_special_of_lt h).2

theorem fpApprox_nan (rsq : Bool) (h : isNaN32 a = true) : fpApprox rsq a = (nan32, invOf [a]) := by
  have hinv : (if isSNaN32 a then fINV else 0) = invOf [a] := by simp [invOf]
  rw [fpApprox, val32_of_nan h, ← hinv]
  cases rsq <;> rfl

theorem fpApprox_tiny (rsq : Bool) (h : a.toNat % 2 ^ 31 < 2 ^ 23) : fpApprox rsq a = (inf32 a.msb, fDZ) := by
  rw [fpApprox, val32_of_lt (by omega), rcpVal_tiny _ h, rsqVal_tiny _ h, ite_self]
  cases a.msb <;> rfl

theorem fpRcp_inf (h : isInf32 a = true) : fpApprox false a = (zero32 a.msb, 0) := by
  rw [fpApprox, val32_of_inf h]
  cases a.msb <;> rfl

theorem fpRsq_inf (h : isInf32 a = true) : fpApprox true a = if a.msb then (nan32, fINV) else (0, 0) := by
  rw [fpApprox, val32_of_inf h]
  cases a.msb <;> rfl

/-- FRCP of a normal number: the nearest integer quotient, scaled, or a zero below the normal range (R297). -/
theorem fpRcp_normal (hn : isNaN32 a = false) (hi : isInf32 a = false) (hk : 2 ^ 23 ≤ a.toNat % 2 ^ 31) :
    fpApprox false a = if fp32Exp (a.toNat % 2 ^ 31) ≤ 125 then
      (BitVec.ofNat 32 (rne32 ⟨a.msb, nearestQuot (2 ^ 26) (approxDivisor (a.toNat % 2 ^ 31)), -13 - fp32Exp (a.toNat % 2 ^ 31)⟩).1, 0)
    else (zero32 a.msb, fUF) := by
  rw [fpApprox, val32_of_finite hn hi, if_neg Bool.false_ne_true, rcpVal_normal _ hk]
  split_ifs
  · rfl
  · cases a.msb <;> rfl

theorem fpRsq_normal (hn : isNaN32 a = false) (hi : isInf32 a = false) (hk : 2 ^ 23 ≤ a.toNat % 2 ^ 31) :
    fpApprox true a = if a.msb then (nan32, fINV) else (BitVec.ofNat 32 (rne32 ⟨false, halfRoot (a.toNat % 2 ^ 31),
      -13 - (fp32Exp (a.toNat % 2 ^ 31) - fp32Exp (a.toNat % 2 ^ 31) % 2) / 2⟩).1, 0) := by
  rw [fpApprox, val32_of_finite hn hi, if_pos rfl]
  cases a.msb
  · rw [rsqVal_normal hk]; rfl
  · rw [rsqVal_neg hk]; rfl

/-- The exponent and the divisor as R297 reads them off the pattern. -/
theorem fp32Exp_mag (a : Word) : fp32Exp (a.toNat % 2 ^ 31) = ((a.toNat / 2 ^ 23 % 256 : Nat) : Int) - 127 := by
  have := a.isLt
  rw [fp32Exp]; omega
theorem approxDivisor_mag (a : Word) : approxDivisor (a.toNat % 2 ^ 31) = 8193 + 2 * (a.toNat / 2 ^ 11 % 4096) := by
  rw [approxDivisor]; omega

end

/-! The refinement steps (R299). -/

theorem fpRefine_nan (rsq : Bool) {a b : Word} (h : isNaN32 a || isNaN32 b) : fpRefine rsq a b = (nan32, invOf [a, b]) := by
  show fp32 (if (val32 a).isNaN || (val32 b).isNaN then (fmtFP32.nanPat, sigFlag ([a, b].map val32)) else _) = _
  rw [isNaN_val32, isNaN_val32, if_pos h, sigFlag_val32, fp32_nanPat]

/-- A zero or infinite operand beside no NaN gives 1.0. -/
theorem fpRefine_one (rsq : Bool) {a b : Word} (ha : isNaN32 a = false) (hb : isNaN32 b = false)
    (h : isZero32 a || isZero32 b || isInf32 a || isInf32 b) : fpRefine rsq a b = (0x3F800000, 0) := by
  have zero {a : Word} (hz : isZero32 a = true) (s : Bool) : (fp32Num s (a.toNat % 2 ^ 31)).m = 0 := by
    rw [beq_iff_eq.mp hz]; rfl
  show fp32 (if (val32 a).isNaN || (val32 b).isNaN then _ else _) = _
  rw [isNaN_val32, isNaN_val32, ha, hb]
  cases hia : isInf32 a
  case true => rw [val32_of_inf hia]; rfl
  cases hib : isInf32 b
  case true => rw [val32_of_finite ha hia, val32_of_inf hib]; rfl
  have hz : (fp32Num a.msb (a.toNat % 2 ^ 31)).m = 0 ∨ (fp32Num b.msb (b.toNat % 2 ^ 31)).m = 0 := by
    simp only [hia, hib, Bool.or_false, Bool.or_eq_true] at h
    exact h.imp (zero · _) (zero · _)
  rw [val32_of_finite ha hia, val32_of_finite hb hib]
  simp only [Bool.or_self, Bool.false_eq_true, if_false, if_pos hz]
  decide

/-- Two numbers that are not zero: 2 − ab, or half of 3 − ab, rounded once. -/
theorem fpRefine_num (rsq : Bool) {a b : Word} {u v : ExactNum} (ha : finite32 a = some u) (hb : finite32 b = some v) (hu : u.m ≠ 0) (hv : v.m ≠ 0) :
    fpRefine rsq a b =
      let p := u.mul v
      let x := (⟨false, if rsq then 3 else 2, 0⟩ : ExactNum).add { p with neg := !p.neg }
      fp32 (rne32 { x with e := x.e - if rsq then 1 else 0 }) := by
  have hz : ¬ (u.m = 0 ∨ v.m = 0) := by rintro (h | h) <;> contradiction
  rw [fpRefine, finite32_eq_some.mp ha, finite32_eq_some.mp hb]
  simp only [Fmt.refine, FVal.isNaN, Bool.or_self, Bool.false_eq_true, if_false, if_neg hz]
  cases rsq <;> simp [rne32]

/-- What a refinement step gives, by its operands (R299). -/
theorem fpRefine_spec (rsq : Bool) (a b : Word) :
    (isNaN32 a || isNaN32 b → fpRefine rsq a b = (nan32, invOf [a, b]))
    ∧ (!isNaN32 a && !isNaN32 b && (isZero32 a || isZero32 b || isInf32 a || isInf32 b) → fpRefine rsq a b = (0x3F800000, 0))
    ∧ ∀ u v, finite32 a = some u → finite32 b = some v → u.m ≠ 0 → v.m ≠ 0 →
        let p := u.mul v
        let x := (⟨false, if rsq then 3 else 2, 0⟩ : ExactNum).add { p with neg := !p.neg }
        fpRefine rsq a b = fp32 (rne32 { x with e := x.e - if rsq then 1 else 0 }) := by
  refine ⟨fpRefine_nan rsq, fun h => ?_, fun u v => fpRefine_num rsq⟩
  simp only [Bool.and_eq_true, Bool.not_eq_true'] at h
  obtain ⟨⟨ha, hb⟩, hs⟩ := h
  exact fpRefine_one rsq ha hb hs

/-- Settles O7: the four forms compute `fpApprox` and `fpRefine`, whose values are those of R297 and R299. -/
theorem floatApproximations : Obligations.FloatApproximations := by
  refine ⟨?_, ?_⟩
  · intro s o a e d tiny
    have he : fp32Exp (a.toNat % 2 ^ 31) = e := fp32Exp_mag a
    have hd : approxDivisor (a.toNat % 2 ^ 31) = d := approxDivisor_mag a
    refine ⟨fun h => ⟨fpApprox false a, writesScalarFl_fp1 (fpApprox false) (fun _ _ => rfl) rfl rfl h, fpApprox_nan false, fpRcp_inf, fpApprox_tiny false, ?_⟩,
      fun h => ⟨fpApprox true a, writesScalarFl_fp1 (fpApprox true) (fun _ _ => rfl) rfl rfl h, fpApprox_nan true, fpRsq_inf, fpApprox_tiny true, ?_⟩⟩
    · intro hk hs
      simp only [Bool.and_eq_true, Bool.not_eq_true'] at hs
      refine ⟨nearestQuot (2 ^ 26) d, nearestQuot_error (hd ▸ approxDivisor_odd _), ?_⟩
      rw [fpRcp_normal hs.1 hs.2 (not_lt.mp hk), he, hd]
    · intro hk hs
      simp only [Bool.and_eq_true, Bool.not_eq_true'] at hs
      rw [fpRsq_normal hs.1 hs.2 (not_lt.mp hk), halfRoot, he, hd]
      cases a.msb
      · have hle : d * 2 ^ (e % 2).toNat ≤ 2 ^ 41 :=
          calc d * 2 ^ (e % 2).toNat ≤ 16383 * 2 ^ 1 := Nat.mul_le_mul (by omega) (Nat.pow_le_pow_right two_pos (by omega))
            _ ≤ 2 ^ 41 := by norm_num
        obtain ⟨h1, hlo, hhi⟩ := halfRoot_bounds (d := d) (v := (e % 2).toNat) (by omega) (by omega) hle
        exact ⟨_, h1, hlo, hhi, rfl⟩
      · rfl
  · intro s o a b i k half hmem h
    simp only [List.mem_cons, Prod.mk.injEq, List.not_mem_nil, or_false] at hmem
    obtain ⟨rfl, rfl, rfl⟩ | ⟨rfl, rfl, rfl⟩ := hmem
    · exact ⟨fpRefine false a b, writesScalarFl_fp2 (fpRefine false) (fun _ _ => rfl) rfl rfl h, fpRefine_spec false a b⟩
    · exact ⟨fpRefine true a b, writesScalarFl_fp2 (fpRefine true) (fun _ _ => rfl) rfl rfl h, fpRefine_spec true a b⟩

end Sys2Proof.Machine

/-! Lanes of vector registers (R168, R324): elements and packed results by their bits. -/

namespace Sys2Proof.Machine

theorem bitAt_eq_testBit (v i : Nat) : bitAt v i = v.testBit i := by
  rw [bitAt, Nat.testBit_eq_decide_div_mod_eq]; rfl

theorem testBit_bitsAt (v lo len k : Nat) : (bitsAt v lo len).testBit k = (decide (k < len) && v.testBit (k + lo)) := by
  rw [bitsAt, Nat.testBit_mod_two_pow, Nat.testBit_div_two_pow]

theorem testBit_laneAt (w v i k : Nat) : (laneAt w v i).testBit k = (decide (k < w) && v.testBit (k + i * w)) := by
  rw [laneAt, Nat.testBit_mod_two_pow, Nat.testBit_div_two_pow]

theorem laneAt_lt (w v i : Nat) : laneAt w v i < 2 ^ w := Nat.mod_lt _ (Nat.two_pow_pos w)

theorem testBit_foldl_or {α : Type} (f : α → Nat) (l : List α) (b k : Nat) :
    (l.foldl (fun acc e => acc ||| f e) b).testBit k = (b.testBit k || l.any fun e => (f e).testBit k) := by
  induction l generalizing b with
  | nil => simp
  | cons a l ih => rw [List.foldl_cons, ih, Nat.testBit_or, List.any_cons, Bool.or_assoc]

theorem getLsbD_foldl_or {α : Type} {n : Nat} (f : α → BitVec n) (l : List α) (b : BitVec n) (k : Nat) :
    (l.foldl (fun acc e => acc ||| f e) b).getLsbD k = (b.getLsbD k || l.any fun e => (f e).getLsbD k) := by
  induction l generalizing b with
  | nil => simp
  | cons a l ih => rw [List.foldl_cons, ih, BitVec.getLsbD_or, List.any_cons, Bool.or_assoc]

/-- The bits of a number put together from beats of `m` bits, beat 0 in the low bits. -/
theorem testBit_sum_of_beats {m : Nat} (x : Nat → BitVec m) (nb : Nat) :
    (List.range nb).foldl (fun acc b => acc + (x b).toNat * 2 ^ (m * b)) 0 < 2 ^ (m * nb) ∧
    ∀ k, ((List.range nb).foldl (fun acc b => acc + (x b).toNat * 2 ^ (m * b)) 0).testBit k
      = (decide (k < m * nb) && (x (k / m)).getLsbD (k % m)) := by
  induction nb with
  | zero => simp
  | succ nb ih =>
    rw [List.range_succ, foldl_append_one, Nat.mul_comm (x nb).toNat, Nat.add_comm]
    generalize (List.range nb).foldl (fun acc b => acc + (x b).toNat * 2 ^ (m * b)) 0 = y at ih ⊢
    obtain ⟨hy, hbit⟩ := ih
    refine ⟨?_, fun k => ?_⟩
    · calc 2 ^ (m * nb) * (x nb).toNat + y < 2 ^ (m * nb) * ((x nb).toNat + 1) := by rw [Nat.mul_succ]; exact Nat.add_lt_add_left hy _
        _ ≤ 2 ^ (m * nb) * 2 ^ m := Nat.mul_le_mul_left _ (x nb).isLt
        _ = 2 ^ (m * (nb + 1)) := by rw [← Nat.pow_add, Nat.mul_succ]
    · rw [Nat.testBit_two_pow_mul_add _ hy]
      split_ifs with hk
      · rw [hbit, decide_eq_true hk, decide_eq_true (hk.trans_le (Nat.mul_le_mul_left m nb.le_succ))]
      · rw [BitVec.testBit_toNat]
        by_cases hk' : k < m * (nb + 1)
        · have hd : k / m = nb := Nat.div_eq_of_lt_le (by rw [Nat.mul_comm]; omega) (by rwa [Nat.mul_comm])
          have hr : k % m = k - m * nb := by rw [Nat.mod_eq_sub, hd]
          rw [hd, hr, decide_eq_true hk', Bool.true_and]
        · rw [Nat.mul_succ] at hk'
          rw [BitVec.getLsbD_of_ge _ _ (by omega), decide_eq_false (by rwa [Nat.mul_succ]), Bool.false_and]

/-! Elements and beats. `n` elements of width `w` fill a beat. -/

section
variable {w n : Nat}

/-- Bit `k` of element `i` lies in beat `i / n`, at place `(i % n) * w + k` there. -/
theorem lane_bit (hw : w * n = 1024) (i : Nat) {k : Nat} (hk : k < w) :
    (k + i * w) / 1024 = i / n ∧ (k + i * w) % 1024 = k + i % n * w ∧ k + i % n * w < 1024 := by
  have hn : 0 < n := Nat.pos_of_mul_pos_left (a := w) (by omega)
  have hq : k + i % n * w < 1024 :=
    calc k + i % n * w < (i % n + 1) * w := by rw [Nat.succ_mul]; omega
      _ ≤ n * w := Nat.mul_le_mul_right w (Nat.mod_lt i hn)
      _ = 1024 := by rw [Nat.mul_comm, hw]
  have hi : k + i * w = 1024 * (i / n) + (k + i % n * w) := by
    conv_lhs => rw [← Nat.div_add_mod i n, Nat.add_mul, Nat.mul_comm n, Nat.mul_assoc, Nat.mul_comm n, hw]
    omega
  omega

theorem testBit_vreg (t : Tile) (c v nb k : Nat) :
    (t.vreg c v nb).testBit k = (decide (k < 1024 * nb) && (t.vBeat c v (k / 1024)).getLsbD (k % 1024)) :=
  (testBit_sum_of_beats (t.vBeat c v) nb).2 k

/-- An element of a register's first `nb` beats, read as one number. -/
theorem laneAt_vreg (t : Tile) (c v : Nat) {nb i : Nat} (hw : w * n = 1024) (hi : i < nb * n) :
    laneAt w (t.vreg c v nb) i = t.velem c w v i := by
  have hp : 0 < w := Nat.pos_of_mul_pos_right (b := n) (by omega)
  have hn : 1024 / w = n := Nat.div_eq_of_eq_mul_right hp hw.symm
  refine Nat.eq_of_testBit_eq fun k => ?_
  rw [Tile.velem, hn, testBit_laneAt, testBit_laneAt, testBit_vreg, BitVec.testBit_toNat]
  by_cases hk : k < w
  · obtain ⟨hd, hm, -⟩ := lane_bit hw i hk
    have hb : k + i * w < 1024 * nb := by
      have : i / n < nb := Nat.div_lt_of_lt_mul (by rwa [Nat.mul_comm])
      omega
    rw [hd, hm, decide_eq_true hb, Bool.true_and]
  · simp [hk]

end

/-! Results packed into beats (R169). -/

theorem packLanes_mask (w : Nat) (l : List (Nat × Nat)) : (packLanes w l).1 = l.foldl (fun acc e => acc ||| (2 ^ w - 1) * 2 ^ (e.1 * w)) 0 :=
  (List.foldl_hom Prod.fst fun _ _ => rfl).symm
theorem packLanes_val (w : Nat) (l : List (Nat × Nat)) : (packLanes w l).2 = l.foldl (fun acc e => acc ||| e.2 % 2 ^ w * 2 ^ (e.1 * w)) 0 :=
  (List.foldl_hom Prod.snd fun _ _ => rfl).symm

/-- A pattern of `w` bits at position `q` shows at bit `k` of position `p` when the two are the same. -/
theorem testBit_placed {w x k : Nat} (p q : Nat) (hx : x < 2 ^ w) (hk : k < w) :
    (x * 2 ^ (q * w)).testBit (k + p * w) = (decide (q = p) && x.testBit k) := by
  rw [Nat.testBit_mul_two_pow]
  rcases Nat.lt_trichotomy q p with h | rfl | h
  · have hle : q * w + w ≤ p * w := by rw [← Nat.succ_mul]; exact Nat.mul_le_mul_right w h
    rw [Nat.testBit_lt_two_pow (hx.trans_le (Nat.pow_le_pow_right two_pos (by omega)))]
    simp [h.ne]
  · simp
  · have hle : p * w + w ≤ q * w := by rw [← Nat.succ_mul]; exact Nat.mul_le_mul_right w h
    simp [show ¬ q * w ≤ k + p * w by omega, h.ne']

/-- Result `p * k + g` of a list, the one that goes to position `p` of register `g` of a group of `k` (R169). -/
def resultAt (res : List (Option Nat)) (k g p : Nat) : Option Nat := res.getD (p * k + g) none
/-- The results that go to register `g` of a group of `k`, with their positions. -/
def placedIn (res : List (Option Nat)) (k g : Nat) : List (Nat × Nat) :=
  res.zipIdx.filterMap fun e => if e.2 % k = g then e.1.map fun v => (e.2 / k, v) else none

theorem mem_placedIn {res : List (Option Nat)} {k g p v : Nat} (hg : g < k) : (p, v) ∈ placedIn res k g ↔ resultAt res k g p = some v := by
  have hk : 0 < k := by omega
  rw [placedIn, List.mem_filterMap]
  constructor
  · rintro ⟨⟨x, i⟩, hm, he⟩
    split_ifs at he with hi
    obtain ⟨y, rfl, hy⟩ := Option.map_eq_some_iff.mp he
    obtain ⟨rfl, rfl⟩ := Prod.mk.inj hy
    rw [resultAt, ← hi, Nat.mul_comm, Nat.div_add_mod, List.getD_eq_getElem?_getD, List.mem_zipIdx_iff_getElem?.mp hm]; rfl
  · intro h
    rw [resultAt, List.getD_eq_getElem?_getD, Option.getD_eq_iff] at h
    have hr : res[p * k + g]? = some (some v) := by simpa using h
    refine ⟨(some v, p * k + g), List.mem_zipIdx_iff_getElem?.mpr hr, ?_⟩
    rw [Nat.mul_comm, if_pos (by rw [Nat.mul_add_mod, Nat.mod_eq_of_lt hg]), Nat.mul_add_div hk, Nat.div_eq_of_lt hg]; rfl

/-- A position of register `g` is in the mask when it has a result. -/
theorem testBit_packed_mask (res : List (Option Nat)) {w k g b : Nat} (p : Nat) (hg : g < k) (hb : b < w) :
    (packLanes w (placedIn res k g)).1.testBit (b + p * w) = (resultAt res k g p).isSome := by
  rw [packLanes_mask, testBit_foldl_or, Nat.zero_testBit, Bool.false_or, Bool.eq_iff_iff, List.any_eq_true, Option.isSome_iff_exists]
  have hx : 2 ^ w - 1 < 2 ^ w := Nat.sub_lt (Nat.two_pow_pos w) one_pos
  constructor
  · rintro ⟨⟨q, v⟩, hm, hq⟩
    rw [testBit_placed p q hx hb] at hq
    obtain rfl : q = p := by simp_all
    exact ⟨v, (mem_placedIn hg).mp hm⟩
  · rintro ⟨v, hv⟩
    refine ⟨(p, v), (mem_placedIn hg).mpr hv, ?_⟩
    rw [testBit_placed p p hx hb, Nat.testBit_two_pow_sub_one]
    simp [hb]

/-- There the bits are those of the result. -/
theorem testBit_packed_val (res : List (Option Nat)) {w k g b : Nat} (p : Nat) (hg : g < k) (hb : b < w) :
    (packLanes w (placedIn res k g)).2.testBit (b + p * w) = ((resultAt res k g p).getD 0).testBit b := by
  rw [packLanes_val, testBit_foldl_or, Nat.zero_testBit, Bool.false_or, Bool.eq_iff_iff, List.any_eq_true]
  have hbit (q v : Nat) : (v % 2 ^ w * 2 ^ (q * w)).testBit (b + p * w) = (decide (q = p) && v.testBit b) := by
    rw [testBit_placed p q (Nat.mod_lt v (Nat.two_pow_pos w)) hb, Nat.testBit_mod_two_pow, decide_eq_true hb, Bool.true_and]
  constructor
  · rintro ⟨⟨q, v⟩, hm, hq⟩
    rw [hbit] at hq
    obtain ⟨rfl, hv⟩ : q = p ∧ v.testBit b = true := by simpa using hq
    rw [(mem_placedIn hg).mp hm]; exact hv
  · intro h
    cases hr : resultAt res k g p with
    | none => rw [hr] at h; simp at h
    | some v =>
      rw [hr] at h
      refine ⟨(p, v), (mem_placedIn hg).mpr hr, ?_⟩
      rw [hbit]; simpa using h

/-- The write of beat `j` of register `g` of a group (R169). -/
def groupBeat (vd k w : Nat) (rel : Nat → Nat) (res : List (Option Nat)) (g j : Nat) : RW :=
  let mv := packLanes w (placedIn res k g)
  ⟨.v, (vd + g) * 4 + j, rel j, bitsAt mv.1 (1024 * j) 1024, bitsAt mv.2 (1024 * j) 1024⟩

/-- A group's writes are those of its beats that have a result. -/
theorem mem_groupWrites {vd k w : Nat} {rel : Nat → Nat} {res : List (Option Nat)} {r : RW} :
    r ∈ groupWrites vd k w rel res ↔ ∃ g < k, ∃ j < 4, (groupBeat vd k w rel res g j).mask ≠ 0 ∧ r = groupBeat vd k w rel res g j := by
  show r ∈ ((List.range k).flatMap fun g => (List.range 4).filterMap fun j =>
    if (groupBeat vd k w rel res g j).mask = 0 then none else some (groupBeat vd k w rel res g j)) ↔ _
  simp only [List.mem_flatMap, List.mem_filterMap, List.mem_range, Option.ite_none_left_eq_some, Option.some.injEq, ne_eq, @eq_comm RW r]

/-! Writes in flight. -/

/-- The write in flight that a result to a vector beat enters (R162, R184). -/
def RW.pendV (r : RW) (iss slot : Nat) : PendWrite 1024 := ⟨r.idx, iss, slot, iss + r.off, BitVec.ofNat 1024 r.mask, BitVec.ofNat 1024 r.val⟩

theorem pushRWs_v (iss slot : Nat) {ws : List RW} (h : ∀ r ∈ ws, r.file = .v) (t : Tile) :
    ws.foldl (fun t r => t.pushRW iss slot r) t = { t with vp := t.vp ++ ws.map (·.pendV iss slot) } := by
  induction ws generalizing t with
  | nil => simp
  | cons r ws ih =>
    have hr : t.pushRW iss slot r = { t with vp := t.vp ++ [r.pendV iss slot] } := by
      rw [Tile.pushRW, h r List.mem_cons_self]; rfl
    rw [List.foldl_cons, hr, ih fun x hx => h x (List.mem_cons_of_mem r hx), List.map_cons]
    simp

theorem PendWrite.foldl_apply_of_ne {w : Nat} {l : List (PendWrite w)} {i c : Nat} (h : ∀ e ∈ l, e.idx ≠ i) (x : BitVec w) :
    l.foldl (fun v e => e.apply i c v) x = x := by
  induction l with
  | nil => rfl
  | cons a l ih =>
    rw [List.foldl_cons, PendWrite.apply_of_ne (.inl (h a List.mem_cons_self)), ih fun e he => h e (List.mem_cons_of_mem a he)]

/-- Bits under a write's mask are its own from its availability on. -/
theorem PendWrite.getLsbD_apply {w : Nat} (e : PendWrite w) (i c : Nat) (x : BitVec w) {k : Nat} (hk : k < w) :
    (e.apply i c x).getLsbD k = if e.idx = i ∧ e.mask.getLsbD k = true ∧ e.avail ≤ c then e.val.getLsbD k else x.getLsbD k := by
  unfold PendWrite.apply
  by_cases h : e.idx = i ∧ e.avail ≤ c
  · rw [if_pos h]
    rw [BitVec.getLsbD_or, BitVec.getLsbD_and, BitVec.getLsbD_and, BitVec.getLsbD_not, decide_eq_true hk]
    cases e.mask.getLsbD k <;> simp [h.1, h.2]
  · rw [if_neg h, if_neg fun q => h ⟨q.1, q.2.2⟩]

theorem PendWrite.apply_apply {w : Nat} (e : PendWrite w) (i c : Nat) (x : BitVec w) : e.apply i c (e.apply i c x) = e.apply i c x := by
  refine BitVec.eq_of_getLsbD_eq fun k hk => ?_
  rw [PendWrite.getLsbD_apply _ _ _ _ hk, PendWrite.getLsbD_apply _ _ _ _ hk]
  split_ifs <;> rfl

/-- Of the writes in flight, a beat that only one names takes that one. -/
theorem PendWrite.foldl_apply_of_unique {w : Nat} {l : List (PendWrite w)} {e : PendWrite w} {i c : Nat} (hm : e ∈ l)
    (h : ∀ e' ∈ l, e'.idx = i → e' = e) (x : BitVec w) : l.foldl (fun v e => e.apply i c v) x = e.apply i c x := by
  induction l generalizing x with
  | nil => simp at hm
  | cons a l ih =>
    have hl : ∀ e' ∈ l, e'.idx = i → e' = e := fun e' he' => h e' (List.mem_cons_of_mem a he')
    rw [List.foldl_cons]
    by_cases hel : e ∈ l
    · rw [ih hel hl]
      by_cases ha : a.idx = i
      · rw [h a List.mem_cons_self ha, PendWrite.apply_apply]
      · rw [PendWrite.apply_of_ne (.inl ha)]
    · obtain rfl : e = a := (List.mem_cons.mp hm).resolve_right hel
      exact PendWrite.foldl_apply_of_ne (fun e' he' hi => hel (hl e' he' hi ▸ he')) _

/-- Beat `j` of register `v` after a group's writes: that of the group's beat, or none. -/
theorem foldl_groupWrites (vd k w : Nat) (rel : Nat → Nat) (res : List (Option Nat)) (iss slot c v : Nat) {j : Nat} (hj : j < 4) (x : BitVec 1024) :
    ((groupWrites vd k w rel res).map (·.pendV iss slot)).foldl (fun x e => e.apply (4 * v + j) c x) x
      = if vd ≤ v ∧ v - vd < k then ((groupBeat vd k w rel res (v - vd) j).pendV iss slot).apply (4 * v + j) c x else x := by
  have idx (e : PendWrite 1024) (he : e ∈ (groupWrites vd k w rel res).map (·.pendV iss slot)) (hi : e.idx = 4 * v + j) :
      vd ≤ v ∧ v - vd < k ∧ e = (groupBeat vd k w rel res (v - vd) j).pendV iss slot := by
    obtain ⟨r, hr, rfl⟩ := List.mem_map.mp he
    obtain ⟨g, hg, j', hj', -, rfl⟩ := mem_groupWrites.mp hr
    have hi' : (vd + g) * 4 + j' = 4 * v + j := hi
    obtain ⟨rfl, rfl⟩ : j' = j ∧ g = v - vd := by omega
    exact ⟨by omega, hg, rfl⟩
  split_ifs with hv
  · by_cases hm : (groupBeat vd k w rel res (v - vd) j).mask = 0
    · rw [PendWrite.foldl_apply_of_ne]
      · refine BitVec.eq_of_getLsbD_eq fun b hb => ?_
        rw [PendWrite.getLsbD_apply _ _ _ _ hb, if_neg]
        simp [RW.pendV, hm]
      · intro e he hi
        obtain ⟨r, hr, rfl⟩ := List.mem_map.mp he
        obtain ⟨g, hg, j', hj', hne, rfl⟩ := mem_groupWrites.mp hr
        have hi' : (vd + g) * 4 + j' = 4 * v + j := hi
        obtain ⟨rfl, rfl⟩ : j' = j ∧ g = v - vd := by omega
        exact hne hm
    · exact PendWrite.foldl_apply_of_unique
        (List.mem_map_of_mem (mem_groupWrites.mpr ⟨v - vd, hv.2, j, hj, hm, rfl⟩)) (fun e he hi => (idx e he hi).2.2) x
  · exact PendWrite.foldl_apply_of_ne (fun e he hi => hv ⟨(idx e he hi).1, (idx e he hi).2.1⟩) x

/-- A group's writes give each of its elements that has a result that result, at the cycle of its beat. -/
theorem lanesWritten_groupWrites {a b : Tile} {w iss slot vd k : Nat} {rel : Nat → Nat} {res : List (Option Nat)} (hw : w ∣ 1024)
    (hb : ∀ c v j, b.vBeat c v j = ((groupWrites vd k w rel res).map (·.pendV iss slot)).foldl (fun x e => e.apply (4 * v + j) c x) (a.vBeat c v j)) :
    LanesWritten a b w vd (fun g p => decide (g < k) && (resultAt res k g p).isSome) (fun _ p => iss + rel (p / (1024 / w)))
      (fun g p => (resultAt res k g p).getD 0) := by
  intro c v p hp
  obtain ⟨n, hn⟩ := hw
  have hw0 : 0 < w := Nat.pos_of_mul_pos_right (b := n) (by omega)
  have hdiv : 1024 / w = n := Nat.div_eq_of_eq_mul_right hw0 hn
  rw [hdiv] at hp ⊢
  have hj : p / n < 4 := Nat.div_lt_of_lt_mul (by rwa [Nat.mul_comm])
  refine Nat.eq_of_testBit_eq fun i => ?_
  rw [Tile.velem, hdiv, hb, foldl_groupWrites _ _ _ _ _ _ _ _ _ hj, testBit_laneAt, BitVec.testBit_toNat]
  have old : (a.velem c w v p).testBit i = (decide (i < w) && (a.vBeat c v (p / n)).getLsbD (i + p % n * w)) := by
    rw [Tile.velem, hdiv, testBit_laneAt, BitVec.testBit_toNat]
  by_cases hi : i < w
  swap
  · split_ifs <;> simp [hi, old]
  obtain ⟨hq, hr, hlt⟩ := lane_bit hn.symm p hi
  by_cases hv : vd ≤ v ∧ v - vd < k
  swap
  · rw [if_neg hv, if_neg (fun h => hv ⟨h.1, by simpa using (Bool.and_eq_true_iff.mp h.2.1).1⟩), old]
  have bits (x : Nat) : (BitVec.ofNat 1024 (bitsAt x (1024 * (p / n)) 1024)).getLsbD (i + p % n * w) = x.testBit (i + p * w) := by
    rw [BitVec.getLsbD_ofNat, testBit_bitsAt, decide_eq_true hlt, Bool.true_and, Bool.true_and]
    congr 1; omega
  have hm : ((groupBeat vd k w rel res (v - vd) (p / n)).pendV iss slot).mask.getLsbD (i + p % n * w) = (resultAt res k (v - vd) p).isSome :=
    (bits _).trans (testBit_packed_mask res p hv.2 hi)
  have hx : ((groupBeat vd k w rel res (v - vd) (p / n)).pendV iss slot).val.getLsbD (i + p % n * w)
      = ((resultAt res k (v - vd) p).getD 0).testBit i :=
    (bits _).trans (testBit_packed_val res p hv.2 hi)
  have hidx : ((groupBeat vd k w rel res (v - vd) (p / n)).pendV iss slot).idx = 4 * v + p / n :=
    show (vd + (v - vd)) * 4 + p / n = _ by omega
  rw [if_pos hv, PendWrite.getLsbD_apply _ _ _ _ hlt, hm, hx, decide_eq_true hi, Bool.true_and]
  by_cases h : (resultAt res k (v - vd) p).isSome = true ∧ iss + rel (p / n) ≤ c
  · rw [if_pos ⟨hidx, h⟩, if_pos ⟨hv.1, by simp [hv.2, h.1], h.2⟩, Nat.testBit_mod_two_pow, decide_eq_true hi, Bool.true_and]
  · rw [if_neg fun q => h q.2, if_neg fun q => h ⟨(Bool.and_eq_true_iff.mp q.2.1).2, q.2.2⟩, old, decide_eq_true hi, Bool.true_and]

end Sys2Proof.Machine

/-! What a vector instruction writes (R324 to R326). -/

namespace Sys2Proof.Machine

/-! Results by index. -/

theorem zipIdx_map_range {α : Type} (f : Nat → α) (n : Nat) : ((List.range n).map f).zipIdx = (List.range n).map fun i => (f i, i) := by
  apply List.ext_getElem <;> simp

theorem masked_map_range (m n : Nat) (f : Nat → Nat) :
    masked m ((List.range n).map f) = (List.range n).map fun i => if bitAt m i then some (f i) else none := by
  rw [masked, zipIdx_map_range, List.map_map]; rfl

theorem maskedFl_map_range (m n : Nat) (f : Nat → Flags) :
    maskedFl m ((List.range n).map f) = (List.range n).map fun i => if bitAt m i then f i else 0 := by
  rw [maskedFl, zipIdx_map_range, List.map_map]; rfl

theorem resultAt_masked (m n k g p : Nat) (f : Nat → Nat) :
    resultAt (masked m ((List.range n).map f)) k g p = if p * k + g < n ∧ bitAt m (p * k + g) = true then some (f (p * k + g)) else none := by
  rw [masked_map_range, resultAt, List.getD_eq_getElem?_getD, List.getElem?_map]
  by_cases h : p * k + g < n
  · rw [List.getElem?_range h]; simp [h]
  · rw [List.getElem?_eq_none (by simpa using h)]; simp [h]

theorem lanes_eq (w b v : Nat) : lanes w b v = (List.range (b * 1024 / w)).map (laneAt w v) := rfl

theorem zipWith_lanes {α : Type} (f : Nat → Nat → α) (w b va vb : Nat) :
    List.zipWith f (lanes w b va) (lanes w b vb) = (List.range (b * 1024 / w)).map fun i => f (laneAt w va i) (laneAt w vb i) := by
  rw [lanes_eq, lanes_eq, List.zipWith_map, List.zipWith_self]

/-! Widths, and the elements processed (R186, R324). -/

theorem tyWidth_cases (t : BitVec 3) : tyWidth t = 4 ∨ tyWidth t = 8 ∨ tyWidth t = 16 ∨ tyWidth t = 32 := by
  unfold tyWidth; split <;> simp

theorem tyWidth_dvd (t : BitVec 3) : tyWidth t ∣ 1024 := by
  rcases tyWidth_cases t with h | h | h | h <;> rw [h] <;> decide

theorem tyWidth_mul (t : BitVec 3) : tyWidth t * (1024 / tyWidth t) = 1024 := Nat.mul_div_cancel' (tyWidth_dvd t)

theorem vxCount_eq (o : VxOp) : vxCount o = o.nb * (1024 / tyWidth o.ty) := Nat.mul_div_assoc _ (tyWidth_dvd o.ty)

theorem vxCount_le (o : VxOp) : vxCount o ≤ 1024 := by
  have hb := o.beats.isLt
  rw [vxCount]
  rcases tyWidth_cases o.ty with h | h | h | h <;> rw [h] <;> omega

/-- An operand's element, of those processed. -/
theorem laneAt_operand {s : State} {o : VxOp} (r : BitVec 6) {i : Nat} (hi : i < vxCount o) :
    laneAt (tyWidth o.ty) (s.curTile.vreg s.cur.c r.toNat o.nb) i = s.elem o r i :=
  laneAt_vreg s.curTile s.cur.c r.toNat (tyWidth_mul o.ty) (vxCount_eq o ▸ hi)

theorem elem_lt (s : State) (o : VxOp) (r : BitVec 6) (i : Nat) : s.elem o r i < 2 ^ tyWidth o.ty := laneAt_lt _ _ _

/-- The mask field's active elements (R277, R325). -/
theorem bitAt_act (s : State) (o : VxOp) {i : Nat} (hi : i < 1024) : bitAt (s.curTile.act s.cur.c o) i = s.active o i := by
  rw [Tile.act, Tile.maskField, State.active]
  by_cases h : o.mask = 0
  · rw [if_pos h, bitAt_eq_testBit, Nat.testBit_two_pow_sub_one, decide_eq_true (by omega), beq_iff_eq.mpr h, Bool.true_or]
  · rw [if_neg h, beq_false_of_ne h, Bool.false_or]

/-! Results entered on the tile. -/

/-- The flags that a result sets, at their cycles. -/
def raisedFlags (iss : Nat) (fl : List (Nat × Flags)) : List (Nat × Flags) := (fl.filter fun f => f.2 != 0).map fun f => (iss + f.1, f.2)

theorem setFlags_all (iss : Nat) (fl : List (Nat × Flags)) (t : Tile) :
    fl.foldl (fun t f => t.setFlags (iss + f.1) f.2) t = { t with fp := t.fp ++ raisedFlags iss fl } := by
  induction fl generalizing t with
  | nil => simp [raisedFlags]
  | cons f fl ih =>
    have hc : raisedFlags iss (f :: fl) = if f.2 = 0 then raisedFlags iss fl else (iss + f.1, f.2) :: raisedFlags iss fl := by
      split_ifs with h
      · rw [raisedFlags, List.filter_cons_of_neg (by simp [h])]; rfl
      · rw [raisedFlags, List.filter_cons_of_pos (by simpa using h)]; rfl
    rw [List.foldl_cons, ih, hc, Tile.setFlags]
    split_ifs
    · rfl
    · simp only [List.append_assoc, List.singleton_append]

theorem pushOut_v (iss slot : Nat) {r : Out} (h : ∀ x ∈ r.ws, x.file = .v) (t : Tile) :
    t.pushOut iss slot r = { t with vp := t.vp ++ r.ws.map (·.pendV iss slot), fp := t.fp ++ raisedFlags iss r.fl } := by
  rw [Tile.pushOut, pushRWs_v iss slot h]
  exact setFlags_all iss r.fl _

theorem file_groupWrites (vd k w : Nat) (rel : Nat → Nat) (res : List (Option Nat)) : ∀ r ∈ groupWrites vd k w rel res, r.file = .v := by
  rintro r hr
  obtain ⟨g, -, j, -, -, rfl⟩ := mem_groupWrites.mp hr
  rfl

theorem LanesWritten.congr {a b : Tile} {w vd : Nat} {on on' : Nat → Nat → Bool} {rel rel' f f' : Nat → Nat → Nat}
    (h : LanesWritten a b w vd on rel f) (hon : ∀ g p, p < 4 * (1024 / w) → on g p = on' g p)
    (hf : ∀ g p, p < 4 * (1024 / w) → on' g p = true → rel g p = rel' g p ∧ f g p % 2 ^ w = f' g p % 2 ^ w) :
    LanesWritten a b w vd on' rel' f' := by
  intro c v p hp
  rw [h c v p hp, hon _ p hp]
  cases ho : on' (v - vd) p with
  | false => simp
  | true =>
    obtain ⟨hr, hv⟩ := hf (v - vd) p hp ho
    rw [hr, hv]

section
variable {s : State} {i : Instr} {o : VxOp} {res : Tile → Out}

/-- A VX instruction with no cause of its own occupies the engine and enters its result. -/
theorem acts_vxOp {r : Out} (own : NoOwnCause i) (hx : exec i s = vxOp i o s res) (hr : res s.curTile = r) (h : s.mayAct i = true) :
    Acts s i fun t => (t.useVx s.cur.c o).pushOut s.cur.c s.cur.slot r := by
  subst hr
  exact acts_of_noOwnCause own hx h

/-- A result of vector writes to a group of registers. -/
theorem gives_groupWrites {k w : Nat} {rel : Nat → Nat} {l : List (Option Nat)} (own : NoOwnCause i) (hx : exec i s = vxOp i o s res)
    (hr : res s.curTile = ⟨groupWrites o.vd.toNat k w rel l, []⟩) (hw : w ∣ 1024) (h : s.mayAct i = true) :
    Gives (exec i s) fun t => OnlyTile s t ∧ OnlyVectors o s.cur.c s.curTile t.curTile
      ∧ LanesWritten s.curTile t.curTile w o.vd.toNat (fun g p => decide (g < k) && (resultAt l k g p).isSome)
          (fun _ p => s.cur.c + rel (p / (1024 / w))) (fun g p => (resultAt l k g p).getD 0) := by
  obtain ⟨t, hn, ho, ht⟩ := acts_vxOp own hx hr h
  replace ht := ht.trans (pushOut_v _ _ (file_groupWrites _ _ _ _ _) _)
  refine ⟨t, hn, ho, ?_, ?_⟩ <;> rw [ht]
  · exact ⟨rfl, by simp [raisedFlags, Tile.useVx]⟩
  · exact lanesWritten_groupWrites hw fun c v j => List.foldl_append

/-- A result of elements of the operands' width, under any mask. -/
theorem gives_laneOut {lat m N : Nat} {f : Nat → Nat} (own : NoOwnCause i) (hx : exec i s = vxOp i o s res)
    (hr : res s.curTile = laneOut o.vd.toNat (tyWidth o.ty) o.nb lat m ((List.range N).map f)) (h : s.mayAct i = true) :
    Gives (exec i s) fun t => OnlyTile s t ∧ OnlyVectors o s.cur.c s.curTile t.curTile
      ∧ LanesWritten s.curTile t.curTile (tyWidth o.ty) o.vd.toNat (fun g p => g == 0 && decide (p < N) && bitAt m p)
          (fun _ p => s.cur.c + lat + p / (1024 / tyWidth o.ty)) (fun _ p => f p) := by
  obtain ⟨t, hn, ho, hv, hl⟩ := gives_groupWrites own hx hr (tyWidth_dvd o.ty) h
  refine ⟨t, hn, ho, hv, hl.congr (fun g p _ => ?_) fun g p _ hon => ?_⟩
  · rw [resultAt_masked]
    rcases Nat.eq_zero_or_pos g with rfl | hg
    · by_cases hp : p < N <;> cases hm : bitAt m p <;> simp [hp, hm]
    · simp [Nat.ne_of_gt hg, Nat.not_lt.mpr hg]
  · obtain ⟨⟨rfl, hp⟩, hm⟩ : (g = 0 ∧ p < N) ∧ bitAt m p = true := by simpa using hon
    rw [resultAt_masked]
    exact ⟨(Nat.add_assoc _ _ _).symm, by simp [hp, hm]⟩

/-- Each active element takes the value that its index gives. -/
theorem writesLanes_of {lat : Nat} {f v : Nat → Nat} (own : NoOwnCause i) (hx : exec i s = vxOp i o s res)
    (hr : res s.curTile = laneOut o.vd.toNat (tyWidth o.ty) o.nb lat (s.curTile.act s.cur.c o) ((List.range (vxCount o)).map f))
    (hv : ∀ p < vxCount o, f p % 2 ^ tyWidth o.ty = v p % 2 ^ tyWidth o.ty) (h : s.mayAct i = true) : WritesLanes s i o lat v := by
  obtain ⟨t, hn, ho, hvec, hl⟩ := gives_laneOut own hx hr h
  refine ⟨t, hn, ho, hvec, hl.congr (fun g p _ => ?_) fun g p _ hon => ⟨rfl, hv p (by simp at hon; exact hon.1.2)⟩⟩
  by_cases hp : p < vxCount o
  · rw [bitAt_act s o (hp.trans_le (vxCount_le o))]
  · simp [hp]

end

end Sys2Proof.Machine

/-! Integer lanes (R330, R331): the engine's operations as the rules write them. -/

namespace Sys2Proof.Machine

/-! Patterns of `w` bits, and their signed reading. -/

theorem wrapN_natCast (w n : Nat) : wrapN w (n : Int) = n % 2 ^ w := by
  rw [wrapN, ← Int.natCast_mod, Int.toNat_natCast]

theorem natCast_wrapN (w : Nat) (i : Int) : (wrapN w i : Int) = i % 2 ^ w := by
  rw [wrapN, Int.toNat_of_nonneg (Int.emod_nonneg _ (by positivity)), Nat.cast_pow, Nat.cast_ofNat]

theorem wrapN_lt (w : Nat) (i : Int) : wrapN w i < 2 ^ w := by
  have := Int.emod_lt_of_pos i (show (0 : Int) < 2 ^ w by positivity)
  rw [← natCast_wrapN] at this
  exact_mod_cast this

/-- Integers that differ by a multiple of 2^w have one pattern. -/
theorem wrapN_congr {w : Nat} {i j : Int} (h : i ≡ j [ZMOD 2 ^ w]) : wrapN w i = wrapN w j := by
  apply Int.ofNat.inj
  show (wrapN w i : Int) = wrapN w j
  rw [natCast_wrapN, natCast_wrapN, h]

/-- A pattern plus that of an integer is the pattern of the sum. -/
theorem wrapN_natCast_add (w a : Nat) (i : Int) : wrapN w (a + i) = (a + wrapN w i) % 2 ^ w := by
  rw [← wrapN_natCast, Nat.cast_add, natCast_wrapN]
  exact wrapN_congr (Int.ModEq.rfl.add (Int.mod_modEq i _).symm)

theorem sInt_modEq (w a : Nat) : sInt w a ≡ a [ZMOD 2 ^ w] := by
  unfold sInt
  split_ifs
  · rfl
  · rw [Nat.cast_pow, Nat.cast_ofNat]; exact Int.sub_emod_right _ _

theorem sInt_injOn {w a b : Nat} (ha : a < 2 ^ w) (hb : b < 2 ^ w) (h : sInt w a = sInt w b) : a = b := by
  have hm : (a : Int) ≡ b [ZMOD 2 ^ w] := (sInt_modEq w a).symm.trans (h ▸ sInt_modEq w b)
  have := wrapN_congr hm
  rwa [wrapN_natCast, wrapN_natCast, Nat.mod_eq_of_lt ha, Nat.mod_eq_of_lt hb] at this

/-! One lemma for each operation whose definition is not the rule's own words. -/

theorem lane_sub_eq {w a b : Nat} (hb : b < 2 ^ w) : lane_sub w a b = wrapN w ((a : Int) - b) := by
  have h : ((a + (2 ^ w - b) : Nat) : Int) ≡ (a : Int) - b [ZMOD 2 ^ w] := by
    rw [Nat.cast_add, Nat.cast_sub hb.le, Nat.cast_pow, Nat.cast_ofNat, Int.ModEq, show (a : Int) + (2 ^ w - b) = a - b + 2 ^ w by ring, Int.add_emod_right]
  rw [lane_sub, ← wrapN_natCast, wrapN_congr h]

theorem clampInt_eq {lo hi : Int} (h : lo ≤ hi) (i : Int) : clampInt lo hi i = max lo (min hi i) := by
  unfold clampInt; split_ifs <;> omega

theorem satPat_signed (w : Nat) (i : Int) : satPat w true i = satS w i := by
  have := Nat.two_pow_pos (w - 1)
  rw [satPat, satS, clampInt_eq (by simp only [intMin, intMax, if_true]; omega)]; rfl

theorem satPat_unsigned (w : Nat) (i : Int) : satPat w false i = satU w i := by
  have := Nat.two_pow_pos w
  rw [satPat, satU, clampInt_eq (by simp only [intMin, intMax, Bool.false_eq_true, if_false]; omega)]; rfl

/-- The low half of a product is the same for signed and unsigned elements. -/
theorem wrapN_mul_sInt (w a b : Nat) : wrapN w (sInt w a * sInt w b) = a * b % 2 ^ w := by
  rw [wrapN_congr ((sInt_modEq w a).mul (sInt_modEq w b)), ← Nat.cast_mul, wrapN_natCast]

theorem lane_andn_eq {w a b : Nat} (ha : a < 2 ^ w) (hb : b < 2 ^ w) : lane_andn w a b = a - (a &&& b) := by
  let x : BitVec w := BitVec.ofNatLT a ha
  let y : BitVec w := BitVec.ofNatLT b hb
  have disjoint : (x &&& ~~~y) &&& (x &&& y) = 0#w := by
    ext k hk; simp only [BitVec.getElem_and, BitVec.getElem_not, BitVec.getElem_zero]; cases y[k] <;> simp
  have split : (x &&& ~~~y) ||| (x &&& y) = x := by
    ext k hk; simp only [BitVec.getElem_or, BitVec.getElem_and, BitVec.getElem_not]; cases y[k] <;> simp
  have sum := congrArg BitVec.toNat split
  rw [← BitVec.add_eq_or_of_and_eq_zero _ _ disjoint, BitVec.toNat_add_of_and_eq_zero disjoint, BitVec.toNat_and, BitVec.toNat_and, BitVec.toNat_not] at sum
  exact Nat.eq_sub_of_add_eq sum

theorem minPat_eq {w a b : Nat} (ha : a < 2 ^ w) (hb : b < 2 ^ w) : (if sInt w a ≤ sInt w b then a else b) = if sInt w a < sInt w b then a else b := by
  rcases lt_trichotomy (sInt w a) (sInt w b) with h | h | h
  · rw [if_pos h.le, if_pos h]
  · rw [if_pos h.le, if_neg h.not_lt, sInt_injOn ha hb h]
  · rw [if_neg h.not_ge, if_neg h.not_gt]

theorem maxPat_eq {w a b : Nat} (ha : a < 2 ^ w) (hb : b < 2 ^ w) : (if sInt w a ≤ sInt w b then b else a) = if sInt w a < sInt w b then b else a := by
  rcases lt_trichotomy (sInt w a) (sInt w b) with h | h | h
  · rw [if_pos h.le, if_pos h]
  · rw [if_pos h.le, if_neg h.not_lt, sInt_injOn ha hb h]
  · rw [if_neg h.not_ge, if_neg h.not_gt]

theorem clzW_eq {w a : Nat} (ha : a < 2 ^ w) : clzW w a = if a = 0 then w else w - 1 - Nat.log2 a := by
  rw [clzW, Nat.mod_eq_of_lt ha, bitLen]
  split_ifs <;> omega

theorem popCount_eq (w a : Nat) : popCount w a = ((List.range w).filter fun k => bitAt a k).length := by
  simp only [popCount_eq_countP, bitAt_eq_testBit]

theorem sraW_eq (w a n : Nat) : sraW w a n = wrapN w (sInt w a / 2 ^ n) := by
  rw [sraW, Nat.cast_pow, Nat.cast_ofNat]

theorem lane_abs_eq (w a : Nat) : lane_abs w a = (sInt w a).natAbs % 2 ^ w := wrapN_natCast w _

/-- The count of an immediate shift (R330). -/
theorem shiftCount_eq (o : VxOp) : o.n 4 0 = o.md.toNat % 32 := congrArg (· % 32) (Nat.div_one _)

/-! Shapes of effect. -/

section
variable {s : State} {i : Instr} {o : VxOp}

theorem intLanes2_eq (o : VxOp) (va vb m : Nat) (f : Nat → Nat → Nat → Nat) : intLanes2 o va vb m f = laneOut o.vd.toNat (tyWidth o.ty) o.nb 2 m
    ((List.range (vxCount o)).map fun p => f (tyWidth o.ty) (laneAt (tyWidth o.ty) va p) (laneAt (tyWidth o.ty) vb p)) := by
  simp only [intLanes2, zipWith_lanes]; rfl

theorem intLanes1_eq (o : VxOp) (va m : Nat) (f : Nat → Nat → Nat) : intLanes1 o va m f = laneOut o.vd.toNat (tyWidth o.ty) o.nb 2 m
    ((List.range (vxCount o)).map fun p => f (tyWidth o.ty) (laneAt (tyWidth o.ty) va p)) := by
  simp only [intLanes1, lanes_eq, List.map_map]; rfl

theorem writesLanes_int2 {f : Nat → Nat → Nat → Nat} {v : Nat → Nat} (own : NoOwnCause i)
    (hx : exec i s = vxOp i o s fun t => t.int2 s.cur.c o f)
    (hv : ∀ p, f (tyWidth o.ty) (s.elem o o.va p) (s.elem o o.vb p) % 2 ^ tyWidth o.ty = v p % 2 ^ tyWidth o.ty) (h : s.mayAct i = true) :
    WritesLanes s i o 2 v :=
  writesLanes_of own hx (intLanes2_eq _ _ _ _ _) (fun p hp => by rw [Tile.vx1, Tile.vx2, laneAt_operand o.va hp, laneAt_operand o.vb hp, hv]) h

theorem writesLanes_int1 {f : Nat → Nat → Nat} {v : Nat → Nat} (own : NoOwnCause i)
    (hx : exec i s = vxOp i o s fun t => t.int1 s.cur.c o f)
    (hv : ∀ p, f (tyWidth o.ty) (s.elem o o.va p) % 2 ^ tyWidth o.ty = v p % 2 ^ tyWidth o.ty) (h : s.mayAct i = true) :
    WritesLanes s i o 2 v :=
  writesLanes_of own hx (intLanes1_eq _ _ _ _) (fun p hp => by rw [Tile.vx1, laneAt_operand o.va hp, hv]) h

/-- The exact product of two elements, as a pattern of twice their width (R331). -/
def widePattern (w : Nat) (sg : Bool) (x y : Nat) : Nat := if sg then wrapN (2 * w) (sInt w x * sInt w y) else x * y

theorem Tile.wide_product (t : Tile) (c : Nat) (o : VxOp) (sg : Bool) :
    t.wide c o sg false = ⟨groupWrites o.vd.toNat 2 (2 * tyWidth o.ty) (2 + ·) (masked (t.act c o) ((List.range (vxCount o)).map fun p =>
      widePattern (tyWidth o.ty) sg (laneAt (tyWidth o.ty) (t.vx1 c o) p) (laneAt (tyWidth o.ty) (t.vx2 c o) p))), []⟩ := by
  simp only [Tile.wide, wideMul, zipWith_lanes]; rfl

theorem Tile.wide_sum (t : Tile) (c : Nat) (o : VxOp) (sg : Bool) :
    t.wide c o sg true = ⟨groupWrites o.vd.toNat 2 (2 * tyWidth o.ty) (2 + ·) (masked (t.act c o) ((List.range (vxCount o)).map fun p =>
      (laneAt (2 * tyWidth o.ty) (if p % 2 = 0 then t.vreg c o.vd.toNat o.nb else t.vreg c (o.vd.toNat + 1) o.nb) (p / 2)
        + widePattern (tyWidth o.ty) sg (laneAt (tyWidth o.ty) (t.vx1 c o) p) (laneAt (tyWidth o.ty) (t.vx2 c o) p)) % 2 ^ (2 * tyWidth o.ty))), []⟩ := by
  simp only [Tile.wide, wideMul, zipWith_lanes, if_true, zipIdx_map_range, List.map_map]; rfl

theorem two_tyWidth_dvd (t : BitVec 3) : 2 * tyWidth t ∣ 1024 := by
  rcases tyWidth_cases t with h | h | h | h <;> rw [h] <;> decide

/-- The pair that an accumulating form adds, element by element (R331). -/
theorem laneAt_pair (t : Tile) (c : Nat) {o : VxOp} {p : Nat} (hp : p < vxCount o) :
    laneAt (2 * tyWidth o.ty) (if p % 2 = 0 then t.vreg c o.vd.toNat o.nb else t.vreg c (o.vd.toNat + 1) o.nb) (p / 2)
      = t.velem c (2 * tyWidth o.ty) (o.vd.toNat + p % 2) (p / 2) := by
  have hm : 2 * tyWidth o.ty * (1024 / (2 * tyWidth o.ty)) = 1024 := Nat.mul_div_cancel' (two_tyWidth_dvd o.ty)
  have hi : p / 2 < o.nb * (1024 / (2 * tyWidth o.ty)) := by
    rw [vxCount_eq] at hp
    rcases tyWidth_cases o.ty with h | h | h | h <;> rw [h] at hp ⊢ <;> omega
  rcases Nat.mod_two_eq_zero_or_one p with h | h
  · rw [h, if_pos rfl]; exact laneAt_vreg t c _ hm hi
  · rw [h, if_neg one_ne_zero]; exact laneAt_vreg t c _ hm hi

/-- A widening form writes the pair Vd, Vd + 1, result i at position i div 2 of register Vd + i mod 2, beat j at c + 2 + j, and nothing else (R331). -/
def WritesPair (s : State) (i : Instr) (o : VxOp) (v : Nat → Nat) : Prop :=
  Gives (exec i s) fun t => OnlyTile s t ∧ OnlyVectors o s.cur.c s.curTile t.curTile
    ∧ LanesWritten s.curTile t.curTile (2 * tyWidth o.ty) o.vd.toNat
        (fun g p => decide (g < 2) && decide (2 * p + g < vxCount o) && s.active o (2 * p + g))
        (fun _ p => s.cur.c + 2 + p / (1024 / (2 * tyWidth o.ty))) (fun g p => v (2 * p + g))

theorem writesPair_of {res : Tile → Out} {f v : Nat → Nat} (own : NoOwnCause i) (hx : exec i s = vxOp i o s res)
    (hr : res s.curTile = ⟨groupWrites o.vd.toNat 2 (2 * tyWidth o.ty) (2 + ·) (masked (s.curTile.act s.cur.c o) ((List.range (vxCount o)).map f)), []⟩)
    (hv : ∀ p < vxCount o, f p % 2 ^ (2 * tyWidth o.ty) = v p % 2 ^ (2 * tyWidth o.ty)) (h : s.mayAct i = true) :
    WritesPair s i o v := by
  obtain ⟨t, hn, ho, hvec, hl⟩ := gives_groupWrites own hx hr (two_tyWidth_dvd o.ty) h
  have act (q : Nat) (hq : q < vxCount o) := bitAt_act s o (hq.trans_le (vxCount_le o))
  refine ⟨t, hn, ho, hvec, hl.congr (fun g p _ => ?_) fun g p _ hon => ?_⟩
  · rw [resultAt_masked, Nat.mul_comm p 2]
    by_cases hq : 2 * p + g < vxCount o
    · rw [act _ hq]; cases s.active o (2 * p + g) <;> simp [hq]
    · simp [hq]
  · obtain ⟨⟨-, hq⟩, ha⟩ : (g < 2 ∧ 2 * p + g < vxCount o) ∧ s.active o (2 * p + g) = true := by simpa using hon
    rw [resultAt_masked, Nat.mul_comm p 2, if_pos ⟨hq, act _ hq ▸ ha⟩]
    exact ⟨(Nat.add_assoc _ _ _).symm, hv _ hq⟩

/-- A widening product. -/
theorem writesPair_product {sg : Bool} (v : Nat → Nat) (own : NoOwnCause i) (hx : exec i s = vxOp i o s fun t => t.wide s.cur.c o sg false)
    (hv : ∀ p, widePattern (tyWidth o.ty) sg (s.elem o o.va p) (s.elem o o.vb p) % 2 ^ (2 * tyWidth o.ty) = v p % 2 ^ (2 * tyWidth o.ty))
    (h : s.mayAct i = true) : WritesPair s i o v :=
  writesPair_of own hx (Tile.wide_product _ _ _ _)
    (fun p hp => by rw [Tile.vx1, Tile.vx2, laneAt_operand o.va hp, laneAt_operand o.vb hp]; exact hv p) h

/-- A widening product added to the pair, as read at c. -/
theorem writesPair_sum {sg : Bool} (v : Nat → Nat) (own : NoOwnCause i) (hx : exec i s = vxOp i o s fun t => t.wide s.cur.c o sg true)
    (hv : ∀ p, (s.curTile.velem s.cur.c (2 * tyWidth o.ty) (o.vd.toNat + p % 2) (p / 2)
      + widePattern (tyWidth o.ty) sg (s.elem o o.va p) (s.elem o o.vb p)) % 2 ^ (2 * tyWidth o.ty) = v p % 2 ^ (2 * tyWidth o.ty))
    (h : s.mayAct i = true) : WritesPair s i o v :=
  writesPair_of own hx (Tile.wide_sum _ _ _ _)
    (fun p hp => by rw [laneAt_pair _ _ hp, Tile.vx1, Tile.vx2, laneAt_operand o.va hp, laneAt_operand o.vb hp, Nat.mod_mod]; exact hv p) h

end

/-- Settles O20: each form maps one lane operation over its operands' elements, or writes the pair of its exact products or sums. -/
theorem vectorIntegerLanes : Obligations.VectorIntegerLanes := by
  refine ⟨?_, ?_⟩
  · intro s o w a b sa sb n forms
    have ha (p : Nat) : s.elem o o.va p < 2 ^ tyWidth o.ty := elem_lt s o o.va p
    have hb (p : Nat) : s.elem o o.vb p < 2 ^ tyWidth o.ty := elem_lt s o o.vb p
    have hn : o.n 4 0 = n := shiftCount_eq o
    simp only [forms, List.forall_mem_cons]
    exact ⟨writesLanes_int2 (fun _ _ => rfl) rfl fun _ => Nat.mod_mod _ _,
      writesLanes_int2 (fun _ _ => rfl) rfl fun p => by rw [lane_sub_eq (hb p)],
      writesLanes_int2 (fun _ _ => rfl) rfl fun _ => by rw [satPat_signed],
      writesLanes_int2 (fun _ _ => rfl) rfl fun _ => by rw [satPat_signed],
      writesLanes_int2 (fun _ _ => rfl) rfl fun _ => by rw [satPat_unsigned],
      writesLanes_int2 (fun _ _ => rfl) rfl fun _ => by rw [satPat_unsigned],
      writesLanes_int2 (fun _ _ => rfl) rfl fun _ => by rw [wrapN_mul_sInt],
      writesLanes_int2 (fun _ _ => rfl) rfl fun _ => by rw [Nat.cast_pow, Nat.cast_ofNat],
      writesLanes_int2 (fun _ _ => rfl) rfl fun _ => rfl,
      writesLanes_int2 (fun _ _ => rfl) rfl fun _ => rfl,
      writesLanes_int2 (fun _ _ => rfl) rfl fun _ => rfl,
      writesLanes_int2 (fun _ _ => rfl) rfl fun _ => rfl,
      writesLanes_int2 (fun _ _ => rfl) rfl fun p => by rw [lane_andn_eq (ha p) (hb p)],
      writesLanes_int2 (fun _ _ => rfl) rfl fun _ => Nat.mod_mod _ _,
      writesLanes_int2 (fun _ _ => rfl) rfl fun _ => rfl,
      writesLanes_int2 (fun _ _ => rfl) rfl fun _ => by rw [sraW_eq],
      writesLanes_int1 (fun _ _ => rfl) rfl fun _ => by rw [shlW, hn, Nat.mod_mod],
      writesLanes_int1 (fun _ _ => rfl) rfl fun _ => by rw [shrW, hn],
      writesLanes_int1 (fun _ _ => rfl) rfl fun _ => by rw [sraW_eq, hn],
      writesLanes_int2 (fun _ _ => rfl) rfl fun p => by rw [minPat_eq (ha p) (hb p)],
      writesLanes_int2 (fun _ _ => rfl) rfl fun p => by rw [maxPat_eq (ha p) (hb p)],
      writesLanes_int2 (fun _ _ => rfl) rfl fun _ => rfl,
      writesLanes_int2 (fun _ _ => rfl) rfl fun _ => rfl,
      writesLanes_int1 (fun _ _ => rfl) rfl fun _ => by rw [lane_abs_eq, Nat.mod_mod],
      writesLanes_int2 (fun _ _ => rfl) rfl fun _ => rfl,
      writesLanes_int1 (fun _ _ => rfl) rfl fun p => by rw [clzW_eq (ha p)],
      writesLanes_int1 (fun _ _ => rfl) rfl fun _ => by rw [popCount_eq],
      List.forall_mem_nil _⟩
  · intro s o w a b acc sp forms _
    simp only [forms, List.forall_mem_cons]
    have sum (p : Nat) : (acc p + wrapN (2 * w) (sp p)) % 2 ^ (2 * w) = wrapN (2 * w) (acc p + sp p) % 2 ^ (2 * w) := by
      rw [wrapN_natCast_add, Nat.mod_mod]
    exact ⟨writesPair_product (fun p => wrapN (2 * w) (sp p)) (fun _ _ => rfl) rfl fun _ => rfl,
      writesPair_product (fun p => a p * b p) (fun _ _ => rfl) rfl fun _ => rfl,
      writesPair_sum (fun p => wrapN (2 * w) (acc p + sp p)) (fun _ _ => rfl) rfl sum,
      writesPair_sum (fun p => acc p + a p * b p) (fun _ _ => rfl) rfl fun _ => rfl,
      List.forall_mem_nil _⟩

end Sys2Proof.Machine

/-! Mask results, flags by beat and scalar results of the vector engine (R326, R334, R335). -/

namespace Sys2Proof.Machine

/-! Flags. -/

theorem getLsbD_noFlags (k : Nat) : (0 : Flags).getLsbD k = false := BitVec.getLsbD_zero

theorem getLsbD_flagsBetween (l : List (Nat × Flags)) (c k : Nat) :
    (flagsBetween l 0 c).getLsbD k = l.any fun e => decide (e.1 ≤ c) && e.2.getLsbD k := by
  have h : flagsBetween l 0 c = l.foldl (fun acc e => acc ||| if e.1 ≤ c then e.2 else 0) 0 := by
    rw [flagsBetween]
    congr 1; funext acc e
    by_cases he : e.1 ≤ c <;> simp [he]
  rw [h, getLsbD_foldl_or, getLsbD_noFlags, Bool.false_or]
  congr 1; funext e
  by_cases he : e.1 ≤ c <;> simp [he]

/-- The flags of one beat of `n` elements. -/
def flagsOfBeat (n : Nat) (fl : List Flags) (j : Nat) : Flags := ((fl.drop (j * n)).take n).foldl (· ||| ·) 0

theorem getLsbD_flagsOfBeat {n : Nat} (hn : 0 < n) (N : Nat) (f : Nat → Flags) (j k : Nat) :
    (flagsOfBeat n ((List.range N).map f) j).getLsbD k = true ↔ ∃ i < N, i / n = j ∧ (f i).getLsbD k = true := by
  rw [flagsOfBeat, getLsbD_foldl_or, getLsbD_noFlags, Bool.false_or, List.any_eq_true]
  simp only [List.mem_iff_getElem?, List.getElem?_take, List.getElem?_drop, List.getElem?_map]
  constructor
  · rintro ⟨x, ⟨q, hq⟩, hx⟩
    split_ifs at hq with hqn
    obtain ⟨i, hi, rfl⟩ := Option.map_eq_some_iff.mp hq
    obtain ⟨hlt, rfl⟩ : j * n + q < N ∧ j * n + q = i := by simpa [List.getElem?_eq_some_iff] using hi
    exact ⟨_, hlt, by rw [Nat.mul_comm, Nat.mul_add_div hn, Nat.div_eq_of_lt hqn]; rfl, hx⟩
  · rintro ⟨i, hi, rfl, hx⟩
    refine ⟨f i, ⟨i % n, ?_⟩, hx⟩
    rw [if_pos (Nat.mod_lt i hn), Nat.mul_comm, Nat.div_add_mod, List.getElem?_range hi]; rfl

theorem mem_raisedFlags_beatFlags {iss nb lat n : Nat} {fl : List Flags} {e : Nat × Flags} :
    e ∈ raisedFlags iss (beatFlags nb lat n fl) ↔ ∃ j < nb, flagsOfBeat n fl j ≠ 0 ∧ e = (iss + (lat + j), flagsOfBeat n fl j) := by
  have hb : beatFlags nb lat n fl = (List.range nb).filterMap fun j => if flagsOfBeat n fl j = 0 then none else some (lat + j, flagsOfBeat n fl j) := rfl
  rw [raisedFlags, hb]
  simp only [List.mem_map, List.mem_filter, List.mem_filterMap, List.mem_range, Option.ite_none_left_eq_some, Option.some.injEq, bne_iff_ne]
  constructor
  · rintro ⟨-, ⟨⟨j, hj, hne, rfl⟩, -⟩, rfl⟩
    exact ⟨j, hj, hne, rfl⟩
  · rintro ⟨j, hj, hne, rfl⟩
    exact ⟨_, ⟨⟨j, hj, hne, rfl⟩, hne⟩, rfl⟩

/-- Flags entered by beat are taken element by element, each at its beat's cycle (R326). -/
theorem flagsTaken_of_beatFlags {a b : Tile} {iss nb lat n N : Nat} {on : Nat → Bool} {f : Nat → Flags} (hn : 0 < n) (hN : N ≤ nb * n)
    (hfp : b.fp = a.fp ++ raisedFlags iss (beatFlags nb lat n ((List.range N).map fun i => if on i then f i else 0))) :
    FlagsTaken a b N on (fun p => iss + lat + p / n) f := by
  intro c
  refine BitVec.eq_of_getLsbD_eq fun k _ => ?_
  rw [hfp, getLsbD_flagsBetween, List.any_append, getLsbD_foldl_or, getLsbD_flagsBetween]
  congr 1
  have bit (i : Nat) : (if on i = true then f i else 0).getLsbD k = (on i && (f i).getLsbD k) := by cases on i <;> simp
  rw [Bool.eq_iff_iff, List.any_eq_true, List.any_eq_true]
  constructor
  · rintro ⟨e, he, hc⟩
    obtain ⟨j, -, -, rfl⟩ := mem_raisedFlags_beatFlags.mp he
    obtain ⟨hle, hbeat⟩ := Bool.and_eq_true_iff.mp hc
    obtain ⟨i, hi, rfl, hf⟩ := (getLsbD_flagsOfBeat hn _ _ _ _).mp hbeat
    rw [bit] at hf
    obtain ⟨hon, hf⟩ := Bool.and_eq_true_iff.mp hf
    exact ⟨i, by simp [hi, hon, Nat.add_assoc, of_decide_eq_true hle], hf⟩
  · rintro ⟨i, hi, hk⟩
    obtain ⟨hi, hon, hc⟩ : i < N ∧ on i = true ∧ iss + lat + i / n ≤ c := by simpa using hi
    have hF := (getLsbD_flagsOfBeat hn N (fun i => if on i then f i else 0) (i / n) k).mpr ⟨i, hi, rfl, by rw [bit, hon, hk]; rfl⟩
    refine ⟨_, mem_raisedFlags_beatFlags.mpr ⟨i / n, Nat.div_lt_of_lt_mul (by rw [Nat.mul_comm]; omega), ?_, rfl⟩, ?_⟩
    · intro h0; rw [h0] at hF; simp at hF
    · rw [hF, decide_eq_true (by rw [← Nat.add_assoc]; exact hc)]; rfl

/-! Masks. -/

theorem testBit_allOnes {k : Nat} (hk : k < 1024) : allOnes.testBit k = true := by
  rw [allOnes, Nat.testBit_two_pow_sub_one, decide_eq_true hk]

/-- The write of a compare's or a mask operation's result. -/
theorem pushOut_m (t : Tile) (iss slot d off mask val : Nat) (fl : List (Nat × Flags)) :
    t.pushOut iss slot ⟨[⟨.m, d, off, mask, val⟩], fl⟩ = { t with
      m := t.m.push ⟨d, iss, slot, iss + off, BitVec.ofNat 1024 mask, BitVec.ofNat 1024 val⟩, fp := t.fp ++ raisedFlags iss fl } :=
  setFlags_all iss fl _

theorem maskWritten_push {a b : Tile} {d iss slot av mask val : Nat} {on f : Nat → Bool}
    (hb : b.m = a.m.push ⟨d, iss, slot, av, BitVec.ofNat 1024 mask, BitVec.ofNat 1024 val⟩)
    (hm : ∀ k < 1024, mask.testBit k = on k) (hv : ∀ k < 1024, on k = true → val.testBit k = f k) : MaskWritten a b d av on f := by
  intro c i k hk
  rw [Tile.mreg, Tile.mreg, bitAt_eq_testBit, bitAt_eq_testBit, BitVec.testBit_toNat, BitVec.testBit_toNat, hb, RegFile.read_push,
    PendWrite.getLsbD_apply _ _ _ _ hk, BitVec.getLsbD_ofNat, BitVec.getLsbD_ofNat, decide_eq_true hk, Bool.true_and, Bool.true_and, hm k hk]
  by_cases h : i = d ∧ on k = true ∧ av ≤ c
  · rw [if_pos h, if_pos ⟨h.1.symm, h.2⟩, hv k hk h.2.1]
  · rw [if_neg h, if_neg fun q => h ⟨q.1.symm, q.2⟩]

/-- Of the places below `N` that `p` selects, those where `q` holds, as a number's bits. -/
theorem testBit_foldl_places (N : Nat) (p q : Nat → Bool) (k : Nat) :
    (((List.range N).filter p).foldl (fun acc i => acc ||| if q i then 2 ^ i else 0) 0).testBit k = (decide (k < N) && p k && q k) := by
  have place (i : Nat) : (if q i then 2 ^ i else 0).testBit k = (decide (i = k) && q i) := by cases q i <;> simp [Nat.testBit_two_pow]
  simp only [testBit_foldl_or, Nat.zero_testBit, Bool.false_or, place]
  rw [Bool.eq_iff_iff, List.any_eq_true]
  constructor
  · rintro ⟨i, hi, h⟩
    obtain ⟨rfl, hq⟩ : i = k ∧ q i = true := by simpa using h
    simpa [hq] using hi
  · intro h
    obtain ⟨⟨hk, hp⟩, hq⟩ : (k < N ∧ p k = true) ∧ q k = true := by simpa using h
    exact ⟨k, by simp [hk, hp], by simp [hq]⟩

/-- The bits of a compare's write: those of the active elements, and of these the ones whose test holds. -/
theorem maskOut_eq (md b w m N : Nat) (f : Nat → Bool × Flags) :
    ∃ mask val, maskOut md b w m ((List.range N).map f)
        = ⟨[⟨.m, md, 1 + b, mask, val⟩], beatFlags b 2 (1024 / w) ((List.range N).map fun i => if bitAt m i then (f i).2 else 0)⟩
      ∧ (∀ k, mask.testBit k = (decide (k < N) && bitAt m k)) ∧ ∀ k, val.testBit k = (decide (k < N) && bitAt m k && (f k).1) := by
  have hon : (((List.range N).map f).zipIdx.filter fun e => bitAt m e.2) = ((List.range N).filter (bitAt m)).map fun i => (f i, i) := by
    rw [zipIdx_map_range, List.filter_map]; rfl
  refine ⟨_, _, congrArg _ (congrArg (beatFlags b 2 (1024 / w)) ?_), fun k => ?_, fun k => ?_⟩
  · rw [List.map_map, maskedFl_map_range]; rfl
  · rw [hon, List.foldl_map]
    simpa using testBit_foldl_places N (bitAt m) (fun _ => true) k
  · have or_if (acc i : Nat) : (if (f i).1 = true then acc ||| 2 ^ i else acc) = acc ||| if (f i).1 then 2 ^ i else 0 := by
      cases (f i).1 <;> simp
    simp only [hon, List.foldl_map, or_if]
    exact testBit_foldl_places N (bitAt m) (fun i => (f i).1) k

/-! Shapes of effect. -/

section
variable {s : State} {i : Instr} {o : VxOp} {res : Tile → Out}

/-- A compare's shape: each selected bit takes its test at c + 1 + b, with its flags by beat. -/
theorem writesMaskBits_of {m : Nat} {on : Nat → Bool} {f v : Nat → Bool × Flags} (own : NoOwnCause i) (hx : exec i s = vxOp i o s res)
    (hr : res s.curTile = maskOut (o.vd.toNat % 8) o.nb (tyWidth o.ty) m ((List.range (vxCount o)).map f))
    (hon : ∀ p < 1024, bitAt m p = on p) (hv : ∀ p < vxCount o, f p = v p) (h : s.mayAct i = true) : WritesMaskBits s i o on v := by
  obtain ⟨mask, val, heq, hmask, hval⟩ := maskOut_eq (o.vd.toNat % 8) o.nb (tyWidth o.ty) m (vxCount o) f
  obtain ⟨t, hn, ho, ht⟩ := acts_vxOp own hx (hr.trans heq) h
  replace ht := ht.trans (pushOut_m _ _ _ _ _ _ _ _)
  have hlt : ∀ p < vxCount o, p < 1024 := fun p hp => hp.trans_le (vxCount_le o)
  have hpos : 0 < 1024 / tyWidth o.ty := Nat.pos_of_mul_pos_left (a := tyWidth o.ty) (by rw [tyWidth_mul]; decide)
  refine ⟨t, hn, ho, ?_, ?_, ?_⟩
  · rw [ht]; exact ⟨rfl, rfl⟩
  · rw [show s.cur.c + o.beats.toNat + 2 = s.cur.c + (1 + o.nb) by rw [VxOp.nb]; omega]
    refine maskWritten_push (congrArg Tile.m ht) (fun k hk => by rw [hmask, hon k hk]) fun k hk hsel => ?_
    obtain ⟨hkE, hkon⟩ : k < vxCount o ∧ on k = true := by simpa using hsel
    rw [hval, hon k hk, decide_eq_true hkE, hkon, hv k hkE]; rfl
  · refine flagsTaken_of_beatFlags hpos (vxCount_eq o).le ((congrArg Tile.fp ht).trans ?_)
    have hf : ((List.range (vxCount o)).map fun p => if bitAt m p = true then (f p).2 else 0)
        = (List.range (vxCount o)).map fun p => if on p = true then (v p).2 else 0 :=
      List.map_congr_left fun p hp => by
        have hp := List.mem_range.mp hp
        rw [hon p (hlt p hp), hv p hp]
    rw [hf]; rfl

theorem cmpLanes_eq (o : VxOp) (va vb m : Nat) (f : Nat → Nat → Nat → Bool × Flags) :
    cmpLanes o va vb m f = maskOut (o.vd.toNat % 8) o.nb (tyWidth o.ty) m
      ((List.range (vxCount o)).map fun p => f (tyWidth o.ty) (laneAt (tyWidth o.ty) va p) (laneAt (tyWidth o.ty) vb p)) := by
  simp only [cmpLanes, zipWith_lanes]; rfl

theorem writesMaskBits_cmp {f : Nat → Nat → Nat → Bool × Flags} {v : Nat → Bool × Flags} (own : NoOwnCause i)
    (hx : exec i s = vxOp i o s fun t => t.cmp s.cur.c o f)
    (hv : ∀ p, f (tyWidth o.ty) (s.elem o o.va p) (s.elem o o.vb p) = v p) (h : s.mayAct i = true) :
    WritesMaskBits s i o (s.active o) v :=
  writesMaskBits_of own hx (cmpLanes_eq _ _ _ _ _) (fun _ hp => bitAt_act s o hp)
    (fun p hp => by rw [Tile.vx1, Tile.vx2, laneAt_operand o.va hp, laneAt_operand o.vb hp, hv]) h

/-- A whole mask register, at c + 2 (R335). -/
theorem gives_maskWhole {x : Tile → Nat} {f : Nat → Bool} (own : NoOwnCause i) (hx : exec i s = vxOp i o s fun t => maskWhole o (x t))
    (hf : ∀ k < 1024, (x s.curTile).testBit k = f k) (h : s.mayAct i = true) :
    Gives (exec i s) fun u => OnlyTile s u ∧ OnlyMasksFlags o s.cur.c s.curTile u.curTile ∧ u.curTile.fp = s.curTile.fp
      ∧ MaskWritten s.curTile u.curTile (o.vd.toNat % 8) (s.cur.c + 2) (fun _ => true) f := by
  obtain ⟨t, hn, ho, ht⟩ := acts_vxOp own hx rfl h
  replace ht := ht.trans (pushOut_m _ _ _ _ _ _ _ _)
  refine ⟨t, hn, ho, ?_, (congrArg Tile.fp ht).trans (List.append_nil _), ?_⟩
  · rw [ht]; exact ⟨rfl, rfl⟩
  · exact maskWritten_push (congrArg Tile.m ht) (fun _ => testBit_allOnes) fun k hk _ => by rw [Nat.testBit_and, hf k hk, testBit_allOnes hk, Bool.and_true]

/-- A scalar result with no flags. -/
theorem writesVxScalar_of {lat x : Nat} (own : NoOwnCause i) (hx : exec i s = vxOp i o s res)
    (hr : res s.curTile = scalarOut (o.vd.toNat % 32) lat x) (h : s.mayAct i = true) : WritesVxScalar s i o lat (BitVec.ofNat 32 x, 0) := by
  obtain ⟨t, hn, ho, ht⟩ := acts_vxOp own hx hr h
  replace ht : t.curTile = (s.curTile.useVx s.cur.c o).pushRW s.cur.c s.cur.slot (rwS (o.vd.toNat % 32) lat (BitVec.ofNat 32 x)) := ht
  have frame := pushRW_scalar_frame (s.curTile.useVx s.cur.c o) s.cur.c s.cur.slot (o.vd.toNat % 32) lat (BitVec.ofNat 32 x)
  rw [← ht] at frame
  refine ⟨t, hn, ho, ⟨congrArg Tile.vxFree frame, ?_⟩, ?_, (congrArg Tile.fp frame).trans (if_pos rfl).symm⟩
  · exact congrArg (fun u : Tile => { u with fp := s.curTile.fp, vxFree := s.curTile.vxFree }) frame
  · rw [ht]; exact scalarWritten_pushRW (s.curTile.useVx s.cur.c o) _ _ _ _ _

/-- A move: each active element takes the value that its index gives, at c + 2 (R335, R336). -/
theorem writesLanes_move {f : Tile → Nat → Nat} {v : Nat → Nat} (own : NoOwnCause i)
    (hx : exec i s = vxOp i o s fun t => t.moveOut s.cur.c o (f t)) (hv : ∀ p < vxCount o, f s.curTile p = v p) (h : s.mayAct i = true) :
    WritesLanes s i o 2 v :=
  writesLanes_of own hx rfl (fun p hp => by rw [Nat.mod_mod, hv p hp]) h

end

/-! Mask operations (R335). -/

theorem testBit_and_eq (x y k : Nat) : (x &&& y).testBit k = (bitAt x k && bitAt y k) := by
  rw [Nat.testBit_and, bitAt_eq_testBit, bitAt_eq_testBit]
theorem testBit_or_eq (x y k : Nat) : (x ||| y).testBit k = (bitAt x k || bitAt y k) := by
  rw [Nat.testBit_or, bitAt_eq_testBit, bitAt_eq_testBit]
theorem testBit_xor_eq (x y k : Nat) : (x ^^^ y).testBit k = (bitAt x k != bitAt y k) := by
  rw [Nat.testBit_xor, bitAt_eq_testBit, bitAt_eq_testBit]
theorem testBit_allOnes_sub (x : BitVec 1024) {k : Nat} (hk : k < 1024) : (allOnes - x.toNat).testBit k = !bitAt x.toNat k := by
  have h := BitVec.toNat_not (x := x)
  rw [allOnes, ← h, BitVec.testBit_toNat, BitVec.getLsbD_not, decide_eq_true hk, Bool.true_and, bitAt_eq_testBit, BitVec.testBit_toNat]

/-- The elements below E that are marked and active (R335). -/
theorem marked_eq (s : State) (o : VxOp) : s.curTile.marked s.cur.c o
    = (List.range (vxCount o)).filter fun k => bitAt (s.curTile.mreg s.cur.c (o.va.toNat % 8)) k && s.active o k := by
  refine List.filter_congr fun k hk => ?_
  have hlt : k < 1024 := (List.mem_range.mp hk).trans_le (vxCount_le o)
  rw [bitAt_eq_testBit, testBit_and_eq, bitAt_act s o hlt]; rfl

/-- Settles O23: the compares share one shape, as do the operations on whole masks. -/
theorem vectorMasks : Obligations.VectorMasks := by
  refine ⟨?_, ?_⟩
  · intro s o w f a b x y nan anyNaN sigNaN forms
    simp only [forms, List.forall_mem_cons]
    exact ⟨writesMaskBits_cmp (fun _ _ => rfl) rfl fun _ => rfl,
      writesMaskBits_cmp (fun _ _ => rfl) rfl fun _ => rfl,
      writesMaskBits_cmp (fun _ _ => rfl) rfl fun _ => rfl,
      writesMaskBits_cmp (f := fun _ => f.compare 0) (fun _ _ => rfl) rfl fun _ => rfl,
      writesMaskBits_cmp (f := fun _ => f.compare 1) (fun _ _ => rfl) rfl fun _ => rfl,
      writesMaskBits_cmp (f := fun _ => f.compare 2) (fun _ _ => rfl) rfl fun _ => rfl,
      writesMaskBits_cmp (f := fun _ => f.compare 3) (fun _ _ => rfl) rfl fun _ => rfl,
      List.forall_mem_nil _⟩
  · intro s o t c ma mb marked whole
    refine ⟨?_, ?_, ?_, ?_, ?_⟩
    · simp only [whole, List.forall_mem_cons]
      exact ⟨gives_maskWhole (fun _ _ => rfl) (rfl : execMand o s = _) fun k _ => testBit_and_eq _ _ k,
        gives_maskWhole (fun _ _ => rfl) (rfl : execMor o s = _) fun k _ => testBit_or_eq _ _ k,
        gives_maskWhole (fun _ _ => rfl) (rfl : execMxor o s = _) fun k _ => testBit_xor_eq _ _ k,
        gives_maskWhole (fun _ _ => rfl) (rfl : execMnot o s = _) fun k hk => testBit_allOnes_sub _ hk,
        List.forall_mem_nil _⟩
    · exact writesVxScalar_of (fun _ _ => rfl) (rfl : execMpop o s = _) (congrArg (fun l => scalarOut (o.vd.toNat % 32) 3 l.length) (marked_eq s o))
    · exact writesVxScalar_of (fun _ _ => rfl) (rfl : execMfirst o s = _)
        (congrArg (fun l => scalarOut (o.vd.toNat % 32) 3 (l.headD 0xFFFFFFFF)) (marked_eq s o))
    · exact writesMaskBits_of (fun _ _ => rfl) (rfl : execMbit o s = _) rfl
        (fun k hk => (bitAt_eq_testBit _ k).trans (testBit_allOnes hk)) fun _ _ => rfl
    · exact writesLanes_move (fun _ _ => rfl) (rfl : execMtov o s = _) fun _ _ => rfl

end Sys2Proof.Machine

/-! Moves, VEXT, VINS and the permutes (R336, R345, R346). -/

namespace Sys2Proof.Machine

/-- A bit of the modifier (R330 to R346). -/
theorem modifierBit_iff (o : VxOp) (k : Nat) : o.n k k = 1 ↔ o.md.getLsbD k = true := by
  rw [VxOp.n, Nat.add_sub_cancel_left, BitVec.getLsbD, Nat.testBit_eq_decide_div_mod_eq, decide_eq_true_iff, pow_one]

theorem modifierBit_eq_zero_iff (o : VxOp) (k : Nat) : o.n k k = 0 ↔ o.md.getLsbD k = false := by
  rw [← Bool.not_eq_true, ← modifierBit_iff]
  have : o.n k k < 2 := by rw [VxOp.n, Nat.add_sub_cancel_left]; exact Nat.mod_lt _ two_pos
  omega

/-- An even number of elements is processed. -/
theorem two_dvd_vxCount (o : VxOp) : 2 ∣ vxCount o := by
  rw [vxCount_eq]
  rcases tyWidth_cases o.ty with h | h | h | h <;> rw [h] <;> exact Dvd.dvd.mul_left (by decide) _

/-! Bytes of a table (R6, R135). -/

theorem leNat_byte (l : List Byte) (k : Nat) : leNat l / 256 ^ k % 256 = (l.getD k 0).toNat := by
  induction l generalizing k with
  | nil => simp [leNat]
  | cons b r ih =>
    have hb := b.isLt
    cases k with
    | zero => rw [leNat, Nat.pow_zero, Nat.div_one, List.getD_cons_zero]; omega
    | succ k =>
      rw [leNat, List.getD_cons_succ, ← ih, Nat.pow_succ', ← Nat.div_div_eq_div_mul]
      congr 2; omega

theorem Mem.nat_byte {m : Mem} (a : Nat) {n k : Nat} (h : m.wf = true) (hk : k < n) : m.nat a n / 2 ^ (8 * k) % 256 = (m.get (a + k)).toNat := by
  rw [Mem.nat, Nat.pow_mul, show 2 ^ 8 = 256 from rfl, leNat_byte, Mem.bytes_eq a n h, List.getD_eq_getElem?_getD, List.getElem?_map, List.getElem?_range hk]
  rfl

/-! VEXT and VINS. -/

theorem ofNat_wrapN (i : Int) : BitVec.ofNat 32 (wrapN 32 i) = BitVec.ofInt 32 i := by
  apply BitVec.eq_of_toNat_eq
  rw [BitVec.toNat_ofNat, Nat.mod_eq_of_lt (wrapN_lt 32 i), BitVec.toNat_ofInt]; rfl

/-- VEXT of an element at or above E gives 0 (R336). -/
theorem vextOut_beyond {s : State} {o : VxOp} (h : vxCount o ≤ s.curTile.sb s.cur.c o) :
    s.curTile.vextOut s.cur.c o = scalarOut (o.vd.toNat % 32) 3 0 := by
  have hlt : ¬ s.curTile.sb s.cur.c o < elemsOf o := Nat.not_lt.mpr h
  have h0 : wrapN 32 (sInt (tyWidth o.ty) 0) = 0 := by rw [sInt, if_pos (Nat.two_pow_pos _)]; rfl
  simp only [Tile.vextOut, hlt, if_false, decide_false, Bool.false_and, Bool.false_eq_true, h0, ite_self]

/-- VEXT of an inactive element writes nothing. -/
theorem vextOut_inactive {s : State} {o : VxOp} (h : s.curTile.sb s.cur.c o < vxCount o) (ha : s.active o (s.curTile.sb s.cur.c o) = false) :
    s.curTile.vextOut s.cur.c o = Out.none := by
  have hact := (bitAt_act s o (h.trans_le (vxCount_le o))).trans ha
  have hlt : s.curTile.sb s.cur.c o < elemsOf o := h
  simp [Tile.vextOut, hlt, hact]

theorem vextOut_active {s : State} {o : VxOp} (h : s.curTile.sb s.cur.c o < vxCount o) (ha : s.active o (s.curTile.sb s.cur.c o) = true) :
    s.curTile.vextOut s.cur.c o = scalarOut (o.vd.toNat % 32) 3 (if o.ty.toNat < 4 ∧ o.md.getLsbD 0 = false
      then wrapN 32 (sInt (tyWidth o.ty) (s.elem o o.va (s.curTile.sb s.cur.c o))) else s.elem o o.va (s.curTile.sb s.cur.c o)) := by
  have hact := (bitAt_act s o (h.trans_le (vxCount_le o))).trans ha
  have hlt : s.curTile.sb s.cur.c o < elemsOf o := h
  simp [Tile.vextOut, hlt, hact, Tile.vx1, laneAt_operand o.va h, tyIsInt, modifierBit_eq_zero_iff]

section
variable {s : State} {i : Instr} {o : VxOp} {res : Tile → Out}

/-- A VX instruction with no result occupies the engine and does nothing else. -/
theorem gives_none (own : NoOwnCause i) (hx : exec i s = vxOp i o s res) (hr : res s.curTile = Out.none) (h : s.mayAct i = true) :
    Gives (exec i s) fun u => OnlyTile s u ∧ u.curTile = { s.curTile with vxFree := s.cur.c + (o.beats.toNat + 1) } :=
  acts_vxOp own hx hr h

/-- VINS writes element S[b], and none when that is not below E. -/
theorem gives_vins (h : s.mayAct (.vins o) = true) :
    Gives (exec (.vins o) s) fun u => OnlyTile s u ∧ OnlyVectors o s.cur.c s.curTile u.curTile
      ∧ LanesWritten s.curTile u.curTile (tyWidth o.ty) o.vd.toNat
          (fun g p => g == 0 && decide (p = s.curTile.sb s.cur.c o ∧ s.curTile.sb s.cur.c o < vxCount o))
          (fun _ p => s.cur.c + 2 + p / (1024 / tyWidth o.ty)) (fun _ _ => s.curTile.sa s.cur.c o) := by
  obtain ⟨t, hn, ho, hv, hl⟩ := gives_laneOut (i := .vins o) (o := o) (fun _ _ => rfl) (rfl : execVins o s = _) rfl h
  refine ⟨t, hn, ho, hv, hl.congr (fun g p _ => ?_) fun _ _ _ _ => ⟨rfl, Nat.mod_mod _ _⟩⟩
  rw [Bool.and_assoc]
  congr 1
  by_cases hs : s.curTile.sb s.cur.c o < vxCount o
  · rw [if_pos (show _ < elemsOf o from hs), bitAt_eq_testBit, Nat.testBit_two_pow, Bool.eq_iff_iff]
    simp only [Bool.and_eq_true, decide_eq_true_eq]
    exact ⟨fun q => ⟨q.2.symm, hs⟩, fun q => ⟨q.1 ▸ hs, q.1.symm⟩⟩
  · rw [if_neg (show ¬ _ < elemsOf o from hs), bitAt_eq_testBit, Nat.zero_testBit]
    simp [hs]

/-- VEXT: a Q register, or an element of Va (R336). -/
theorem vext_cases (h : s.mayAct (.vext o) = true) :
    if o.md.getLsbD 1 then WritesVxScalar s (.vext o) o 3 (BitVec.ofNat 32 (s.curTile.q32 s.cur.c (o.va.toNat % 4)), 0)
    else if vxCount o ≤ s.curTile.sb s.cur.c o then WritesVxScalar s (.vext o) o 3 (0, 0)
    else if s.active o (s.curTile.sb s.cur.c o) then WritesVxScalar s (.vext o) o 3 (if o.ty.toNat < 4 ∧ o.md.getLsbD 0 = false
        then BitVec.ofInt 32 (sInt (tyWidth o.ty) (s.elem o o.va (s.curTile.sb s.cur.c o))) else BitVec.ofNat 32 (s.elem o o.va (s.curTile.sb s.cur.c o)), 0)
    else Gives (exec (.vext o) s) fun u => OnlyTile s u ∧ u.curTile = { s.curTile with vxFree := s.cur.c + (o.beats.toNat + 1) } := by
  have own : NoOwnCause (.vext o) := fun _ _ => rfl
  have hx : exec (.vext o) s = vxOp (.vext o) o s _ := (rfl : execVext o s = _)
  by_cases hq : o.md.getLsbD 1 = true
  · rw [if_pos hq]
    exact writesVxScalar_of own hx (if_pos ((modifierBit_iff o 1).mpr hq)) h
  have hv : ¬ o.n 1 1 = 1 := fun q => hq ((modifierBit_iff o 1).mp q)
  rw [if_neg hq]
  by_cases hn : vxCount o ≤ s.curTile.sb s.cur.c o
  · rw [if_pos hn]
    exact writesVxScalar_of own hx ((if_neg hv).trans (vextOut_beyond hn)) h
  rw [if_neg hn]
  cases ha : s.active o (s.curTile.sb s.cur.c o) with
  | true =>
    have hw := writesVxScalar_of own hx ((if_neg hv).trans (vextOut_active (Nat.not_le.mp hn) ha)) h
    rw [if_pos rfl]
    simpa only [apply_ite (BitVec.ofNat 32), ofNat_wrapN] using hw
  | false =>
    rw [if_neg Bool.false_ne_true]
    exact gives_none own hx ((if_neg hv).trans (vextOut_inactive (Nat.not_le.mp hn) ha)) h

theorem writesLanes_perm {f : Tile → Nat → Nat} {v : Nat → Nat} (own : NoOwnCause i)
    (hx : exec i s = vxOp i o s fun t => permOut o (t.act s.cur.c o) (f t)) (hv : ∀ p < vxCount o, f s.curTile p = v p) (h : s.mayAct i = true) :
    WritesLanes s i o 3 v :=
  writesLanes_of own hx rfl (fun p hp => by rw [hv p hp]) h

end

/-! Permutes. -/

theorem vzipLane_eq {s : State} {o : VxOp} {p : Nat} (hp : p < vxCount o) :
    vzipLane (tyWidth o.ty) (elemsOf o) (o.n 0 0) (s.curTile.vx1 s.cur.c o) (s.curTile.vx2 s.cur.c o) p
      = (if p % 2 = 0 then s.elem o o.va else s.elem o o.vb) ((if o.md.getLsbD 0 then vxCount o / 2 else 0) + p / 2) := by
  obtain ⟨e, he⟩ := two_dvd_vxCount o
  have hi : (if o.md.getLsbD 0 then vxCount o / 2 else 0) + p / 2 < vxCount o := by split_ifs <;> omega
  simp only [vzipLane, modifierBit_iff, Tile.vx1, Tile.vx2]
  split_ifs at hi ⊢ <;> exact laneAt_operand _ hi

theorem vunzipLane_eq {s : State} {o : VxOp} {p : Nat} (hp : p < vxCount o) :
    vunzipLane (tyWidth o.ty) (elemsOf o) (o.n 0 0) (s.curTile.vx1 s.cur.c o) (s.curTile.vx2 s.cur.c o) p
      = if p < vxCount o / 2 then s.elem o o.va (2 * p + o.md.toNat % 2) else s.elem o o.vb (2 * (p - vxCount o / 2) + o.md.toNat % 2) := by
  obtain ⟨e, he⟩ := two_dvd_vxCount o
  have hn : o.n 0 0 = o.md.toNat % 2 := congrArg (· % 2) (Nat.div_one _)
  have hE : elemsOf o = vxCount o := rfl
  rw [vunzipLane, hn, hE]
  split_ifs
  · exact laneAt_operand _ (by omega)
  · exact laneAt_operand _ (by omega)

/-- The selector of a pattern's element: a byte of its table entry (R345). -/
theorem pattern_byte {t : Tile} {k q : Nat} (h : t.cfg.wf = true) (hq : q < 128) :
    t.pattern k / 2 ^ (8 * q) % 256 = (t.cfg.get (16640 + 128 * k + q)).toNat :=
  Mem.nat_byte _ h hq

theorem vshufLane_eq {s : State} {o : VxOp} {p : Nat} (hcfg : s.curTile.cfg.wf = true) (hw : 8 ≤ tyWidth o.ty) (hp : p < vxCount o) :
    vshufLane (tyWidth o.ty) (s.curTile.vx1 s.cur.c o) (s.curTile.vx2 s.cur.c o) (s.curTile.pattern (o.n 5 0)) p
      = (let n := 1024 / tyWidth o.ty
        let sel := (s.curTile.cfg.get (16640 + 128 * (o.md.toNat % 64) + p % n)).toNat
        if sel % 128 < n then (if 128 ≤ sel then s.elem o o.vb else s.elem o o.va) (p / n * n + sel % 128) else 0) := by
  have hn : o.n 5 0 = o.md.toNat % 64 := congrArg (· % 64) (Nat.div_one _)
  have hm : tyWidth o.ty * (1024 / tyWidth o.ty) = 1024 := tyWidth_mul o.ty
  have hE : vxCount o = o.nb * (1024 / tyWidth o.ty) := vxCount_eq o
  simp only [vshufLane, hn, ge_iff_le, Tile.vx1, Tile.vx2]
  generalize 1024 / tyWidth o.ty = n at hm hE ⊢
  have hnpos : 0 < n := Nat.pos_of_ne_zero (by rintro rfl; simp at hm)
  have hn128 : n ≤ 128 := Nat.le_of_mul_le_mul_left (hm.le.trans (Nat.mul_le_mul_right 128 hw)) (by omega)
  rw [pattern_byte hcfg ((Nat.mod_lt p hnpos).trans_le hn128)]
  generalize (s.curTile.cfg.get (16640 + 128 * (o.md.toNat % 64) + p % n)).toNat = sel
  by_cases hk : sel % 128 < n
  · have hi : p / n * n + sel % 128 < vxCount o := by
      have hd : p / n + 1 ≤ o.nb := Nat.div_lt_of_lt_mul (by rwa [Nat.mul_comm, ← hE])
      calc p / n * n + sel % 128 < (p / n + 1) * n := by rw [Nat.succ_mul]; omega
        _ ≤ vxCount o := hE ▸ Nat.mul_le_mul_right n hd
    rw [if_pos hk, if_pos hk]
    split_ifs <;> exact laneAt_operand _ hi
  · rw [if_neg hk, if_neg hk]

/-- Settles O24: the moves and the permutes share two shapes, VEXT and VINS have their own. -/
theorem vectorMoves : Obligations.VectorMoves := by
  refine ⟨?_, ?_⟩
  · intro s o t c w a b sa n forms
    refine ⟨?_, vext_cases, gives_vins⟩
    simp only [forms, List.forall_mem_cons]
    exact ⟨writesLanes_move (fun _ _ => rfl) (rfl : execVsel o s = _) fun p hp => by
        split_ifs <;> exact laneAt_operand _ hp,
      writesLanes_move (fun _ _ => rfl) (rfl : execVmov o s = _) fun p hp => laneAt_operand _ hp,
      writesLanes_move (fun _ _ => rfl) (rfl : execVsplat o s = _) fun _ _ => if_congr (modifierBit_iff o 0) rfl rfl,
      writesLanes_move (fun _ _ => rfl) (rfl : execViota o s = _) fun _ _ => rfl,
      writesLanes_move (fun _ _ => rfl) (rfl : execVzero o s = _) fun _ _ => rfl,
      List.forall_mem_nil _⟩
  · intro s o w e a b sel n forms
    refine ⟨?_, fun hcfg hw => writesLanes_perm (fun _ _ => rfl) (rfl : execVshuf o s = _) fun p hp => vshufLane_eq hcfg hw hp⟩
    simp only [forms, List.forall_mem_cons]
    exact ⟨writesLanes_perm (fun _ _ => rfl) (rfl : execVrot o s = _) fun p hp => laneAt_operand _ (Nat.mod_lt _ (Nat.zero_lt_of_lt hp)),
      writesLanes_perm (fun _ _ => rfl) (rfl : execVzip o s = _) fun p hp => vzipLane_eq hp,
      writesLanes_perm (fun _ _ => rfl) (rfl : execVunzip o s = _) fun p hp => vunzipLane_eq hp,
      writesLanes_perm (fun _ _ => rfl) (rfl : execVrev o s = _) fun p hp =>
        laneAt_operand (i := elemsOf o - 1 - p) _ (by have hE : elemsOf o = vxCount o := rfl; omega),
      List.forall_mem_nil _⟩

end Sys2Proof.Machine
